-- ==== Sys2Proof/Word.lean ====
section
/-! DEFINITION. The byte of the Request Link and of a segment body, and the one shape in which every table of the
3600 is held: a list of (key, entry) pairs in rising key order. -/

namespace Sys2Proof

/-- One byte on the Request Link, in the cold store or in the EEPROM. -/
abbrev Byte := BitVec 8

/-- A run of bytes, in the order in which they are sent or stored. -/
abbrev Bytes := List Byte

/-- A table of the 3600 held as (key, entry) pairs with strictly rising keys; a key that is not listed has no entry
(a FREE partition, a free slot, an unused hold id, a reference that is not live). -/
abbrev Tab (α : Type) := List (Nat × α)

end Sys2Proof
end

