-- ==== Sys2Proof/Config.lean ====
section
/-! DEFINITION. What the part fixes for good: the capacities and limits that the chapters name, the interval and throttle
code tables, and the free values (constants with no body) for results whose value the spec does not state. -/

namespace Sys2Proof.Config

/-- Seconds in a day (00_scope, Time and days; R3). -/
def secondsPerDay : Nat := 86400
/-- Archive time stops here (R35). -/
def timeLimit : Nat := 4294967295
/-- The greatest day number (00_scope, Time and days). -/
def lastDay : Nat := 49710
/-- The greatest source number (R1). -/
def maxSource : Nat := 4095
/-- A longer duration is held as this (R4). -/
def maxDuration : Nat := 604800
/-- The greatest charge (R1). -/
def maxCharge : Nat := 2147483647
/-- Entries of the Partition Table (3.3). -/
def partitionEntries : Nat := 512
/-- PARTITION_TABLE_HIGH is present from this many non-FREE entries (R34, R42). -/
def partitionHigh : Nat := 480
/-- Accounts of the Account Table (R143). -/
def accountEntries : Nat := 65536
/-- ACCOUNT_TABLE_HIGH is present from this many accounts in use (R34, R144). -/
def accountHigh : Nat := 61440
/-- Slots of the Hot Slot Pool (R101). -/
def hotSlots : Nat := 67108864
/-- Entries of the Segment Directory (R102). -/
def segmentEntries : Nat := 1048576
/-- Entries of the Reference Map (R81). -/
def mapEntries : Nat := 4294967296
/-- Longest segment body in bytes (R112). -/
def bodyLimit : Nat := 524288
/-- Most records in one segment (R112). -/
def recordLimit : Nat := 65535
/-- Longest payload of a frame (R13). -/
def payloadLimit : Nat := 8192
/-- Bytes of one Staging Buffer block (4.2). -/
def blockBytes : Nat := 512
/-- File contexts (R58). -/
def fileContexts : Nat := 32
/-- Query contexts (R84). -/
def queryContexts : Nat := 64
/-- Entries of the Amend-in-Flight Table (R84). -/
def amendEntries : Nat := 16
/-- Scan slots (R153). -/
def scanSlots : Nat := 4
/-- Entries of the Hold Table (R129). -/
def holdEntries : Nat := 64
/-- Pins on one partition at a time (R50). -/
def pinLimit : Nat := 8
/-- Map entries of one sweep quantum (R138). -/
def sweepEntries : Nat := 4096
/-- Segment numbers in one PARTITION_INFO response (R54). -/
def listedSegments : Nat := 512
/-- Elements of one refused-entry list (R17). -/
def refusedElements : Nat := 64
/-- Payload bytes of a QUERY_SUBSCRIBER response before its records (R90). -/
def queryFixedBytes : Nat := 26

/-- Dedicated CONTROL, QUERY and shared credits, INGEST frame and block credits (2.3). -/
def controlCredits : Nat := 4
def queryCredits : Nat := 16
def sharedCredits : Nat := 8
def frameCredits : Nat := 32
def blockCredits : Nat := 256

/-- Seconds of each interval code 1 to 15; code 0 is disabled (3.2). -/
def intervalSeconds : List Nat :=
  [0, 10, 30, 60, 120, 300, 600, 900, 1800, 3600, 7200, 14400, 28800, 43200, 86400, 172800]

/-- Milliseconds of the ACTIVE window by throttle active code (R168). -/
def activeMillis : List Nat := [1, 2, 5, 10, 20, 50, 100, 200]

/-- Milliseconds of the REST window by throttle rest code; 0 is throttle off (R168). -/
def restMillis : List Nat := [0, 1, 2, 5, 10, 20, 50, 100]

/-- FREE VALUE (DESIGN CHOICE, log entry 1): the value a signed 64-bit sum takes when its exact value lies outside the
signed 64-bit range, which the spec does not state. Nothing can be proved about it but that it is a 64-bit number. -/
opaque signedBeyond : Int → BitVec 64

/-- FREE VALUE (DESIGN CHOICE, log entry 1): the value a 64-bit count of an account, a file context or a result takes
when its exact value is 2^64 or more, which the spec does not state. -/
opaque countBeyond : Nat → BitVec 64

/-- The model's bound on the internal actions taken at one event (log entry 2); no cascade of the spec comes near it. -/
def settleBound : Nat := 4294967296

end Sys2Proof.Config
end

