-- ==== Sys2Proof/Syntax.lean ====
section
/-! DEFINITION. The commands of the 3600: one constructor for each row of spec/opcode_table.json. The request kinds carry
the request frame as it arrived, the events of devices and timers carry what the outside decides. -/

namespace Sys2Proof

/-- A delimited request frame without its kind byte, its length and its check: the tag, the context id and generation bytes,
header bytes 6 and 7, and the payload (1.4, request header). The rows of the 25 kinds carry one whose check passes and
whose delimited length agrees with its header (R13); a frame given byte by byte is the FRAME_CHECK row's. -/
structure Request where
  tag : Byte
  ctx : Byte
  gen : Byte
  rsv : BitVec 16
  payload : Bytes
deriving DecidableEq, Repr

/-- How the read of a segment body ends (R106, R159): with the body as the Cold Store Controller last wrote it, with a read
fault, or with other bytes (the flash array has lost or changed some). -/
inductive ReadResult where
  | stored
  | fault
  | altered (body : Bytes)
deriving DecidableEq, Repr

/-- What the node brings to a start-up: whether the DRAM's content was lost without power, and whether the RESET input is asserted during
the start-up and still asserted at its end (R179, log entry 23). -/
structure NodeStart where
  dramLost : Bool
  resetDuring : Bool
deriving DecidableEq, Repr

/-- The commands (spec/opcode_table.json, one row each). -/
inductive Instr where
  /-- POWER_ON: whether the read of the EEPROM ends in a fault (R178), and what the node brings. -/
  | powerOn (eepromFault : Bool) (node : NodeStart)
  | resetPinAssert
  | resetPinRelease
  | warmResetEnd
  | laneLockLoss
  | laneLockReturn
  | hello
  | frameSend
  /-- FRAME_CHECK: a delimited frame, byte by byte (R13, R20 step 1). -/
  | frameCheck (frame : Bytes)
  /-- UNKNOWN_KIND: the kind byte and the rest of the frame (R12). -/
  | unknownKind (code : Byte) (r : Request)
  | setTime (r : Request)
  | closeDay (r : Request)
  | setRetention (r : Request)
  | placeHold (r : Request)
  | releaseHold (r : Request)
  | listHolds (r : Request)
  | setConfig (r : Request)
  | saveConfig (r : Request)
  /-- EEPROM_WRITE_COMPLETION: whether the write ended in a fault (R177). -/
  | eepromWriteCompletion (fault : Bool)
  | readStatus (r : Request)
  | readCounters (r : Request)
  | clearCounters (r : Request)
  | partitionInfo (r : Request)
  | reset (r : Request)
  | linkReset (r : Request)
  | fileOpen (r : Request)
  | records (r : Request)
  | fileClose (r : Request)
  | fileAbort (r : Request)
  | fetch (r : Request)
  | querySubscriber (r : Request)
  | amend (r : Request)
  | readAccount (r : Request)
  | auditScan (r : Request)
  | verifyDays (r : Request)
  | cancel (r : Request)
  | recordEvent
  | secondEvent
  /-- QUIET_TIMER_EXPIRY of the partition of a day (R45). -/
  | quietTimerExpiry (day : Nat)
  /-- FILE_IDLE_EXPIRY of a file context (R76). -/
  | fileIdleExpiry (ctx : Nat)
  | patrolTimerExpiry
  | millisecondTick
  | throttlePhaseEnd
  | sortEnd
  /-- WRITE_COMPLETION: whether the write ended in a write fault (R105). -/
  | writeCompletion (fault : Bool)
  | decodeCompletion (read : ReadResult)
  | readCompletion (read : ReadResult)
  | sweepDecision
  | lossOfNodePower
deriving DecidableEq, Repr

end Sys2Proof
end

