-- ==== Sys2Proof/Machine/State.lean ====
section
/-! DEFINITION. State: every table, queue, timer, counter, mode and pin the spec gives the 3600, block by block, as plain data,
and the queue of commands that wait. Also the closed reasons a step can stop for, and State.reset. -/

namespace Sys2Proof.Machine

/-! ## Records -/

/-- A record's class (R1). -/
inductive CallClass where
  | voice | message | data | other
deriving DecidableEq, Repr

/-- One value for each class. -/
structure PerClass (α : Type) where
  voice : α
  message : α
  data : α
  other : α
deriving DecidableEq, Repr

/-- The fields of a live record (R1). -/
structure CallRecord where
  source : Nat
  sequence : Nat
  key : Nat
  cls : CallClass
  start : Nat
  duration : Nat
  volume : Nat
  charge : Nat
  cell : Option Nat
  partner : Option Nat
  amendCount : Nat
  late : Bool
  clamped : Bool
deriving DecidableEq, Repr

/-- Where a live record lies (R80). -/
inductive Location where
  | hot (slot : Nat)
  | segment (number ordinal : Nat)
deriving DecidableEq, Repr

/-- A Reference Map entry but for its key, the reference (R80). -/
structure MapEntry where
  key : Nat
  day : Nat
  cls : CallClass
  late : Bool
  clamped : Bool
  amendCount : Nat
  charge : Nat
  loc : Location
deriving DecidableEq, Repr

/-! ## Link Port (chapter 2) -/

inductive LinkState where
  | resetting | opened
deriving DecidableEq, Repr

inductive ReqClass where
  | control | ingest | query
deriving DecidableEq, Repr

/-- The pool a request's frame credit came from (R21). -/
inductive Pool where
  | control | query | shared | ingest
deriving DecidableEq, Repr

/-- A count of credits of each kind (2.3). -/
structure Credits where
  control : Nat
  query : Nat
  shared : Nat
  frame : Nat
  block : Nat
deriving DecidableEq, Repr

/-- The 25 request kinds (R12). -/
inductive Kind where
  | setTime | closeDay | setRetention | placeHold | releaseHold | listHolds | setConfig | saveConfig | readStatus
  | readCounters | clearCounters | partitionInfo | reset | linkReset
  | fileOpen | records | fileClose | fileAbort
  | fetch | querySubscriber | amend | readAccount | auditScan | verifyDays | cancel
deriving DecidableEq, Repr

/-- A position in QUERY_SUBSCRIBER's order: day, start, reference (R87). -/
structure Position where
  day : Nat
  start : Nat
  ref : Nat
deriving DecidableEq, Repr

/-- QUERY_SUBSCRIBER's parameters (R87). -/
structure SubscriberParams where
  key : Nat
  firstDay : Nat
  lastDay : Nat
  classMask : Nat
  limit : Nat
  resume : Option Position
deriving DecidableEq, Repr

/-- AMEND's parameters (R92). -/
structure AmendParams where
  ref : Nat
  expected : Nat
  charge : Nat
  duration : Option Nat
  volume : Option Nat
deriving DecidableEq, Repr

/-- AUDIT_SCAN's parameters (R153). -/
structure ScanFilter where
  sourceMatch : Nat
  sourceMask : Nat
  classMask : Nat
  firstDay : Nat
  lastDay : Nat
  keyMatch : Nat
  keyMask : Nat
  flagsMatch : Nat
  flagsMask : Nat
deriving DecidableEq, Repr

/-- A hold's fields but for its id (R129), which are PLACE_HOLD's parameters (R131). -/
structure Hold where
  label : Nat
  key : Nat
  maskBits : Nat
  firstDay : Nat
  lastDay : Nat
  classMask : Nat
deriving DecidableEq, Repr

/-- The decoded parameters of a request (R16), by kind. -/
inductive Params where
  | setTime (t : Nat)
  | closeDay (day : Nat)
  | setRetention (cls days : Nat) (applyNow : Bool)
  | placeHold (h : Hold)
  | releaseHold (id : Nat)
  | listHolds
  | setConfig (elements : List (Nat × Nat))
  | saveConfig
  | readStatus (clear : Bool)
  | readCounters (bank : Nat)
  | clearCounters
  | partitionInfo (day firstIndex : Nat)
  | reset
  | linkReset
  | fileOpen (source file : Nat)
  | records
  | fileClose (trailer : Option (Nat × Int))
  | fileAbort
  | fetch (ref : Nat)
  | querySubscriber (p : SubscriberParams)
  | amend (p : AmendParams)
  | readAccount (source day : Nat)
  | auditScan (f : ScanFilter)
  | verifyDays (firstDay lastDay : Nat)
  | cancel (tag : Nat)
deriving DecidableEq, Repr

/-- A tag table entry of an outstanding tag (R22). The kind is held as its code, since an unknown kind has one too. -/
structure TagEntry where
  code : Nat
  cls : ReqClass
  pool : Pool
  epoch : Nat
deriving DecidableEq, Repr

/-- A CONTROL or QUERY request in the input frame buffer (R20, R31). -/
structure BufferedRequest where
  kind : Kind
  tag : Nat
  epoch : Nat
  pool : Pool
  params : Params
deriving DecidableEq, Repr

/-- A frame in the output queue (R24). riders are the formerly withheld INGEST frame credits placed in it (R26), and
startsReset marks the OK response of a RESET request (R180). -/
structure OutFrame where
  tag : Nat
  status : Nat
  payload : Bytes
  riders : Nat
  startsReset : Bool
deriving DecidableEq, Repr

/-- The Link Port's state (chapter 2). -/
structure LinkPort where
  link : LinkState
  epoch : Nat
  tags : Tab TagEntry
  inUse : Credits
  withheld : Nat
  due : Credits
  buffer : List BufferedRequest
  outQueue : List OutFrame
  /-- The model's record of the frames sent, oldest first, each as its bytes (log entry 3). -/
  wire : List Bytes
deriving DecidableEq, Repr

/-! ## Archive Clock and Partition Controller (chapter 3) -/

/-- The Archive Clock's state (3.1). tick counts the millisecond ticks since power-on (R36). -/
structure ArchiveClock where
  archiveTime : Nat
  clockSet : Bool
  rolloverDay : Nat
  tick : Nat
deriving DecidableEq, Repr

/-- A non-FREE partition's state (3.3). -/
inductive PartState where
  | opened | quiet | packing | packed | repacking
deriving DecidableEq, Repr

/-- A reader or mover that asks for a partition (3.5). -/
inductive Waiter where
  /-- Reader: a FETCH, a QUERY_SUBSCRIBER or the read of a moving amendment, by query context. -/
  | query (ctx : Nat)
  /-- Reader: the Ingest Engine's duplicate comparison. -/
  | ingest
  /-- Reader: an AUDIT_SCAN or VERIFY_DAYS visit, by scan slot. -/
  | scan (slot : Nat)
  /-- Reader: a patrol step. -/
  | patrol
  /-- Mover: the switch-over of the job in the job context. -/
  | job
  /-- Mover: the move of a moving amendment, by query context. -/
  | move (ctx : Nat)
  /-- Mover: a sweep. -/
  | sweep
deriving DecidableEq, Repr

/-- A non-FREE Partition Table entry but for its key, the day (3.3). -/
structure Partition where
  state : PartState
  dayClosed : Bool
  quietElapsed : Nat
  quietExpired : Bool
  live : PerClass Nat
  hotCount : Nat
  segments : List Nat
  pins : Nat
  moverHolding : Bool
  moverWaiting : Bool
  waitQueue : List Waiter
  expiryDue : PerClass Bool
  heldRemainder : PerClass Bool
deriving DecidableEq, Repr

/-- The Partition Table, keyed by day; a day not listed has no entry, and 512 less the listed ones are FREE (R41). -/
structure PartitionTable where
  parts : Tab Partition
deriving DecidableEq, Repr

/-! ## Ingest Engine (chapter 4) -/

/-- The fields of an OPEN file context (R58). -/
structure OpenFile where
  source : Nat
  file : Nat
  received : Nat
  stored : Nat
  duplicates : Nat
  refused : Nat
  chargeSum : Int
  idle : Nat
deriving DecidableEq, Repr

/-- A file context: its generation, and the open file or none when FREE (R58). -/
structure FileContext where
  generation : Nat
  file : Option OpenFile
deriving DecidableEq, Repr

/-- A Batch Queue entry (R61). The header's bytes 4 to 7 are kept for the check at the drain (R60). -/
structure BatchEntry where
  kind : Kind
  tag : Nat
  ctx : Nat
  gen : Nat
  rsv : Nat
  epoch : Nat
  payload : Bytes
deriving DecidableEq, Repr

/-- Where an operation that needs a pin and quanta stands. -/
inductive Stage where
  | pinWait | grantWait | quantum
deriving DecidableEq, Repr

/-- A delivered record whose duplicate comparison needs a segment read (R68). -/
structure PendingDuplicate where
  record : CallRecord
  delivered : Nat
  size : Nat
  day : Nat
  seg : Nat
  ord : Nat
  stage : Stage
deriving DecidableEq, Repr

/-- The RECORDS drain in progress at the head of the Batch Queue (R62, R73). -/
structure Drain where
  offset : Nat
  position : Nat
  received : Nat
  stored : Nat
  duplicates : Nat
  conflicts : Nat
  refused : Nat
  late : Nat
  clamped : Nat
  entries : List (Nat × Nat)
  dup : Option PendingDuplicate
deriving DecidableEq, Repr

/-- The Ingest Engine's state. The Staging Buffer's blocks are the payloads of the queued RECORDS entries (R61). -/
structure IngestEngine where
  contexts : List FileContext
  queue : List BatchEntry
  drain : Option Drain
deriving DecidableEq, Repr

/-! ## Index Controller and Query and Amend Unit (chapter 5) -/

/-- The Reference Map, keyed by reference as one number (source × 2^48 + sequence, whose order is the reference order of R2), and
the archive signature of R179. -/
structure IndexController where
  map : Tab MapEntry
  signatureValid : Bool
deriving DecidableEq, Repr

/-- A QUERY_SUBSCRIBER's progress (R88 to R90): the segments of the day still to be read, the day's candidates with their HELD
values, the day's unreadable count, the response's list, and the unreadable count so far. -/
structure SubscriberProgress where
  toRead : List Nat
  candidates : List (CallRecord × Bool)
  dayUnreadable : Nat
  list : List (CallRecord × Bool)
  unreadable : Nat
deriving DecidableEq, Repr

/-- What a query context is working on (R84). -/
inductive QueryWork where
  | fetch (ref : Nat)
  | subscriber (p : SubscriberParams) (g : SubscriberProgress)
  | amend (p : AmendParams)
deriving DecidableEq, Repr

/-- A query context in use (R84): the day pinned or asked for, and the segment and ordinal being read. -/
structure QueryContext where
  tag : Nat
  epoch : Nat
  stage : Stage
  cancelling : Bool
  day : Nat
  seg : Nat
  ord : Nat
  work : QueryWork
deriving DecidableEq, Repr

/-- A moving amendment's phase (R95). -/
inductive AmendPhase where
  | pinWait | reading | moverWait
deriving DecidableEq, Repr

/-- An Amend-in-Flight entry (R95); the table is keyed by the amendment's query context. -/
structure AmendFlight where
  params : AmendParams
  day : Nat
  loc : Location
  copy : Option CallRecord
  phase : AmendPhase
deriving DecidableEq, Repr

structure QueryUnit where
  contexts : Tab QueryContext
  inFlight : Tab AmendFlight
deriving DecidableEq, Repr

/-! ## Hot store, Compaction Engine and cold store (chapter 6) -/

/-- The Hot Slot Pool, keyed by slot number; a slot not listed is free (R101). -/
structure HotStore where
  slots : Tab CallRecord
deriving DecidableEq, Repr

inductive SegState where
  | writing | active | damaged
deriving DecidableEq, Repr

/-- A non-FREE Segment Directory entry but for its key, the segment number (R102). -/
structure SegEntry where
  state : SegState
  day : Nat
  records : Nat
  live : Nat
  firstKey : Nat
  lastKey : Nat
  earliest : Nat
  latest : Nat
  length : Nat
  check : Nat
deriving DecidableEq, Repr

/-- The Segment Directory, and the segment bodies as last written to the flash array (R102, R105). -/
structure ColdStore where
  dir : Tab SegEntry
  bodies : Tab Bytes
deriving DecidableEq, Repr

/-- The seven job kinds, in the order of the round robin (R167). -/
inductive JobKind where
  | query | pack | repack | sweep | verify | scan | patrol
deriving DecidableEq, Repr

/-- One value for each job kind. -/
structure PerKind (α : Type) where
  query : α
  pack : α
  repack : α
  sweep : α
  verify : α
  scan : α
  patrol : α
deriving DecidableEq, Repr

/-- A snapshot member (R115). -/
structure Member where
  ref : Nat
  loc : Location
  copy : Option CallRecord
deriving DecidableEq, Repr

inductive JobPhase where
  | decoding | encoding | switchWait
deriving DecidableEq, Repr

/-- The job context when held (R115). rest holds the members not yet encoded, in order once sorted; run and body are the run and
body of the encode quantum under way; written lists the segments written so far with their members by ordinal; toDecode lists the
old segments a repack has still to read. -/
structure Job where
  repack : Bool
  day : Nat
  phase : JobPhase
  members : List Member
  rest : List Member
  run : List Member
  body : Bytes
  writing : Option Nat
  written : List (Nat × List Member)
  toDecode : List Nat
deriving DecidableEq, Repr

/-- The Compaction Engine's state: the job context, COLD_FULL, and the partitions that wait for a FREE segment slot (R119). -/
structure CompactionEngine where
  job : Option Job
  coldFull : Bool
  coldWait : List Nat
deriving DecidableEq, Repr

/-! ## Retention Unit (chapter 7) -/

/-- A Retention Table entry (R125). -/
structure Retention where
  active : Nat
  pending : Nat
deriving DecidableEq, Repr

/-- A Sweep Queue entry but for its key, the day (R135). -/
structure SweepEntry where
  walk : Option Nat
  restart : Bool
deriving DecidableEq, Repr

inductive SweepStage where
  | waiting | admitted | running
deriving DecidableEq, Repr

/-- The sweep in flight (R137): decided counts the entries of the running quantum (R138). -/
structure Sweep where
  day : Nat
  stage : SweepStage
  decided : Nat
deriving DecidableEq, Repr

structure RetentionUnit where
  table : PerClass Retention
  holds : Tab Hold
  queue : Tab SweepEntry
  sweep : Option Sweep
deriving DecidableEq, Repr

/-! ## Audit Unit (chapter 8) -/

/-- An account but for its key, (source, day) as the number source × 65536 + day (R143). -/
structure Account where
  stored : Nat
  duplicates : Nat
  storedSum : Int
  amends : Nat
  amendDelta : Int
  retired : Nat
  retiredSum : Int
  live : Nat
deriving DecidableEq, Repr

/-- The running result of an AUDIT_SCAN (R156). -/
structure ScanResult where
  visited : Nat
  matched : Nat
  durationSum : Int
  volumeSum : Int
  chargeSum : Int
  buckets : List Nat
  unreadable : Nat
  earliest : Option Nat
  latest : Option Nat
deriving DecidableEq, Repr

/-- The running result of a VERIFY_DAYS (R159). -/
structure VerifyResult where
  visited : Nat
  checked : Nat
  newlyDamaged : Nat
  alreadyDamaged : Nat
deriving DecidableEq, Repr

inductive ScanWork where
  | scan (f : ScanFilter) (r : ScanResult)
  | verify (firstDay lastDay : Nat) (r : VerifyResult)
deriving DecidableEq, Repr

/-- A held scan slot (R153). visiting is the day asked for or visited; the next day to visit after it is that day plus one. -/
structure ScanSlot where
  tag : Nat
  epoch : Nat
  stage : Stage
  cancelling : Bool
  visiting : Nat
  toRead : List Nat
  work : ScanWork
deriving DecidableEq, Repr

/-- A patrol step in progress (R162): the day its search began, whether the search has wrapped since, the day asked for or
pinned, and the segment under check with its list position. -/
structure PatrolStep where
  began : Option Nat
  wrapped : Bool
  day : Nat
  seg : Nat
  place : Nat
  stage : Stage
deriving DecidableEq, Repr

structure AuditUnit where
  accounts : Tab Account
  /-- Counters 1 to 40 of the current bank, in order (R149). -/
  current : List Nat
  /-- Counters 1 to 40 of the previous-day bank. -/
  previous : List Nat
  captureDay : Option Nat
  slots : Tab ScanSlot
  cursorDay : Nat
  cursorPlace : Nat
  patrolElapsed : Nat
  patrol : Option PatrolStep
  damageFound : Bool
deriving DecidableEq, Repr

/-! ## Work Arbiter (chapter 9) -/

/-- Who placed a request for an engine quantum (R164). -/
inductive Requester where
  | query (ctx : Nat)
  | ingest
  | job
  | sweep
  | slot (n : Nat)
  | patrol
deriving DecidableEq, Repr

/-- The work of a granted quantum, by the event that completes it (R163). -/
inductive Quantum where
  | decode | check | sort | write | sweep
deriving DecidableEq, Repr

/-- The granted request while the engine is BUSY, and the segment it works on (0 where it works on none). -/
structure Grant where
  kind : JobKind
  who : Requester
  quantum : Quantum
  seg : Nat
deriving DecidableEq, Repr

inductive WindowPhase where
  | active | rest
deriving DecidableEq, Repr

structure WorkArbiter where
  /-- BUSY with the granted request, or none when IDLE (R163). -/
  engine : Option Grant
  requests : PerKind (List Requester)
  packQueue : List Nat
  repackQueue : List Nat
  /-- The round-robin pointer of each level 0 to 3: the kind last granted there (R167). -/
  pointers : List (Option JobKind)
  phase : WindowPhase
  elapsed : Nat
  pressure : Bool
deriving DecidableEq, Repr

/-! ## Configuration Loader (chapter 10) -/

/-- Settings 1 to 19 in force (R174); settings 20 to 23 are the pending values of the Retention Table. -/
structure Settings where
  graceDays : Nat
  quietCode : Nat
  activityMask : Nat
  fileIdleCode : Nat
  repackThreshold : Nat
  repackPercent : Nat
  lowWatermark : Nat
  highWatermark : Nat
  priority : PerKind Nat
  activeCode : Nat
  restCode : Nat
  patrolCode : Nat
  alertMask : Nat
deriving DecidableEq, Repr

inductive ConfigSource where
  | image | defaults
deriving DecidableEq, Repr

/-- The configuration image in the EEPROM (10.3): whether its signature field holds the marker, and its other fields. -/
structure ConfigImage where
  marker : Bool
  format : Nat
  settings : List Nat
  check : Nat
deriving DecidableEq, Repr

/-- The save under way while CL is SAVING (R177): the step 1 to 3, the copied 23 values, and the request to answer. -/
structure Saving where
  step : Nat
  copied : List Nat
  tag : Nat
  epoch : Nat
deriving DecidableEq, Repr

structure ConfigLoader where
  settings : Settings
  source : ConfigSource
  saving : Option Saving
  image : ConfigImage
deriving DecidableEq, Repr

/-! ## Power and pins -/

/-- A start-up that waits at its beginning for the release of the RESET input (R179), with what POWER_ON gave it: whether the read of the
EEPROM ends in a fault, and whether the input is asserted again in its middle. A loss of the DRAM's content shows in the signature. -/
structure StartUp where
  eepromFault : Bool
  resetDuring : Bool
deriving DecidableEq, Repr

/-- Node power, the input pins, and the start-up or warm reset in progress. -/
structure PowerState where
  powered : Bool
  startUp : Option StartUp
  warmReset : Bool
  resetPin : Bool
  laneLock : Bool
deriving DecidableEq, Repr

/-! ## The whole state -/

/-- The 3600's state, block by block, and the queue of the commands that wait, first in, first out. -/
structure State where
  pending : List Instr
  power : PowerState
  lp : LinkPort
  ck : ArchiveClock
  pc : PartitionTable
  ie : IngestEngine
  ix : IndexController
  qa : QueryUnit
  hs : HotStore
  ce : CompactionEngine
  cs : ColdStore
  ru : RetentionUnit
  au : AuditUnit
  wa : WorkArbiter
  cl : ConfigLoader
deriving DecidableEq, Repr

/-- The reasons a step stops with a fault: none. The spec gives every command of the table an effect in every state of the 3600
(its faults of the media, read faults, write faults and lost lane lock, are results that the commands carry and that have their
stated effects), so no constructor stands here: nothing raises one, which is safe. -/
inductive Fault where
deriving DecidableEq, Repr

/-- The reasons a step is refused. -/
inductive Refusal where
  /-- Raised by an arm of exec for a command that has no meaning yet; no arm raises it. Safe: the model stops there. -/
  | notModelled (mnemonic : String)
deriving DecidableEq, Repr

/-! ## After reset -/

def Credits.zero : Credits := { control := 0, query := 0, shared := 0, frame := 0, block := 0 }

/-- The defaults of settings 1 to 19 (R174). -/
def Settings.defaults : Settings :=
  { graceDays := 2, quietCode := 8, activityMask := 3, fileIdleCode := 6, repackThreshold := 4096, repackPercent := 50,
    lowWatermark := 4194304, highWatermark := 8388608,
    priority := { query := 0, pack := 1, repack := 2, sweep := 2, verify := 2, scan := 3, patrol := 3 },
    activeCode := 5, restCode := 3, patrolCode := 3, alertMask := 63 }

/-- The state at the end of a start-up that took the INITIALISE path with the default settings (R57, R58, R83, R84, R101, R107,
R124, R125, R129, R142, R148, R152, R153, R161, R173, R174, R178, R179), before the first HELLO (R30). Lane lock present, the RESET
input released and an EEPROM with no image are what the outside supplies (log entry 4). -/
def State.reset : State :=
  { pending := []
    power := { powered := true, startUp := none, warmReset := false, resetPin := false, laneLock := true }
    lp := { link := .resetting, epoch := 0, tags := [], inUse := Credits.zero, withheld := 0, due := Credits.zero, buffer := [],
            outQueue := [], wire := [] }
    ck := { archiveTime := 0, clockSet := false, rolloverDay := 0, tick := 0 }
    pc := { parts := [] }
    ie := { contexts := List.replicate Config.fileContexts { generation := 0, file := none }, queue := [], drain := none }
    ix := { map := [], signatureValid := true }
    qa := { contexts := [], inFlight := [] }
    hs := { slots := [] }
    ce := { job := none, coldFull := false, coldWait := [] }
    cs := { dir := [], bodies := [] }
    ru := { table := { voice := { active := 400, pending := 400 }, message := { active := 400, pending := 400 },
                       data := { active := 180, pending := 180 }, other := { active := 90, pending := 90 } }
            holds := [], queue := [], sweep := none }
    au := { accounts := [], current := List.replicate 40 0, previous := List.replicate 40 0, captureDay := none, slots := [],
            cursorDay := 0, cursorPlace := 0, patrolElapsed := 0, patrol := none, damageFound := false }
    wa := { engine := none,
            requests := { query := [], pack := [], repack := [], sweep := [], verify := [], scan := [], patrol := [] }
            packQueue := [], repackQueue := [], pointers := List.replicate 4 none, phase := .active, elapsed := 0,
            pressure := false }
    cl := { settings := Settings.defaults, source := .defaults, saving := none,
            image := { marker := false, format := 0, settings := [], check := 0 } } }

end Sys2Proof.Machine
end

