-- ==== Sys2Proof/Machine/Table.lean ====
section
/-! DEFINITION. Reading and changing a table (Tab): the one place where a table's canonical form (keys strictly rising) is
kept. Every table of the 3600 is changed through these operations only. -/

namespace Sys2Proof.Tab

variable {α β : Type}

/-- The entry under a key, or none. -/
def get : Tab α → Nat → Option α
  | [], _ => none
  | (j, v) :: t, k => if k = j then some v else get t k

/-- Sets the entry under a key, in its place by key order. -/
def put : Tab α → Nat → α → Tab α
  | [], k, v => [(k, v)]
  | (j, w) :: t, k, v =>
    if k = j then (k, v) :: t
    else if k < j then (k, v) :: (j, w) :: t
    else (j, w) :: put t k v

/-- Removes the entry under a key. -/
def del (t : Tab α) (k : Nat) : Tab α := t.filter fun e => e.1 != k

/-- Changes the entry under a key, where there is one. -/
def upd (t : Tab α) (k : Nat) (f : α → α) : Tab α := t.map fun e => if e.1 = k then (e.1, f e.2) else e

/-- Changes every entry. -/
def mapAll (t : Tab α) (f : Nat → α → α) : Tab α := t.map fun e => (e.1, f e.1 e.2)

/-- Keeps the entries a test selects. -/
def keep (t : Tab α) (p : Nat → α → Bool) : Tab α := t.filter fun e => p e.1 e.2

/-- How many entries a test selects. -/
def count (t : Tab α) (p : Nat → α → Bool) : Nat := t.countP fun e => p e.1 e.2

/-- The keys whose entries a test selects, in rising order. -/
def keysWhere (t : Tab α) (p : Nat → α → Bool) : List Nat := (keep t p).map (·.1)

/-- The first entry a test selects, by key order. -/
def first (t : Tab α) (p : Nat → α → Bool) : Option (Nat × α) := t.find? fun e => p e.1 e.2

/-- The lowest key at or above k that has no entry, in a table in canonical form. -/
def lowestFree : Tab α → Nat → Nat
  | [], k => k
  | (j, _) :: t, k => if j < k then lowestFree t k else if j = k then lowestFree t (k + 1) else k

/-- The canonical form: keys strictly rising. -/
def rising : Tab α → Bool
  | [] => true
  | [_] => true
  | (j, _) :: (k, w) :: t => decide (j < k) && rising ((k, w) :: t)

end Sys2Proof.Tab
end

