-- ==== Sys2Proof/Machine/Wire.lean ====
section
/-! DEFINITION. Bytes, big-endian fields (00_scope, Byte order), and the CRC-32 of R15 that is the frame check, the segment
check value and the check of the configuration image. -/

namespace Sys2Proof.Wire

/-- A number in n bytes, most significant byte first. -/
def be : Nat → Nat → Bytes
  | 0, _ => []
  | n + 1, v => BitVec.ofNat 8 (v / 256 ^ n) :: be n v

/-- A signed 64-bit number, two's complement, most significant byte first (1.5). -/
def beInt (v : Int) : Bytes := be 8 (v % 18446744073709551616).toNat

/-- The unsigned number that bytes spell, most significant byte first. -/
def readBE (bs : Bytes) : Nat := bs.foldl (fun a b => a * 256 + b.toNat) 0

/-- The signed 64-bit number that eight bytes spell (1.5). -/
def readInt (bs : Bytes) : Int :=
  if readBE bs < 9223372036854775808 then (readBE bs : Int) else (readBE bs : Int) - 18446744073709551616

/-- The field of n bytes at an offset. -/
def field (bs : Bytes) (off n : Nat) : Nat := readBE ((bs.drop off).take n)

/-- A flag, one byte (1.5). -/
def flag (b : Bool) : Bytes := be 1 (if b then 1 else 0)

/-- An optional field: a presence byte, and the field when present (R16). -/
def optional (n : Nat) : Option Nat → Bytes
  | none => be 1 0
  | some v => be 1 1 ++ be n v

/-- One bit of the reflected CRC-32 with generator 0x04C11DB7 (R15); 0xEDB88320 is that polynomial, bit-reflected. -/
def crcBit (c : Nat) : Nat := if c % 2 = 1 then (c / 2) ^^^ 0xEDB88320 else c / 2

/-- One byte, least significant bit first (R15). -/
def crcByte (c : Nat) (b : Byte) : Nat :=
  crcBit (crcBit (crcBit (crcBit (crcBit (crcBit (crcBit (crcBit (c ^^^ b.toNat))))))))

/-- R15: the remainder starts at all ones and is complemented at the end. -/
def crc32 (bs : Bytes) : Nat := (bs.foldl crcByte 0xFFFFFFFF) ^^^ 0xFFFFFFFF

end Sys2Proof.Wire
end

