-- ==== Sys2Proof/Machine/Ops.lean ====
section
/-! DEFINITION. The named operations over the State that every block's rules are written with: one update per block, classes
and class masks, days, references, counters, accounts, the Hot Slot Pool, the Reference Map, partitions, engine requests. -/

namespace Sys2Proof.Machine

/-- What a command answers: a next state, a fault or a refusal. -/
abbrev Result := Host.Outcome State Fault Refusal

/-! ## One update per block -/

def State.mapPower (f : PowerState → PowerState) (s : State) : State := { s with power := f s.power }
def State.mapLp (f : LinkPort → LinkPort) (s : State) : State := { s with lp := f s.lp }
def State.mapCk (f : ArchiveClock → ArchiveClock) (s : State) : State := { s with ck := f s.ck }
def State.mapPc (f : PartitionTable → PartitionTable) (s : State) : State := { s with pc := f s.pc }
def State.mapIe (f : IngestEngine → IngestEngine) (s : State) : State := { s with ie := f s.ie }
def State.mapIx (f : IndexController → IndexController) (s : State) : State := { s with ix := f s.ix }
def State.mapQa (f : QueryUnit → QueryUnit) (s : State) : State := { s with qa := f s.qa }
def State.mapHs (f : HotStore → HotStore) (s : State) : State := { s with hs := f s.hs }
def State.mapCe (f : CompactionEngine → CompactionEngine) (s : State) : State := { s with ce := f s.ce }
def State.mapCs (f : ColdStore → ColdStore) (s : State) : State := { s with cs := f s.cs }
def State.mapRu (f : RetentionUnit → RetentionUnit) (s : State) : State := { s with ru := f s.ru }
def State.mapAu (f : AuditUnit → AuditUnit) (s : State) : State := { s with au := f s.au }
def State.mapWa (f : WorkArbiter → WorkArbiter) (s : State) : State := { s with wa := f s.wa }
def State.mapCl (f : ConfigLoader → ConfigLoader) (s : State) : State := { s with cl := f s.cl }

/-- The part is under power, start-up has ended and no warm reset is in progress: its blocks take events (R179, R180). -/
def State.active (s : State) : Bool := s.power.powered && s.power.startUp.isNone && !s.power.warmReset

/-- The part is under power and start-up has ended: the clock and the tick run, also through a warm reset (R35, R36). -/
def State.running (s : State) : Bool := s.power.powered && s.power.startUp.isNone

/-! ## Classes and kinds -/

/-- The class code (R1). -/
def CallClass.code : CallClass → Nat
  | .voice => 0
  | .message => 1
  | .data => 2
  | .other => 3

/-- The class of a two-bit code (R1). -/
def CallClass.ofCode (n : Nat) : CallClass :=
  if n % 4 = 0 then .voice else if n % 4 = 1 then .message else if n % 4 = 2 then .data else .other

/-- The four classes, in code order. -/
def allClasses : List CallClass := [.voice, .message, .data, .other]

/-- Bit c of a class mask selects class c (R4). -/
def maskSelects (mask : Nat) (c : CallClass) : Bool := mask.testBit c.code

def PerClass.get {α : Type} (p : PerClass α) : CallClass → α
  | .voice => p.voice
  | .message => p.message
  | .data => p.data
  | .other => p.other

def PerClass.set {α : Type} (p : PerClass α) (c : CallClass) (v : α) : PerClass α :=
  match c with
  | .voice => { p with voice := v }
  | .message => { p with message := v }
  | .data => { p with data := v }
  | .other => { p with other := v }

def PerClass.all {α : Type} (v : α) : PerClass α := { voice := v, message := v, data := v, other := v }

/-- The class mask of the classes whose flag is set (R54). -/
def PerClass.mask (p : PerClass Bool) : Nat :=
  (if p.voice then 1 else 0) + (if p.message then 2 else 0) + (if p.data then 4 else 0) + (if p.other then 8 else 0)

/-- The sum over the four classes. -/
def PerClass.total (p : PerClass Nat) : Nat := p.voice + p.message + p.data + p.other

def PerKind.get {α : Type} (p : PerKind α) : JobKind → α
  | .query => p.query
  | .pack => p.pack
  | .repack => p.repack
  | .sweep => p.sweep
  | .verify => p.verify
  | .scan => p.scan
  | .patrol => p.patrol

def PerKind.set {α : Type} (p : PerKind α) (k : JobKind) (v : α) : PerKind α :=
  match k with
  | .query => { p with query := v }
  | .pack => { p with pack := v }
  | .repack => { p with repack := v }
  | .sweep => { p with sweep := v }
  | .verify => { p with verify := v }
  | .scan => { p with scan := v }
  | .patrol => { p with patrol := v }

def PerKind.all {α : Type} (v : α) : PerKind α :=
  { query := v, pack := v, repack := v, sweep := v, verify := v, scan := v, patrol := v }

/-! ## Days, references, record parts -/

/-- The day number of a time (00_scope, Time and days; R3). -/
def dayOf (t : Nat) : Nat := t / Config.secondsPerDay

/-- The first second of a day (R3). -/
def dayBase (d : Nat) : Nat := d * Config.secondsPerDay

/-- The current day (00_scope, Time and days). -/
def State.currentDay (s : State) : Nat := dayOf s.ck.archiveTime

/-- A reference as one number, so that its order is by source and then by sequence (R2). -/
def refOf (source sequence : Nat) : Nat := source * 281474976710656 + sequence

/-- The source of a reference. -/
def refSource (ref : Nat) : Nat := ref / 281474976710656

/-- The 48-bit sequence field of a reference. -/
def refSequence (ref : Nat) : Nat := ref % 281474976710656

/-- A reference field that can name a record: source 1 to 4,095 and the top 8 bits of the sequence zero (R85, R93). -/
def refInRange (ref : Nat) : Bool :=
  decide (1 ≤ refSource ref) && decide (refSource ref ≤ Config.maxSource) && decide (refSequence ref < 1099511627776)

def CallRecord.ref (r : CallRecord) : Nat := refOf r.source r.sequence
def CallRecord.day (r : CallRecord) : Nat := dayOf r.start
def CallRecord.position (r : CallRecord) : Position := { day := r.day, start := r.start, ref := r.ref }

/-- The duration bucket, 0 to 5 (R71). -/
def bucketOf (duration : Nat) : Nat :=
  if duration = 0 then 0 else if duration < 60 then 1 else if duration < 300 then 2 else if duration < 1800 then 3
  else if duration < 3600 then 4 else 5

/-- The duration as held (R4). -/
def clampDuration (d : Nat) : Nat := if Config.maxDuration < d then Config.maxDuration else d

/-- The volume as held for a class (R4). -/
def clampVolume (c : CallClass) (v : Nat) : Nat := if c = .data then v else 0

/-! ## Sums and counts at their widths -/

/-- A signed 64-bit sum (00_scope, Money and counts); out of range its value is not stated (log entry 1). -/
def sum64 (x : Int) : Int :=
  if -9223372036854775808 ≤ x ∧ x < 9223372036854775808 then x else (Config.signedBeyond x).toInt

/-- A 64-bit count; at 2^64 or more its value is not stated (log entry 1). -/
def count64 (n : Nat) : Nat := if n < 18446744073709551616 then n else (Config.countBeyond n).toNat

/-! ## The Counter Bank (R149) -/

/-- The forty counters, in their order. -/
inductive Counter where
  | recordsReceived | recordsStored | storedLate | storedClamped | duplicates | duplicateConflicts
  | refusedMalformed | refusedSource | refusedCharge | refusedFuture | refusedExpired | refusedPartitionFull
  | refusedAccountFull | refusedHotFull | refusedIndexFull | refusedTruncated
  | filesMatched | filesShort | filesOver | filesSumMismatch | filesUndeclared | filesAborted | filesTimedOut
  | amendsApplied | amendConflicts | recordsRetired | heldSkips | segmentsWritten | packFailures | segmentsDamaged
  | queriesServed | durationBucket0 | durationBucket1 | durationBucket2 | durationBucket3 | durationBucket4 | durationBucket5
  | hotSlotSeconds | chargeStored | chargeRetired
deriving DecidableEq, Repr

/-- The counter's place in a bank, from 0 (its number less one). -/
def Counter.place : Counter → Nat
  | .recordsReceived => 0 | .recordsStored => 1 | .storedLate => 2 | .storedClamped => 3 | .duplicates => 4
  | .duplicateConflicts => 5 | .refusedMalformed => 6 | .refusedSource => 7 | .refusedCharge => 8 | .refusedFuture => 9
  | .refusedExpired => 10 | .refusedPartitionFull => 11 | .refusedAccountFull => 12 | .refusedHotFull => 13
  | .refusedIndexFull => 14 | .refusedTruncated => 15 | .filesMatched => 16 | .filesShort => 17 | .filesOver => 18
  | .filesSumMismatch => 19 | .filesUndeclared => 20 | .filesAborted => 21 | .filesTimedOut => 22 | .amendsApplied => 23
  | .amendConflicts => 24 | .recordsRetired => 25 | .heldSkips => 26 | .segmentsWritten => 27 | .packFailures => 28
  | .segmentsDamaged => 29 | .queriesServed => 30 | .durationBucket0 => 31 | .durationBucket1 => 32 | .durationBucket2 => 33
  | .durationBucket3 => 34 | .durationBucket4 => 35 | .durationBucket5 => 36 | .hotSlotSeconds => 37 | .chargeStored => 38
  | .chargeRetired => 39

/-- Counters 1 to 37 are 32-bit and 38 to 40 are 64-bit; both wrap (R149). -/
def Counter.modulus (c : Counter) : Nat := if c.place < 37 then 4294967296 else 18446744073709551616

/-- The counter's value in a bank. -/
def bankGet (bank : List Nat) (c : Counter) : Nat := bank.getD c.place 0

/-- Adds to a counter of a bank, wrapping at its width (R149). -/
def bankAdd (bank : List Nat) (c : Counter) (n : Nat) : List Nat := bank.set c.place ((bankGet bank c + n) % c.modulus)

/-- A bank of forty zeros. -/
def zeroBank : List Nat := List.replicate 40 0

/-- Raises a counter of the current bank. -/
def countUp (c : Counter) (n : Nat) (s : State) : State := s.mapAu fun a => { a with current := bankAdd a.current c n }

/-- The counter of a duration bucket (R71). -/
def bucketCounter (duration : Nat) : Counter :=
  match bucketOf duration with
  | 0 => .durationBucket0
  | 1 => .durationBucket1
  | 2 => .durationBucket2
  | 3 => .durationBucket3
  | 4 => .durationBucket4
  | _ => .durationBucket5

/-! ## Accounts (R143) -/

def accountKey (source day : Nat) : Nat := source * 65536 + day

def Account.zero : Account :=
  { stored := 0, duplicates := 0, storedSum := 0, amends := 0, amendDelta := 0, retired := 0, retiredSum := 0, live := 0 }

/-- The live charge sum of an account (R147). -/
def Account.liveSum (a : Account) : Int := sum64 (a.storedSum + a.amendDelta - a.retiredSum)

/-- Changes the account of (source, day), where there is one (R145). -/
def updAccount (source day : Nat) (f : Account → Account) (s : State) : State :=
  s.mapAu fun a => { a with accounts := Tab.upd a.accounts (accountKey source day) f }

/-! ## Holds and the expiry test -/

/-- R130: a hold matches a key, day and class. -/
def Hold.covers (h : Hold) (key day : Nat) (c : CallClass) : Bool :=
  decide (key / 2 ^ h.maskBits = h.key / 2 ^ h.maskBits) && decide (h.firstDay ≤ day) && decide (day ≤ h.lastDay)
    && maskSelects h.classMask c

/-- The HELD attribute (R9): at least one active hold matches. -/
def State.held (s : State) (key day : Nat) (c : CallClass) : Bool := s.ru.holds.any fun e => e.2.covers key day c

/-- R128: a record of this day and class has outlived its retention. -/
def State.expired (s : State) (day : Nat) (c : CallClass) : Bool :=
  decide ((s.ru.table.get c).active ≠ 0) && decide (day + (s.ru.table.get c).active < s.currentDay)

/-! ## Hot slots, map entries, segments -/

/-- The free count HS reports (R101). -/
def State.freeSlots (s : State) : Nat := Config.hotSlots - s.hs.slots.length

/-- The slot HS takes for an allocation: the lowest free one (log entry 5: any, and not visible outside). -/
def State.nextSlot (s : State) : Nat := Tab.lowestFree s.hs.slots 0

/-- Writes a record into a slot. -/
def writeSlot (n : Nat) (r : CallRecord) (s : State) : State := s.mapHs fun h => { h with slots := Tab.put h.slots n r }

/-- Releases a slot. -/
def releaseSlot (n : Nat) (s : State) : State := s.mapHs fun h => { h with slots := Tab.del h.slots n }

/-- The map entry that a record has at a location (R80). -/
def CallRecord.entry (r : CallRecord) (loc : Location) : MapEntry :=
  { key := r.key, day := r.day, cls := r.cls, late := r.late, clamped := r.clamped, amendCount := r.amendCount,
    charge := r.charge, loc := loc }

def State.lookup (s : State) (ref : Nat) : Option MapEntry := Tab.get s.ix.map ref

def putEntry (ref : Nat) (e : MapEntry) (s : State) : State := s.mapIx fun x => { x with map := Tab.put x.map ref e }
def dropEntry (ref : Nat) (s : State) : State := s.mapIx fun x => { x with map := Tab.del x.map ref }

/-- The day's map entries in ascending reference order, as they stand (R82). -/
def State.entriesOf (s : State) (day : Nat) : Tab MapEntry := Tab.keep s.ix.map fun _ e => decide (e.day = day)

/-- The next entry of the day's enumeration after a position (R82). -/
def State.nextEntry (s : State) (day : Nat) (walk : Option Nat) : Option (Nat × MapEntry) :=
  Tab.first s.ix.map fun ref e => decide (e.day = day) && (match walk with | none => true | some w => decide (w < ref))

/-- The Segment Directory entry of a number; none is FREE (R102). -/
def State.seg (s : State) (n : Nat) : Option SegEntry := Tab.get s.cs.dir n

def updSeg (n : Nat) (f : SegEntry → SegEntry) (s : State) : State := s.mapCs fun c => { c with dir := Tab.upd c.dir n f }

def State.segActive (s : State) (n : Nat) : Bool :=
  match s.seg n with
  | some e => decide (e.state = .active)
  | none => false

def State.segDamaged (s : State) (n : Nat) : Bool :=
  match s.seg n with
  | some e => decide (e.state = .damaged)
  | none => false

/-! ## Partitions -/

/-- The non-FREE Partition Table entry of a day (R41). -/
def State.part (s : State) (day : Nat) : Option Partition := Tab.get s.pc.parts day

def updPart (day : Nat) (f : Partition → Partition) (s : State) : State :=
  s.mapPc fun p => { p with parts := Tab.upd p.parts day f }

/-- Changes every non-FREE Partition Table entry. -/
def mapParts (f : Nat → Partition → Partition) (s : State) : State :=
  s.mapPc fun p => { p with parts := Tab.mapAll p.parts f }

/-- The live total (3.3). -/
def Partition.liveTotal (p : Partition) : Nat := p.live.total

/-- The lowest non-FREE day at or above first and not above last (R88, R155). -/
def State.dayFrom (s : State) (first last : Nat) : Option Nat :=
  (Tab.first s.pc.parts fun d _ => decide (first ≤ d) && decide (d ≤ last)).map (·.1)

/-- A reader or a mover (3.5). -/
def Waiter.isMover : Waiter → Bool
  | .job => true
  | .move _ => true
  | .sweep => true
  | _ => false

/-- Sets the wait queue, and the mover-waiting flag that describes it (R51, R52). -/
def Partition.withQueue (q : List Waiter) (p : Partition) : Partition :=
  { p with waitQueue := q, moverWaiting := q.any Waiter.isMover }

/-- A reader or mover asks for the partition of a day and joins the tail of its wait queue (R50, R51). It is granted or admitted
at that event when it stands at the head and can proceed (R52, Settle). -/
def joinQueue (day : Nat) (w : Waiter) : State → State := updPart day fun p => p.withQueue (p.waitQueue ++ [w])

/-- A waiter that its own block withdraws leaves the queue (R52). -/
def leaveQueue (day : Nat) (w : Waiter) : State → State := updPart day fun p => p.withQueue (p.waitQueue.filter (· != w))

/-- A reader releases its pin (R50). -/
def releasePin (day : Nat) : State → State := updPart day fun p => { p with pins := p.pins - 1 }

/-- A mover's hold ends (R51). -/
def releaseMover (day : Nat) : State → State := updPart day fun p => { p with moverHolding := false }

/-! ## Requests for the engine quantum (R164) -/

/-- Places a request at the tail of its kind's queue. -/
def placeRequest (k : JobKind) (r : Requester) (s : State) : State :=
  s.mapWa fun w => { w with requests := w.requests.set k (w.requests.get k ++ [r]) }

/-- A request that its owner withdraws leaves the queue. -/
def withdrawRequest (k : JobKind) (r : Requester) (s : State) : State :=
  s.mapWa fun w => { w with requests := w.requests.set k ((w.requests.get k).filter (· != r)) }

/-- The engine becomes IDLE (R163). -/
def engineIdle (s : State) : State := s.mapWa fun w => { w with engine := none }

/-- A day joins the tail of the repack queue, at most once (R121). -/
def joinRepack (day : Nat) (s : State) : State :=
  s.mapWa fun w => { w with repackQueue := if day ∈ w.repackQueue then w.repackQueue else w.repackQueue ++ [day] }

/-- A day joins the tail of the pack queue, at most once (R47). -/
def joinPack (day : Nat) (s : State) : State :=
  s.mapWa fun w => { w with packQueue := if day ∈ w.packQueue then w.packQueue else w.packQueue ++ [day] }

/-- Days join the tail of the pack queue, in the order given. -/
def joinPackAll (days : List Nat) (s : State) : State := days.foldl (fun s d => joinPack d s) s

/-- A day leaves the pack queue and the wait for a FREE segment slot (R46, R53). -/
def leavePack (day : Nat) (s : State) : State :=
  (s.mapWa fun w => { w with packQueue := w.packQueue.filter (· != day) }).mapCe fun c =>
    { c with coldWait := c.coldWait.filter (· != day) }

/-- Inserts a number into an ascending list, at most once. -/
def insertAsc (n : Nat) : List Nat → List Nat
  | [] => [n]
  | m :: l => if n = m then m :: l else if n < m then n :: m :: l else m :: insertAsc n l

/-- A list ordered by a total test, equal elements in their former order: insertion sort. -/
def sortBy {α : Type} (le : α → α → Bool) : List α → List α
  | [] => []
  | a :: l => insertBy le a (sortBy le l)
where
  insertBy (le : α → α → Bool) (a : α) : List α → List α
    | [] => [a]
    | b :: l => if le a b then a :: b :: l else b :: insertBy le a l

end Sys2Proof.Machine
end

