-- ==== Sys2Proof/Machine/Operands.lean ====
section
/-! DEFINITION. What crosses the Request Link, read and written: kind codes (R12), header content (R13), status codes (R14),
parameters (R16), refusal codes (R17) and the link form of a record (R10, R11, R63). -/

namespace Sys2Proof.Machine

open Wire

/-! ## Kinds -/

/-- The kind code of each kind (R12). -/
def Kind.code : Kind → Nat
  | .setTime => 0x01 | .closeDay => 0x02 | .setRetention => 0x03 | .placeHold => 0x04 | .releaseHold => 0x05
  | .listHolds => 0x06 | .setConfig => 0x07 | .saveConfig => 0x08 | .readStatus => 0x09 | .readCounters => 0x0A
  | .clearCounters => 0x0B | .partitionInfo => 0x0C | .reset => 0x0D | .linkReset => 0x0E
  | .fileOpen => 0x21 | .records => 0x22 | .fileClose => 0x23 | .fileAbort => 0x24
  | .fetch => 0x41 | .querySubscriber => 0x42 | .amend => 0x43 | .readAccount => 0x44 | .auditScan => 0x45
  | .verifyDays => 0x46 | .cancel => 0x47

/-- The 25 kinds. -/
def allKinds : List Kind :=
  [.setTime, .closeDay, .setRetention, .placeHold, .releaseHold, .listHolds, .setConfig, .saveConfig, .readStatus,
   .readCounters, .clearCounters, .partitionInfo, .reset, .linkReset, .fileOpen, .records, .fileClose, .fileAbort,
   .fetch, .querySubscriber, .amend, .readAccount, .auditScan, .verifyDays, .cancel]

/-- The kind of a kind byte, or none for an unknown code (R12). -/
def kindOfCode (code : Nat) : Option Kind := allKinds.find? fun k => k.code == code

/-- The class of a kind (R12). -/
def Kind.cls : Kind → ReqClass
  | .fileOpen | .records | .fileClose | .fileAbort => .ingest
  | .fetch | .querySubscriber | .amend | .readAccount | .auditScan | .verifyDays | .cancel => .query
  | _ => .control

/-- The blocks that take requests from the input frame buffer only when ready (R31): QA and CL. -/
inductive Server where
  | queryUnit | loader | ready
deriving DecidableEq, Repr

/-- Who serves a buffered kind (2.8): QA, CL, or a block that is ready at every event. -/
def Kind.server : Kind → Server
  | .fetch | .querySubscriber | .amend => .queryUnit
  | .setConfig | .saveConfig | .reset => .loader
  | _ => .ready

/-- The header-content check of R13 on bytes 4 to 7. -/
def headerOk (k : Kind) (ctx gen rsv : Nat) : Bool :=
  rsv == 0 &&
  match k with
  | .records | .fileClose | .fileAbort => decide (ctx ≤ 31)
  | _ => ctx == 0 && gen == 0

/-! ## Status codes (R14) -/

namespace Status
def ok : Nat := 0
def malformed : Nat := 1
def notReady : Nat := 2
def valueRange : Nat := 3
def contextFull : Nat := 4
def fileAlreadyOpen : Nat := 5
def staleContext : Nat := 6
def clockUnset : Nat := 7
def clockBackward : Nat := 8
def unreadable : Nat := 9
def amendConflict : Nat := 10
def amendBusy : Nat := 11
def amendLimit : Nat := 12
def holdTableFull : Nat := 13
def holdNotFound : Nat := 14
def scanBusy : Nat := 15
def cancelled : Nat := 16
def saveFailed : Nat := 17
def notFound : Nat := 18
def helloStatus : Nat := 0x80
def tagInUse : Nat := 0x81
def noCredit : Nat := 0x82
def frameCheck : Nat := 0x83
end Status

/-! ## Refusal codes (R17) -/

/-- Why a record is refused (R17). -/
inductive RefusalCode where
  | malformed | sourceMismatch | chargeRange | futureRecord | expiredOnArrival | partitionFull | accountFull | hotFull
  | indexFull | batchTruncated
deriving DecidableEq, Repr

def RefusalCode.value : RefusalCode → Nat
  | .malformed => 1 | .sourceMismatch => 2 | .chargeRange => 3 | .futureRecord => 4 | .expiredOnArrival => 5
  | .partitionFull => 6 | .accountFull => 7 | .hotFull => 8 | .indexFull => 9 | .batchTruncated => 10

/-- The counter of a refusal code (R71). -/
def RefusalCode.counter : RefusalCode → Counter
  | .malformed => .refusedMalformed | .sourceMismatch => .refusedSource | .chargeRange => .refusedCharge
  | .futureRecord => .refusedFuture | .expiredOnArrival => .refusedExpired | .partitionFull => .refusedPartitionFull
  | .accountFull => .refusedAccountFull | .hotFull => .refusedHotFull | .indexFull => .refusedIndexFull
  | .batchTruncated => .refusedTruncated

/-! ## Parameters (R16) -/

/-- A presence or flag byte: 0 or 1, else the parameter check fails (R16). -/
def readFlag (b : Nat) : Option Bool := if b = 0 then some false else if b = 1 then some true else none

/-- An optional field of n bytes at an offset, as (value, its space), or none when its presence byte is neither 0 nor 1. -/
def readOptional (bs : Bytes) (off n : Nat) : Option (Option Nat × Nat) :=
  match readFlag (field bs off 1) with
  | none => none
  | some false => some (none, 1)
  | some true => some (some (field bs (off + 1) n), 1 + n)

/-- The elements of a SET_CONFIG list: a setting number and a 4-byte value each (R175). -/
def readElements : Nat → Bytes → List (Nat × Nat)
  | 0, _ => []
  | n + 1, bs => (field bs 0 1, field bs 1 4) :: readElements n (bs.drop 5)

/-- PLACE_HOLD's parameters, 16 bytes (R131); bits 4 to 7 of the class mask must be zero (1.5). -/
def readHold (p : Bytes) : Option Params :=
  if p.length = 16 ∧ field p 15 1 < 16 then
    some (.placeHold { label := field p 0 4, key := field p 4 6, maskBits := field p 10 1, firstDay := field p 11 2,
                       lastDay := field p 13 2, classMask := field p 15 1 })
  else none

/-- QUERY_SUBSCRIBER's parameters: 12 fixed bytes and the optional resume position (R87). -/
def readSubscriber (p : Bytes) : Option Params :=
  if p.length < 13 ∨ 16 ≤ field p 10 1 then none
  else match readFlag (field p 12 1) with
    | none => none
    | some present =>
      if p.length = (if present then 27 else 13) then
        some (.querySubscriber
          { key := field p 0 6, firstDay := field p 6 2, lastDay := field p 8 2, classMask := field p 10 1,
            limit := field p 11 1 + 1,
            resume := if present then some { day := field p 13 2, start := field p 15 4, ref := field p 19 8 } else none })
      else none

/-- AMEND's parameters: 13 fixed bytes and two optional fields (R92). -/
def readAmend (p : Bytes) : Option Params :=
  if p.length < 15 then none
  else match readOptional p 13 4 with
    | none => none
    | some (duration, n) =>
      if p.length < 14 + n then none
      else match readOptional p (13 + n) 4 with
        | none => none
        | some (volume, m) =>
          if p.length = 13 + n + m then
            some (.amend { ref := field p 0 8, expected := field p 8 1, charge := field p 9 4, duration := duration,
                           volume := volume })
          else none

/-- AUDIT_SCAN's parameters, 23 bytes (R153); bits 4 to 7 of the class mask and of the flags sets must be zero (1.5). -/
def readScan (p : Bytes) : Option Params :=
  if p.length = 23 ∧ field p 4 1 < 16 ∧ field p 21 1 < 16 ∧ field p 22 1 < 16 then
    some (.auditScan { sourceMatch := field p 0 2, sourceMask := field p 2 2, classMask := field p 4 1,
                       firstDay := field p 5 2, lastDay := field p 7 2, keyMatch := field p 9 6, keyMask := field p 15 6,
                       flagsMatch := field p 21 1, flagsMask := field p 22 1 })
  else none

/-- FILE_CLOSE's optional trailer: a presence byte, then a count and a signed sum of 8 bytes each (R74). -/
def readTrailer (p : Bytes) : Option Params :=
  match p with
  | [] => none
  | b :: rest =>
    match readFlag b.toNat with
    | none => none
    | some false => if rest = [] then some (.fileClose none) else none
    | some true =>
      if rest.length = 16 then some (.fileClose (some (field rest 0 8, readInt (rest.drop 8)))) else none

/-- The parameter check and decoding of R16, by kind; none is MALFORMED_REQUEST. A RECORDS payload is not subject to it (R60), and
LINK_RESET's is disregarded (R12). -/
def readParams (k : Kind) (p : Bytes) : Option Params :=
  match k with
  | .setTime => if p.length = 4 then some (.setTime (readBE p)) else none
  | .closeDay => if p.length = 2 then some (.closeDay (readBE p)) else none
  | .setRetention =>
    if p.length = 4 then (readFlag (field p 3 1)).map fun now => .setRetention (field p 0 1) (field p 1 2) now else none
  | .placeHold => readHold p
  | .releaseHold => if p.length = 1 then some (.releaseHold (readBE p)) else none
  | .listHolds => if p = [] then some .listHolds else none
  | .setConfig =>
    if 2 ≤ p.length ∧ p.length = 2 + 5 * field p 0 2 then some (.setConfig (readElements (field p 0 2) (p.drop 2))) else none
  | .saveConfig => if p = [] then some .saveConfig else none
  | .readStatus => if p.length = 1 then (readFlag (readBE p)).map .readStatus else none
  | .readCounters => if p.length = 1 then some (.readCounters (readBE p)) else none
  | .clearCounters => if p = [] then some .clearCounters else none
  | .partitionInfo => if p.length = 6 then some (.partitionInfo (field p 0 2) (field p 2 4)) else none
  | .reset => if p = [] then some .reset else none
  | .linkReset => some .linkReset
  | .fileOpen => if p.length = 6 then some (.fileOpen (field p 0 2) (field p 2 4)) else none
  | .records => some .records
  | .fileClose => readTrailer p
  | .fileAbort => if p = [] then some .fileAbort else none
  | .fetch => if p.length = 8 then some (.fetch (readBE p)) else none
  | .querySubscriber => readSubscriber p
  | .amend => readAmend p
  | .readAccount => if p.length = 4 then some (.readAccount (field p 0 2) (field p 2 2)) else none
  | .auditScan => readScan p
  | .verifyDays => if p.length = 4 then some (.verifyDays (field p 0 2) (field p 2 2)) else none
  | .cancel => if p.length = 1 then some (.cancel (readBE p)) else none

/-- Both checks that the Link Port makes of an accepted CONTROL or QUERY request (R20). -/
def checkedParams (k : Kind) (r : Request) : Option Params :=
  if headerOk k r.ctx.toNat r.gen.toNat r.rsv.toNat then readParams k r.payload else none

/-! ## The link form of a record -/

/-- The length of a link-form record by its optional fields (1.3). -/
def linkLength (cell partner : Bool) : Nat := 34 + (if cell then 4 else 0) + (if partner then 2 else 0)

/-- Its padded size (1.3). -/
def paddedSize (length : Nat) : Nat := (length + 3) / 4 * 4

/-- R63: the structural checks on the bytes that remain; the padded size when the record is structurally whole. -/
def wholeSize (rest : Bytes) : Option Nat :=
  if rest.length < 3 then none
  else
    let length := field rest 0 2
    let format := field rest 2 1
    if length ≠ linkLength (format.testBit 2) (format.testBit 3) then none
    else if rest.length < paddedSize length then none
    else some (paddedSize length)

/-- A delivered record's fields as the bytes give them, with the bits that must be zero (R11, R64). -/
structure Delivered where
  source : Nat
  sequence : Nat
  key : Nat
  cls : CallClass
  start : Nat
  duration : Nat
  volume : Nat
  charge : Nat
  cell : Option Nat
  partner : Option Nat
  mustBeZero : Bool
deriving DecidableEq, Repr

/-- Reads a structurally whole link-form record (1.3). mustBeZero says that format bits 4 to 7, the amend count byte and the top
8 bits of the sequence are zero (R64). -/
def readDelivered (rest : Bytes) : Delivered :=
  let format := field rest 2 1
  { source := field rest 4 2, sequence := field rest 7 5, key := field rest 12 6, cls := CallClass.ofCode format,
    start := field rest 18 4, duration := field rest 22 4, volume := field rest 26 4, charge := field rest 30 4,
    cell := if format.testBit 2 then some (field rest 34 4) else none,
    partner := if format.testBit 3 then some (field rest (if format.testBit 2 then 38 else 34) 2) else none,
    mustBeZero := format / 16 == 0 && field rest 3 1 == 0 && field rest 6 1 == 0 }

/-- The format byte of a rendered record (1.3, R10). -/
def formatByte (r : CallRecord) (held : Bool) : Nat :=
  r.cls.code + (if r.cell.isSome then 4 else 0) + (if r.partner.isSome then 8 else 0) + (if r.late then 16 else 0)
    + (if r.clamped then 32 else 0) + (if held then 64 else 0)

/-- R10: a record in link form, padding included. -/
def renderRecord (r : CallRecord) (held : Bool) : Bytes :=
  let length := linkLength r.cell.isSome r.partner.isSome
  be 2 length ++ be 1 (formatByte r held) ++ be 1 r.amendCount ++ be 2 r.source ++ be 6 r.sequence ++ be 6 r.key
    ++ be 4 r.start ++ be 4 r.duration ++ be 4 r.volume ++ be 4 r.charge
    ++ (match r.cell with | some c => be 4 c | none => [])
    ++ (match r.partner with | some p => be 2 p | none => [])
    ++ List.replicate (paddedSize length - length) 0

/-- The space a record takes in a list (R10). -/
def CallRecord.space (r : CallRecord) : Nat := paddedSize (linkLength r.cell.isSome r.partner.isSome)

/-- A list of records (R10, R16): its 2-byte count and the records. -/
def renderList (l : List (CallRecord × Bool)) : Bytes := be 2 l.length ++ l.flatMap fun e => renderRecord e.1 e.2

/-- The record that a delivered one becomes after step 4's clamping, before LATE is known (R65, R70). -/
def Delivered.clampedRecord (d : Delivered) : CallRecord :=
  { source := d.source, sequence := d.sequence, key := d.key, cls := d.cls, start := d.start,
    duration := clampDuration d.duration, volume := clampVolume d.cls d.volume, charge := d.charge, cell := d.cell,
    partner := d.partner, amendCount := 0, late := false,
    clamped := decide (clampDuration d.duration ≠ d.duration) || decide (clampVolume d.cls d.volume ≠ d.volume) }

end Sys2Proof.Machine
end

