-- ==== Sys2Proof/Machine/Flags.lean ====
section
/-! DEFINITION. The flags the part computes from its state: the six alert conditions and the ALERT pin (R34), the status view of
READ_STATUS (R33), the record flags set of a filter (R154), the repack tests (R121). -/

namespace Sys2Proof.Machine

open Wire

/-- The alert conditions present, in READ_STATUS's bit order (R33, R34). -/
def State.conditions (s : State) : Nat :=
  (if s.wa.pressure then 1 else 0) + (if s.ce.coldFull then 2 else 0)
    + (if Config.partitionHigh ≤ s.pc.parts.length then 4 else 0) + (if Config.accountHigh ≤ s.au.accounts.length then 8 else 0)
    + (if s.au.damageFound then 16 else 0) + (if s.ck.clockSet then 0 else 32)

/-- The ALERT pin: high while a condition that the alert mask enables is present (R34); low without power and until the alert
mask is in force at power-on. -/
def State.alertPin (s : State) : Bool := s.running && (s.conditions &&& s.cl.settings.alertMask) != 0

/-- Partitions in a state. -/
def State.partsIn (s : State) (st : PartState) : Nat := Tab.count s.pc.parts fun _ p => decide (p.state = st)

/-- Segments in a state. -/
def State.segsIn (s : State) (st : SegState) : Nat := Tab.count s.cs.dir fun _ e => decide (e.state = st)

/-- OPEN file contexts. -/
def State.openContexts (s : State) : Nat := s.ie.contexts.countP fun c => c.file.isSome

/-- READ_STATUS's payload, 62 bytes (R33). -/
def State.statusView (s : State) : Bytes :=
  be 4 s.ck.archiveTime ++ flag s.ck.clockSet
    ++ be 4 (Config.partitionEntries - s.pc.parts.length) ++ be 4 (s.partsIn .opened) ++ be 4 (s.partsIn .quiet)
    ++ be 4 (s.partsIn .packing) ++ be 4 (s.partsIn .packed) ++ be 4 (s.partsIn .repacking)
    ++ be 4 s.freeSlots ++ be 8 s.ix.map.length ++ be 4 s.au.accounts.length
    ++ be 4 (s.segsIn .active) ++ be 4 (s.segsIn .writing) ++ be 4 (s.segsIn .damaged)
    ++ be 1 s.ru.holds.length ++ be 1 s.openContexts ++ be 1 s.conditions ++ flag s.alertPin
    ++ be 1 (match s.cl.source with | .image => 0 | .defaults => 1)

/-- The record flags set of R154: bit 0 amended, bit 1 LATE, bit 2 CLAMPED, bit 3 HELD. HELD is given by its bit's value. -/
def flagsSet (amendCount : Nat) (late clamped held : Bool) : Nat :=
  (if amendCount = 0 then 0 else 1) + (if late then 2 else 0) + (if clamped then 4 else 0) + (if held then 8 else 0)

/-- R154: a record, by its reference and the fields of its map entry, passes the filter; HELD is evaluated only when the flags
mask selects it. -/
def State.passes (s : State) (f : ScanFilter) (ref : Nat) (e : MapEntry) : Bool :=
  (refSource ref &&& f.sourceMask) == (f.sourceMatch &&& f.sourceMask)
    && maskSelects f.classMask e.cls
    && decide (f.firstDay ≤ e.day) && decide (e.day ≤ f.lastDay)
    && (e.key &&& f.keyMask) == (f.keyMatch &&& f.keyMask)
    && (flagsSet e.amendCount e.late e.clamped (f.flagsMask.testBit 3 && s.held e.key e.day e.cls) &&& f.flagsMask)
        == (f.flagsMatch &&& f.flagsMask)

/-- The ACTIVE segments of a partition's list, in list order. -/
def State.activeSegs (s : State) (p : Partition) : List Nat := p.segments.filter s.segActive

/-- The first repack test (R121): hot count at or above the repack threshold. -/
def State.hotTest (s : State) (p : Partition) : Bool := decide (s.cl.settings.repackThreshold ≤ p.hotCount)

/-- The second repack test (R121): over the ACTIVE segments, 100 × live is less than the repack percent × records. -/
def State.sparseTest (s : State) (p : Partition) : Bool :=
  let entries := (s.activeSegs p).filterMap s.seg
  decide (100 * (entries.map (·.live)).sum < s.cl.settings.repackPercent * (entries.map (·.records)).sum)

/-- A test made on a day: a PACKED partition not already in the repack queue joins its tail when the test holds (R121). -/
def repackTest (test : Partition → Bool) (day : Nat) (s : State) : State :=
  match s.part day with
  | some p => if p.state = .packed ∧ test p then joinRepack day s else s
  | none => s

end Sys2Proof.Machine
end

