-- ==== Sys2Proof/Machine/Link.lean ====
section
/-! DEFINITION. The Link Port: arrival of a request frame (R20 to R22), responses and the output queue (R23, R24), credits (R25,
R26), notices (R27), link reset (R28) and HELLO (R29). -/

namespace Sys2Proof.Machine

open Wire

/-! ## Credits -/

def Credits.add (a b : Credits) : Credits :=
  { control := a.control + b.control, query := a.query + b.query, shared := a.shared + b.shared, frame := a.frame + b.frame,
    block := a.block + b.block }

def Credits.sub (a b : Credits) : Credits :=
  { control := a.control - b.control, query := a.query - b.query, shared := a.shared - b.shared, frame := a.frame - b.frame,
    block := a.block - b.block }

/-- One frame credit of a pool, and block credits (R21). -/
def Pool.credits (p : Pool) (blocks : Nat) : Credits :=
  { control := if p = .control then 1 else 0, query := if p = .query then 1 else 0, shared := if p = .shared then 1 else 0,
    frame := if p = .ingest then 1 else 0, block := blocks }

/-- The Staging Buffer blocks of a payload (R21, R61). -/
def blocksOf (payload : Bytes) : Nat := (payload.length + 511) / Config.blockBytes

/-- The block credits a request takes: a RECORDS request one for each block, another none (R21). -/
def blockNeed (code : Nat) (payload : Bytes) : Nat := if code = Kind.records.code then blocksOf payload else 0

/-- R21: the pool a request draws its credit from, or none when it cannot obtain every credit it needs. -/
def LinkPort.poolFor (lp : LinkPort) (cls : ReqClass) (blocks : Nat) : Option Pool :=
  match cls with
  | .control =>
    if lp.inUse.control < Config.controlCredits then some .control
    else if lp.inUse.shared < Config.sharedCredits then some .shared else none
  | .query =>
    if lp.inUse.query < Config.queryCredits then some .query
    else if lp.inUse.shared < Config.sharedCredits then some .shared else none
  | .ingest =>
    if lp.inUse.frame + lp.withheld < Config.frameCredits ∧ lp.inUse.block + blocks ≤ Config.blockCredits then some .ingest
    else none

def takeCredits (c : Credits) (s : State) : State := s.mapLp fun l => { l with inUse := l.inUse.add c }

/-! ## The output queue -/

/-- A frame joins the tail of the output queue (R24). -/
def LinkPort.push (f : OutFrame) (l : LinkPort) : LinkPort := { l with outQueue := l.outQueue ++ [f] }

def enqueue (f : OutFrame) (s : State) : State := s.mapLp (LinkPort.push f)

/-- An ordinary credit update: tag 254, status OK, no payload (R14, R25). -/
def creditUpdate (riders : Nat) : OutFrame := { tag := 254, status := Status.ok, payload := [], riders := riders, startsReset := false }

/-- R25: credits become pending, and a credit update is queued when no frame waits; in RESETTING they leave the accounting. -/
def LinkPort.pend (c : Credits) (l : LinkPort) : LinkPort :=
  if c = Credits.zero then l
  else match l.link with
    | .resetting => { l with inUse := l.inUse.sub c }
    | .opened => { l with due := l.due.add c, outQueue := if l.outQueue = [] then [creditUpdate 0] else l.outQueue }

def creditsPending (c : Credits) (s : State) : State := s.mapLp (LinkPort.pend c)

/-- R26: the INGEST frame credit of a drained entry is withheld while pressure is set, and pending otherwise. -/
def frameCreditEarned (s : State) : State :=
  if s.wa.pressure ∧ s.lp.link = .opened then
    s.mapLp fun l => { l with inUse := l.inUse.sub (Pool.ingest.credits 0), withheld := l.withheld + 1 }
  else creditsPending (Pool.ingest.credits 0) s

/-- R26: at the event pressure clears, the withheld credits are placed in one credit update, in use until it is sent. -/
def returnWithheld (s : State) : State :=
  if s.lp.withheld = 0 then s
  else
    (enqueue (creditUpdate s.lp.withheld) s).mapLp fun l =>
      { l with inUse := { l.inUse with frame := l.inUse.frame + l.withheld }, withheld := 0 }

/-- R23: a response handed to the port joins the output queue, or is dropped when its epoch is not the current one. -/
def LinkPort.answer (tag epoch status : Nat) (payload : Bytes) (l : LinkPort) : LinkPort :=
  if epoch = l.epoch then l.push { tag := tag, status := status, payload := payload, riders := 0, startsReset := false } else l

/-- R23: hands the port a response under a tag. -/
def respond (tag epoch status : Nat) (payload : Bytes) (s : State) : State := s.mapLp (LinkPort.answer tag epoch status payload)

/-- A link error notice under tag 255 (R14, R27). -/
def notice (status : Nat) (payload : Bytes) : State → State :=
  enqueue { tag := 255, status := status, payload := payload, riders := 0, startsReset := false }

/-- The payload of NO_CREDIT and TAG_IN_USE: the tag, the kind code, two zero bytes (R14). -/
def noticePayload (tag code : Nat) : Bytes := be 1 tag ++ be 1 code ++ be 2 0

/-! ## Sending -/

/-- A frame's bytes: the response header of 1.4 with the credits it returns, the payload, and the frame check (R14, R15). -/
def frameBytes (tag status : Nat) (c : Credits) (payload : Bytes) : Bytes :=
  let body := be 1 tag ++ be 1 status ++ be 2 payload.length ++ be 1 c.control ++ be 1 c.query ++ be 1 c.frame
    ++ be 2 c.block ++ be 1 c.shared ++ be 2 0 ++ payload
  body ++ be 4 (crc32 body)

/-- The credits a frame carries: every credit pending at its sending, and those placed in it (R25, R26). -/
def OutFrame.carries (f : OutFrame) (l : LinkPort) : Credits := { l.due with frame := l.due.frame + f.riders }

/-- R24, R25: sends the frame at the head of the output queue; its credits cease to be in use and its tag becomes free. -/
def sendHead (f : OutFrame) (rest : List OutFrame) (s : State) : State :=
  s.mapLp fun l =>
    { l with outQueue := rest, inUse := l.inUse.sub (f.carries l), due := Credits.zero,
             tags := if f.tag < 64 then Tab.del l.tags f.tag else l.tags,
             wire := l.wire ++ [frameBytes f.tag f.status (f.carries l) f.payload] }

/-- The full credits that HELLO returns (R29). -/
def fullCredits : Credits :=
  { control := Config.controlCredits, query := Config.queryCredits, shared := Config.sharedCredits, frame := Config.frameCredits,
    block := Config.blockCredits }

/-- R19, R179: the conditions under which HELLO is sent; after a start-up during which the RESET input was asserted it waits for the
release. -/
def State.helloDue (s : State) : Bool :=
  s.active && decide (s.lp.link = .resetting) && s.power.laneLock && s.ie.queue.isEmpty && !s.power.resetPin

/-- R29: HELLO opens the link. -/
def sendHello (s : State) : State :=
  s.mapLp fun l =>
    { l with link := .opened, inUse := Credits.zero, withheld := 0, due := Credits.zero,
             wire := l.wire ++ [frameBytes 254 Status.helloStatus fullCredits []] }

/-! ## Link reset -/

/-- What the port does at the start of a link reset or a warm reset (R28, R30). -/
def LinkPort.restart (l : LinkPort) : LinkPort :=
  { l with link := .resetting, epoch := l.epoch + 1, tags := [], outQueue := [], buffer := [], due := Credits.zero, withheld := 0 }

/-! ## Arrival -/

/-- The tag and payload parts of R13's well-formedness; a request row's check and delimited length hold by its form. -/
def frameWellFormed (r : Request) : Bool := decide (r.tag.toNat < 64) && decide (r.payload.length ≤ Config.payloadLimit)

/-- R20, steps 1 and 3 to 6, for a frame of a kind code other than LINK_RESET's: discards it with the notice of the first check
that fails, or makes its tag outstanding and goes on with `accepted`. In RESETTING the frame is discarded without notice (R19). -/
def arrive (code : Nat) (cls : ReqClass) (r : Request) (accepted : Pool → State → State) (s : State) : State :=
  match s.lp.link with
  | .resetting => s
  | .opened =>
    if frameWellFormed r then
      match s.lp.poolFor cls (blockNeed code r.payload) with
      | none => notice Status.noCredit (noticePayload r.tag.toNat code) s
      | some pool =>
        let c := pool.credits (blockNeed code r.payload)
        match Tab.get s.lp.tags r.tag.toNat with
        | some _ =>
          creditsPending c (notice Status.tagInUse (noticePayload r.tag.toNat code) (takeCredits c s))
        | none =>
          accepted pool ((takeCredits c s).mapLp fun l =>
            { l with tags := Tab.put l.tags r.tag.toNat { code := code, cls := cls, pool := pool, epoch := l.epoch } })
    else notice Status.frameCheck [] s

/-- The Link Port answers an accepted request MALFORMED_REQUEST; it leaves the input frame buffer at that event (R20, R25). -/
def answerMalformed (tag : Nat) (pool : Pool) (s : State) : State :=
  respond tag s.lp.epoch Status.malformed [] (creditsPending (pool.credits 0) s)

end Sys2Proof.Machine
end

