-- ==== Sys2Proof/Machine/Partition.lean ====
section
/-! DEFINITION. The Partition Controller and the pressure state: allocation (R42), day close and the move onward into QUIET (R43,
R44, R47, R48), quiet timers (R45), monitored activities (R46), pressure (R170, R171), freeing of a segment (R104), PARTITION_INFO's
view (R54). -/

namespace Sys2Proof.Machine

open Wire

/-! ## Moving onward into QUIET -/

/-- An OPEN partition that leaves for QUIET: its day is closed, and its timer has expired or pressure is set (R43, R45, R47, R48). -/
def Partition.onward (pressure : Bool) (p : Partition) : Bool :=
  decide (p.state = .opened) && p.dayClosed && (p.quietExpired || pressure)

/-- Every partition that has to leave OPEN becomes QUIET, its timer stopping with its count, and enters the tail of the pack queue,
in ascending day order (R43, R45, R47, R48). -/
def moveOnward (s : State) : State :=
  joinPackAll (Tab.keysWhere s.pc.parts fun _ p => p.onward s.wa.pressure)
    (mapParts (fun _ p => if p.onward s.wa.pressure then { p with state := .quiet } else p) s)

/-! ## Pressure -/

/-- R170, R171: evaluates the pressure state on the free slot count. When it becomes set, closed OPEN partitions become QUIET; when
it becomes clear, the withheld credits are returned. The other effects of R171 follow from the flag. -/
def evalPressure (s : State) : State :=
  if s.wa.pressure then
    if s.cl.settings.highWatermark ≤ s.freeSlots then returnWithheld (s.mapWa fun w => { w with pressure := false }) else s
  else if s.freeSlots < s.cl.settings.lowWatermark then moveOnward (s.mapWa fun w => { w with pressure := true })
  else s

/-- The free slot count calls for a change of the pressure state (R170). -/
def State.pressureDue (s : State) : Bool :=
  if s.wa.pressure then decide (s.cl.settings.highWatermark ≤ s.freeSlots) else decide (s.freeSlots < s.cl.settings.lowWatermark)

/-- R170: the change of the pressure state that an event's whole effect on the free slot count calls for. -/
def pressureTurn (s : State) : Option State := if s.pressureDue then some (evalPressure s) else none

/-! ## Day close -/

/-- Sets the day-closed flag of every partition whose day plus the grace days is less than the current day (R43, R55). -/
def closeDays (s : State) : State :=
  mapParts (fun d p => if d + s.cl.settings.graceDays < s.currentDay then { p with dayClosed := true } else p) s

/-- A new Partition Table entry for a day (R42), before the commit adds its record. -/
def newPartition (closed : Bool) : Partition :=
  { state := .opened, dayClosed := closed, quietElapsed := 0, quietExpired := false, live := PerClass.all 0, hotCount := 0,
    segments := [], pins := 0, moverHolding := false, moverWaiting := false, waitQueue := [], expiryDue := PerClass.all false,
    heldRemainder := PerClass.all false }

/-- R42: allocates an entry for a day that has none. -/
def allocatePart (day : Nat) (s : State) : State :=
  match s.part day with
  | some _ => s
  | none => s.mapPc fun t => { t with parts := Tab.put t.parts day (newPartition (decide (day + s.cl.settings.graceDays < s.currentDay))) }

/-! ## Quiet timers -/

/-- The seconds of an interval code; 0 is disabled (3.2). -/
def intervalOf (code : Nat) : Nat := Config.intervalSeconds.getD code 0

/-- Advances a running quiet timer by n seconds, limited to the interval; at the interval it expires (R40, R45). -/
def Partition.advanceQuiet (code n : Nat) (p : Partition) : Partition :=
  if p.state = .opened ∧ ¬ p.quietExpired ∧ code ≠ 0 ∧ p.quietElapsed < intervalOf code then
    if intervalOf code ≤ p.quietElapsed + n then { p with quietElapsed := intervalOf code, quietExpired := true }
    else { p with quietElapsed := p.quietElapsed + n }
  else p

/-- A running quiet timer at or above its interval expires (R40). -/
def Partition.expireQuiet (code : Nat) (p : Partition) : Partition :=
  if p.state = .opened ∧ ¬ p.quietExpired ∧ code ≠ 0 ∧ intervalOf code ≤ p.quietElapsed then { p with quietExpired := true } else p

/-- Advances every running quiet timer (R45). -/
def advanceQuietTimers (n : Nat) (s : State) : State :=
  mapParts (fun _ p => p.advanceQuiet s.cl.settings.quietCode n) s

/-- Compares every running quiet timer with the interval in force (R40, R55). -/
def compareQuietTimers (s : State) : State :=
  mapParts (fun _ p => p.expireQuiet s.cl.settings.quietCode) s

/-! ## Monitored activities -/

/-- The members of the activity mask (R46, R174). -/
inductive Activity where
  | ingest | amend | query
deriving DecidableEq, Repr

def Activity.bit : Activity → Nat
  | .ingest => 0
  | .amend => 1
  | .query => 2

/-- R46: a monitored activity on the partition of a day. -/
def activity (a : Activity) (day : Nat) (s : State) : State :=
  let counted := s.cl.settings.activityMask.testBit a.bit
  match s.part day with
  | none => s
  | some p =>
    match p.state with
    | .opened => if counted then updPart day (fun p => { p with quietElapsed := 0, quietExpired := false }) s else s
    | .quiet =>
      if (counted ∨ a = .ingest) ∧ ¬ s.wa.pressure then
        leavePack day (updPart day (fun p => { p with state := .opened, quietElapsed := 0, quietExpired := false }) s)
      else s
    | _ => s

/-! ## Segments of a day -/

/-- R41: places a new segment in a day's list by its first key, after any with the same first key. -/
def placeSegment (firstKeyOf : Nat → Nat) (n : Nat) : List Nat → List Nat
  | [] => [n]
  | m :: l => if firstKeyOf n < firstKeyOf m then n :: m :: l else m :: placeSegment firstKeyOf n l

/-- R104: an ACTIVE or DAMAGED segment becomes FREE: it leaves its day's list, COLD_FULL is cleared, and the partitions that wait for
a FREE segment slot move to the tail of the pack queue in ascending day order. -/
def freeSegment (n day : Nat) (s : State) : State :=
  let s := s.mapCs fun c => { c with dir := Tab.del c.dir n, bodies := Tab.del c.bodies n }
  let s := updPart day (fun p => { p with segments := p.segments.filter (· != n) }) s
  joinPackAll s.ce.coldWait (s.mapCe fun c => { c with coldFull := false, coldWait := [] })

/-- R104: the live count of a segment falls by one; at 0 the segment becomes FREE. -/
def segmentLoses (n : Nat) (s : State) : State :=
  match s.seg n with
  | none => s
  | some e => if e.live ≤ 1 then freeSegment n e.day s else updSeg n (fun e => { e with live := e.live - 1 }) s

/-- R160: an ACTIVE segment is marked DAMAGED, counted, and latches DAMAGE_FOUND. -/
def markDamaged (n : Nat) (s : State) : State :=
  if s.segActive n then
    (countUp .segmentsDamaged 1 (updSeg n (fun e => { e with state := .damaged }) s)).mapAu fun a => { a with damageFound := true }
  else s

/-! ## PARTITION_INFO -/

/-- The state code of PARTITION_INFO and CLOSE_DAY (R44, R54). -/
def PartState.code : PartState → Nat
  | .opened => 1
  | .quiet => 2
  | .packing => 3
  | .packed => 4
  | .repacking => 5

/-- What a partition waits for (R54). -/
def State.waitingFor (s : State) (day : Nat) : Nat :=
  if day ∈ s.wa.packQueue then 1 else if day ∈ s.ce.coldWait then 2 else if day ∈ s.wa.repackQueue then 3 else 0

/-- PARTITION_INFO's payload (R54). -/
def State.partitionView (s : State) (day firstIndex : Nat) (p : Partition) : Bytes :=
  let listed := (p.segments.drop firstIndex).take Config.listedSegments
  be 2 day ++ be 1 p.state.code ++ flag p.dayClosed ++ be 4 p.quietElapsed ++ flag p.quietExpired
    ++ be 8 p.live.voice ++ be 8 p.live.message ++ be 8 p.live.data ++ be 8 p.live.other ++ be 8 p.hotCount
    ++ be 1 p.pins ++ flag p.moverHolding ++ flag p.moverWaiting ++ be 1 p.expiryDue.mask ++ be 1 p.heldRemainder.mask
    ++ be 1 (s.waitingFor day) ++ flag (Tab.get s.ru.queue day).isSome ++ be 4 p.segments.length
    ++ be 2 listed.length ++ listed.flatMap (be 4)

end Sys2Proof.Machine
end

