-- ==== Sys2Proof/Machine/Retention.lean ====
section
/-! DEFINITION. The Retention Unit's tables and scheduling: SET_RETENTION's writing and activation (R126, R127), holds (R131 to R133),
scheduling passes and the Sweep Queue (R134, R135). -/

namespace Sys2Proof.Machine

open Wire

/-! ## Scheduling passes -/

/-- R134: the flag a pass leaves for one class of a partition: set stays set, and it is set when the class is examined, has live
records, has outlived its retention and has no held remainder. -/
def State.dueAfter (s : State) (sel : Nat → Partition → CallClass → Bool) (d : Nat) (p : Partition) (c : CallClass) : Bool :=
  p.expiryDue.get c ||
    (sel d p c && decide (0 < p.live.get c) && s.expired d c && !p.heldRemainder.get c)

/-- The expiry-due flags after a pass. -/
def State.dueFlags (s : State) (sel : Nat → Partition → CallClass → Bool) (d : Nat) (p : Partition) : PerClass Bool :=
  { voice := s.dueAfter sel d p .voice, message := s.dueAfter sel d p .message, data := s.dueAfter sel d p .data,
    other := s.dueAfter sel d p .other }

/-- The partitions a pass marks: those it examines that have a flag set after it, in ascending day order (R134). -/
def State.markedDays (s : State) (sel : Nat → Partition → CallClass → Bool) : List Nat :=
  Tab.keysWhere s.pc.parts fun d p => allClasses.any (sel d p) && decide ((s.dueFlags sel d p).mask ≠ 0)

/-- R135: a marked day joins the Sweep Queue in its place by day; an entry whose walk has begun has its restart flag set. -/
def queueSweep (s : State) (d : Nat) : State :=
  match Tab.get s.ru.queue d with
  | none => s.mapRu fun r => { r with queue := Tab.put r.queue d { walk := none, restart := false } }
  | some e => s.mapRu fun r => { r with queue := Tab.put r.queue d { e with restart := e.restart || e.walk.isSome } }

/-- R134: a scheduling pass over the classes of partitions that sel selects. No pass runs while the clock-set flag is clear. -/
def schedulePass (sel : Nat → Partition → CallClass → Bool) (s : State) : State :=
  if s.ck.clockSet then
    (s.markedDays sel).foldl queueSweep
      (mapParts (fun d p => if allClasses.any (sel d p) then { p with expiryDue := s.dueFlags sel d p } else p) s)
  else s

/-- A pass over every non-FREE partition and every class. -/
def fullPass : State → State := schedulePass fun _ _ _ => true

/-! ## Retention changes -/

/-- The days value as held (R126). -/
def clampDays (days : Nat) : Nat := if 3650 < days then 3650 else days

/-- Writes a class's pending value (R126). -/
def setPending (c : CallClass) (days : Nat) (s : State) : State :=
  s.mapRu fun r => { r with table := r.table.set c { r.table.get c with pending := clampDays days } }

/-- R127: every class's pending value becomes active, and a full pass follows. -/
def activateRetention (s : State) : State :=
  fullPass (s.mapRu fun r =>
    { r with table :=
      { voice := { r.table.voice with active := r.table.voice.pending },
        message := { r.table.message with active := r.table.message.pending },
        data := { r.table.data with active := r.table.data.pending },
        other := { r.table.other with active := r.table.other.pending } } })

/-- SET_RETENTION served (R126). -/
def serveSetRetention (tag epoch cls days : Nat) (applyNow : Bool) (s : State) : State :=
  if 3 < cls then respond tag epoch Status.valueRange [] s
  else
    let c := CallClass.ofCode cls
    let s := setPending c days s
    let s := if applyNow then activateRetention s else s
    let clamped := if 3650 < days then be 2 1 ++ be 1 2 else be 2 0
    respond tag epoch Status.ok (clamped ++ be 2 (s.ru.table.get c).active ++ be 2 (s.ru.table.get c).pending) s

/-! ## Holds -/

/-- PLACE_HOLD served (R131): the hold is entered under the lowest hold id not in use. -/
def servePlaceHold (tag epoch : Nat) (h : Hold) (s : State) : State :=
  if 47 < h.maskBits ∨ Config.lastDay < h.lastDay ∨ h.lastDay < h.firstDay ∨ h.classMask = 0 then
    respond tag epoch Status.valueRange [] s
  else if Config.holdEntries ≤ s.ru.holds.length then respond tag epoch Status.holdTableFull [] s
  else
    let id := Tab.lowestFree s.ru.holds 1
    respond tag epoch Status.ok (be 1 id) (s.mapRu fun r => { r with holds := Tab.put r.holds id h })

/-- The held-remainder flags that a release clears: those set, of days in the hold's range, of classes its mask selects (R132). -/
def Hold.clears (h : Hold) (d : Nat) (p : Partition) (c : CallClass) : Bool :=
  decide (h.firstDay ≤ d) && decide (d ≤ h.lastDay) && maskSelects h.classMask c && p.heldRemainder.get c

/-- A partition without the held-remainder flags that a release clears. -/
def Hold.cleared (h : Hold) (d : Nat) (p : Partition) : Partition :=
  { p with heldRemainder :=
    { voice := p.heldRemainder.voice && !h.clears d p .voice, message := p.heldRemainder.message && !h.clears d p .message,
      data := p.heldRemainder.data && !h.clears d p .data, other := p.heldRemainder.other && !h.clears d p .other } }

/-- The classes of partitions that a release's pass examines: those whose flags it cleared, by the table before it (R132). -/
def State.clearedBy (s : State) (h : Hold) (d : Nat) (_ : Partition) (c : CallClass) : Bool :=
  match s.part d with
  | some p => h.clears d p c
  | none => false

/-- RELEASE_HOLD served (R132). -/
def serveReleaseHold (tag epoch id : Nat) (s : State) : State :=
  match Tab.get s.ru.holds id with
  | none => respond tag epoch Status.holdNotFound [] s
  | some h =>
    let s1 := mapParts h.cleared (s.mapRu fun r => { r with holds := Tab.del r.holds id })
    let marked := if s1.ck.clockSet then (s1.markedDays (s.clearedBy h)).length else 0
    respond tag epoch Status.ok (be 2 marked) (schedulePass (s.clearedBy h) s1)

/-- One element of LIST_HOLDS, 17 bytes (R133). -/
def holdBytes (id : Nat) (h : Hold) : Bytes :=
  be 1 id ++ be 4 h.label ++ be 6 h.key ++ be 1 h.maskBits ++ be 2 h.firstDay ++ be 2 h.lastDay ++ be 1 h.classMask

/-- LIST_HOLDS served (R133). -/
def serveListHolds (tag epoch : Nat) (s : State) : State :=
  respond tag epoch Status.ok (be 2 s.ru.holds.length ++ s.ru.holds.flatMap fun e => holdBytes e.1 e.2) s

end Sys2Proof.Machine
end

