-- ==== Sys2Proof/Machine/Clock.lean ====
section
/-! DEFINITION. The Archive Clock: the day rollover and its three parts (R39, R43, R127, R150), SET_TIME (R38) and the Partition
Controller's requests CLOSE_DAY (R44) and PARTITION_INFO (R54). -/

namespace Sys2Proof.Machine

open Wire

/-- R150: the current bank is copied into the previous-day bank, under the day the rollover carries. -/
def captureCounters (day : Nat) (s : State) : State :=
  s.mapAu fun a => { a with previous := a.current, captureDay := some day }

/-- R39: the day rollover, raised when the current day exceeds the rollover day while the clock-set flag is set. PC closes days, RU
activates retentions and schedules sweeps, AU captures the counters. -/
def rollover (s : State) : State :=
  captureCounters s.currentDay (activateRetention (closeDays (s.mapCk fun k => { k with rolloverDay := dayOf k.archiveTime })))

/-- A rollover is due (R39). -/
def State.rolloverDue (s : State) : Bool := s.ck.clockSet && decide (s.ck.rolloverDay < s.currentDay)

/-- SET_TIME served (R38): archive time and the clock-set flag; the seconds skipped count for the quiet timers when the flag was
already set (R45); one rollover, or the clock-set pass (R134). -/
def serveSetTime (tag epoch t : Nat) (s : State) : State :=
  if t < s.ck.archiveTime then respond tag epoch Status.clockBackward (be 4 s.ck.archiveTime) s
  else
    let wasSet := s.ck.clockSet
    let skipped := t - s.ck.archiveTime
    let s := s.mapCk fun k => { k with archiveTime := t, clockSet := true }
    let s := if wasSet then advanceQuietTimers skipped s else s
    let raised := s.rolloverDue
    let s := if raised then rollover s else if wasSet then s else fullPass s
    respond tag epoch Status.ok (be 4 t ++ flag raised) (moveOnward s)

/-- CLOSE_DAY served (R44). -/
def serveCloseDay (tag epoch d : Nat) (s : State) : State :=
  if s.ck.clockSet = false then respond tag epoch Status.clockUnset [] s
  else if s.currentDay ≤ d then respond tag epoch Status.valueRange [] s
  else match s.part d with
    | none => respond tag epoch Status.notFound [] s
    | some p =>
      if p.dayClosed then respond tag epoch Status.ok (be 1 p.state.code ++ flag true) s
      else
        let s := moveOnward (updPart d (fun p => { p with dayClosed := true }) s)
        let code := match s.part d with | some p => p.state.code | none => 0
        respond tag epoch Status.ok (be 1 code ++ flag false) s

/-- PARTITION_INFO served (R54). -/
def servePartitionInfo (tag epoch d firstIndex : Nat) (s : State) : State :=
  if Config.lastDay < d then respond tag epoch Status.valueRange [] s
  else match s.part d with
    | none => respond tag epoch Status.notFound [] s
    | some p => respond tag epoch Status.ok (s.partitionView d firstIndex p) s

end Sys2Proof.Machine
end

