-- ==== Sys2Proof/Machine/Query.lean ====
section
/-! DEFINITION. The Query and Amend Unit: query contexts (R84), FETCH (R85, R86), QUERY_SUBSCRIBER (R87 to R91), AMEND in place and
moving (R92 to R99). Each reader acts at its pin grant, at its decode completion, or at the word that its day has no records. -/

namespace Sys2Proof.Machine

open Wire

/-! ## Query contexts -/

def State.queryCtx (s : State) (c : Nat) : Option QueryContext := Tab.get s.qa.contexts c

def updCtx (c : Nat) (f : QueryContext → QueryContext) (s : State) : State :=
  s.mapQa fun q => { q with contexts := Tab.upd q.contexts c f }

/-- QA is ready for its next request while a query context is FREE (R84). -/
def State.queryReady (s : State) : Bool := decide (s.qa.contexts.length < Config.queryContexts)

/-- Takes the lowest FREE query context for a request that asks for a pin on a day. -/
def openContext (tag epoch day : Nat) (work : QueryWork) (s : State) : State :=
  let ctx : QueryContext :=
    { tag := tag, epoch := epoch, stage := .pinWait, cancelling := false, day := day, seg := 0, ord := 0, work := work }
  s.mapQa fun q => { q with contexts := Tab.put q.contexts (Tab.lowestFree q.contexts 0) ctx }

/-- The context that openContext takes. -/
def State.freeCtx (s : State) : Nat := Tab.lowestFree s.qa.contexts 0

/-- A request in a context is answered, and its context and Amend-in-Flight entry become free (R84, R95). -/
def finishContext (c : Nat) (q : QueryContext) (status : Nat) (payload : Bytes) (s : State) : State :=
  (respond q.tag q.epoch status payload s).mapQa fun u =>
    { u with contexts := Tab.del u.contexts c, inFlight := Tab.del u.inFlight c }

/-- A context that holds a pin asks for one QUERY grant on a segment (R86, R89, R96). -/
def askDecode (c n : Nat) (s : State) : State :=
  placeRequest .query (.query c) (updCtx c (fun q => { q with stage := .grantWait, seg := n }) s)

/-! ## FETCH -/

/-- FETCH taken by QA (R85). -/
def takeFetch (tag epoch ref : Nat) (s : State) : State :=
  if refInRange ref = false then respond tag epoch Status.valueRange [] s
  else match s.lookup ref with
    | none => respond tag epoch Status.notFound [] s
    | some e =>
      match e.loc with
      | .segment n _ =>
        if s.segActive n then joinQueue e.day (.query s.freeCtx) (openContext tag epoch e.day (.fetch ref) s)
        else respond tag epoch Status.unreadable [] s
      | .hot _ => joinQueue e.day (.query s.freeCtx) (openContext tag epoch e.day (.fetch ref) s)

/-- A FETCH reads its record: it renders it with HELD as it stands, releases the pin, counts as a query read, and answers OK (R86). DESIGN
CHOICE: the read counts on the day of the pin, even where the reference was retired and stored anew on another day since (log entry 39). -/
def fetchRead (c : Nat) (q : QueryContext) (r : CallRecord) (s : State) : State :=
  finishContext c q Status.ok (renderRecord r (s.held r.key r.day r.cls))
    (countUp .queriesServed 1 (activity .query q.day (releasePin q.day s)))

/-- A FETCH at its pin grant (R86). -/
def fetchPinned (c : Nat) (q : QueryContext) (ref : Nat) (s : State) : State :=
  match s.lookup ref with
  | none => finishContext c q Status.notFound [] (releasePin q.day s)
  | some e =>
    match e.loc with
    | .hot n =>
      match Tab.get s.hs.slots n with
      | some r => fetchRead c q r s
      | none => finishContext c q Status.unreadable [] (releasePin q.day s)
    | .segment n o =>
      if s.segActive n then askDecode c n (updCtx c (fun q => { q with ord := o }) s)
      else finishContext c q Status.unreadable [] (releasePin q.day s)

/-! ## QUERY_SUBSCRIBER -/

def Position.le (a b : Position) : Bool :=
  decide (a.day < b.day) || (decide (a.day = b.day) &&
    (decide (a.start < b.start) || (decide (a.start = b.start) && decide (a.ref ≤ b.ref))))

/-- QUERY_SUBSCRIBER's OK payload (R90). -/
def subscriberPayload (more : Bool) (g : SubscriberProgress) : Bytes :=
  flag more
    ++ (match g.list.getLast? with
        | none => be 1 0
        | some (r, _) => be 1 1 ++ be 2 r.day ++ be 4 r.start ++ be 8 r.ref)
    ++ be 8 (count64 g.unreadable) ++ renderList g.list

/-- A QUERY_SUBSCRIBER answers OK (R84, R90). -/
def subscriberAnswer (c : Nat) (q : QueryContext) (more : Bool) (g : SubscriberProgress) (s : State) : State :=
  finishContext c q Status.ok (subscriberPayload more g) (countUp .queriesServed 1 s)

/-- R88: moves to the lowest non-FREE day of the range at or above `first` and asks for a pin on it, or answers when the range is
exhausted. -/
def subscriberNext (c : Nat) (q : QueryContext) (p : SubscriberParams) (g : SubscriberProgress) (first : Nat) (s : State) : State :=
  match s.dayFrom first p.lastDay with
  | none => subscriberAnswer c q false g s
  | some d =>
    joinQueue d (.query c) (updCtx c (fun q =>
      { q with stage := .pinWait, day := d,
               work := .subscriber p { g with toRead := [], candidates := [], dayUnreadable := 0 } }) s)

/-- A resume position whose day lies outside the range (R87). -/
def SubscriberParams.resumeOutside (p : SubscriberParams) : Bool :=
  match p.resume with
  | some r => decide (r.day < p.firstDay) || decide (p.lastDay < r.day)
  | none => false

/-- QUERY_SUBSCRIBER taken by QA (R87, R88). -/
def takeSubscriber (tag epoch : Nat) (p : SubscriberParams) (s : State) : State :=
  if Config.lastDay < p.lastDay ∨ p.lastDay < p.firstDay ∨ p.classMask = 0 ∨ p.resumeOutside then
    respond tag epoch Status.valueRange [] s
  else
    let first := match p.resume with | some r => r.day | none => p.firstDay
    let g : SubscriberProgress := { toRead := [], candidates := [], dayUnreadable := 0, list := [], unreadable := 0 }
    let s1 := openContext tag epoch first (.subscriber p g) s
    match s1.queryCtx s.freeCtx with
    | some q => subscriberNext s.freeCtx q p g first s1
    | none => s1

/-- R90: appends a day's sorted candidates to the list, up to the limit and the payload's size; the list and what is left over. -/
def takePage (limit : Nat) : List (CallRecord × Bool) → Nat → List (CallRecord × Bool) → List (CallRecord × Bool) × List (CallRecord × Bool)
  | list, _, [] => (list, [])
  | list, bytes, e :: rest =>
    if limit ≤ list.length ∨ Config.payloadLimit < bytes + e.1.space then (list, e :: rest)
    else takePage limit (list ++ [e]) (bytes + e.1.space) rest

/-- The space of a list's records (R10). -/
def listSpace (l : List (CallRecord × Bool)) : Nat := (l.map fun e => e.1.space).sum

/-- The day's candidates strictly after the resume position, in position order (R87, R90). -/
def pageCandidates (p : SubscriberParams) (cands : List (CallRecord × Bool)) : List (CallRecord × Bool) :=
  (sortBy (fun a b => a.1.position.le b.1.position) cands).filter fun e =>
    match p.resume with
    | none => true
    | some r => !(e.1.position.le r)

/-- R90: a day's read is complete: the pin is released, and the query answers or goes on to the next day. -/
def subscriberDayEnd (c : Nat) (q : QueryContext) (p : SubscriberParams) (g : SubscriberProgress) (s : State) : State :=
  let s := releasePin q.day s
  let after := pageCandidates p g.candidates
  let (list, left) := takePage p.limit g.list (Config.queryFixedBytes + listSpace g.list) after
  if left ≠ [] then subscriberAnswer c q true { g with list := list } s
  else
    let repeated := match p.resume with | some r => decide (r.day = q.day) && after.isEmpty | none => false
    let g := { g with list := list, unreadable := if repeated then g.unreadable else g.unreadable + g.dayUnreadable }
    if p.limit ≤ list.length then subscriberAnswer c q (s.dayFrom (q.day + 1) p.lastDay).isSome g s
    else subscriberNext c q p g (q.day + 1) s

/-- Reads the next selected segment of the day, or ends the day's read (R89). -/
def subscriberGoOn (c : Nat) (q : QueryContext) (p : SubscriberParams) (g : SubscriberProgress) (s : State) : State :=
  match g.toRead with
  | [] => subscriberDayEnd c q p g s
  | n :: _ => askDecode c n (updCtx c (fun q => { q with work := .subscriber p g }) s)

/-- A day's entries with the key and a selected class (R82, R89). -/
def State.subscriberEntries (s : State) (p : SubscriberParams) (day : Nat) : Tab MapEntry :=
  Tab.keep (s.entriesOf day) fun _ e => decide (e.key = p.key) && maskSelects p.classMask e.cls

/-- The hot record of a map entry, with HELD as it stands. -/
def State.hotCandidate (s : State) (e : MapEntry) : Option (CallRecord × Bool) :=
  match e.loc with
  | .hot n => (Tab.get s.hs.slots n).map fun r => (r, s.held r.key r.day r.cls)
  | .segment _ _ => none

/-- A map entry lies in a segment. -/
def MapEntry.inSegment (e : MapEntry) (n : Nat) : Bool :=
  match e.loc with
  | .segment m _ => decide (m = n)
  | .hot _ => false

/-- A segment whose first and last keys enclose a key (R89). -/
def State.encloses (s : State) (key n : Nat) : Bool :=
  match s.seg n with
  | some e => decide (e.firstKey ≤ key) && decide (key ≤ e.lastKey)
  | none => false

/-- A QUERY_SUBSCRIBER at its pin grant (R88, R89 steps 1 to 3). -/
def subscriberPinned (c : Nat) (q : QueryContext) (p : SubscriberParams) (g : SubscriberProgress) (s : State) : State :=
  let s := activity .query q.day s
  let entries := s.subscriberEntries p q.day
  let selected := (match s.part q.day with | some t => t.segments | none => []).filter (s.encloses p.key)
  let damaged := selected.filter s.segDamaged
  subscriberGoOn c q p
    { g with toRead := selected.filter s.segActive, candidates := entries.filterMap fun e => s.hotCandidate e.2,
             dayUnreadable := Tab.count entries fun _ e => damaged.any e.inSegment } s

/-- The map entry of a decoded record points to that segment and ordinal: the copy is not dead (R89, R155). -/
def State.copyLive (s : State) (n : Nat) (r : CallRecord) (ord : Nat) : Bool :=
  match s.lookup r.ref with
  | some e => decide (e.loc = .segment n ord)
  | none => false

/-- The records of a decode whose copies are live, in ordinal order. -/
def State.liveCopies (s : State) (n : Nat) (rs : List CallRecord) : List CallRecord :=
  (rs.zipIdx.filter fun e => s.copyLive n e.1 e.2).map (·.1)

/-- A QUERY_SUBSCRIBER at a decode completion (R89 step 3, R91). -/
def subscriberDecoded (c : Nat) (q : QueryContext) (p : SubscriberParams) (g : SubscriberProgress)
    (rs : Option (List CallRecord)) (s : State) : State :=
  if q.cancelling then finishContext c q Status.cancelled [] (releasePin q.day s)
  else match rs with
    | none =>
      let lost := Tab.count (s.subscriberEntries p q.day) fun _ e => e.inSegment q.seg
      subscriberGoOn c q p { g with toRead := g.toRead.tail, dayUnreadable := g.dayUnreadable + lost } s
    | some rs =>
      let found := (s.liveCopies q.seg rs).filter fun r => decide (r.key = p.key) && maskSelects p.classMask r.cls
      let read := found.map fun r => (r, s.held r.key r.day r.cls)
      subscriberGoOn c q p { g with toRead := g.toRead.tail, candidates := g.candidates ++ read } s

/-- R91: ends a QUERY_SUBSCRIBER at its next boundary, answering CANCELLED (the response of an old epoch is dropped by R23). -/
def cancelSubscriber (c : Nat) (q : QueryContext) (s : State) : State :=
  match q.stage with
  | .pinWait => finishContext c q Status.cancelled [] (leaveQueue q.day (.query c) s)
  | .grantWait => finishContext c q Status.cancelled [] (releasePin q.day (withdrawRequest .query (.query c) s))
  | .quantum => updCtx c (fun q => { q with cancelling := true }) s

/-- A query context that holds a QUERY_SUBSCRIBER. -/
def QueryContext.isSubscriber (q : QueryContext) : Bool :=
  match q.work with
  | .subscriber _ _ => true
  | _ => false

/-! ## AMEND -/

/-- A replacement that AMEND alters to bring it into range (R8, R92). -/
def amendAlters (p : AmendParams) (c : CallClass) : Bool :=
  (match p.duration with | some d => decide (clampDuration d ≠ d) | none => false) ||
    (match p.volume with | some v => decide (clampVolume c v ≠ v) | none => false)

/-- R92: the amended version of a record. -/
def amendedVersion (p : AmendParams) (r : CallRecord) : CallRecord :=
  { r with
    charge := p.charge
    duration := (match p.duration with | some d => clampDuration d | none => r.duration)
    volume := (match p.volume with | some v => clampVolume r.cls v | none => r.volume)
    amendCount := r.amendCount + 1
    clamped := r.clamped || amendAlters p r.cls }

/-- The account and counter of an applied amendment (R94, R98, R145). -/
def tallyAmend (source day : Nat) (delta : Int) (s : State) : State :=
  countUp .amendsApplied 1 (updAccount source day
    (fun a => { a with amends := count64 (a.amends + 1), amendDelta := sum64 (a.amendDelta + delta) }) s)

/-- The OK payload of an amendment: the new amend count, the moved flag, CLAMPED (R94, R98). -/
def amendPayload (moved : Bool) (r : CallRecord) : Bytes := be 1 r.amendCount ++ flag moved ++ flag r.clamped

/-- R94: an amendment in place of the hot record r in a slot. -/
def amendInPlace (p : AmendParams) (slot : Nat) (r : CallRecord) (s : State) : State :=
  let r' := amendedVersion p r
  activity .amend r.day (tallyAmend r.source r.day ((p.charge : Int) - r.charge)
    (putEntry p.ref (r'.entry (.hot slot)) (writeSlot slot r' s)))

/-- A partition in which a hot record is amended where it lies (R93). -/
def PartState.inPlace : PartState → Bool
  | .opened | .quiet | .packed => true
  | .packing | .repacking => false

/-- AMEND_CONFLICT is counted at each answer; its payload is the amend count found (R93, R96, R97). -/
def conflictCounted (s : State) : State := countUp .amendConflicts 1 s

/-- Starts a moving amendment: it takes a query context and an Amend-in-Flight entry and asks for a pin (R95). -/
def startMoving (tag epoch : Nat) (p : AmendParams) (e : MapEntry) (s : State) : State :=
  let c := s.freeCtx
  joinQueue e.day (.query c) ((openContext tag epoch e.day (.amend p) s).mapQa fun u =>
    { u with inFlight := Tab.put u.inFlight c { params := p, day := e.day, loc := e.loc, copy := none, phase := .pinWait } })

/-- The reference has an amendment in flight (R93). -/
def State.amending (s : State) (ref : Nat) : Bool := s.qa.inFlight.any fun e => e.2.params.ref == ref

/-- AMEND taken by QA (R93). -/
def takeAmend (tag epoch : Nat) (p : AmendParams) (s : State) : State :=
  if refInRange p.ref = false ∨ Config.maxCharge < p.charge then respond tag epoch Status.valueRange [] s
  else if s.amending p.ref ∨ Config.amendEntries ≤ s.qa.inFlight.length then respond tag epoch Status.amendBusy [] s
  else match s.lookup p.ref with
    | none => respond tag epoch Status.notFound [] s
    | some e =>
      if e.amendCount ≠ p.expected then respond tag epoch Status.amendConflict (be 1 e.amendCount) (conflictCounted s)
      else if e.amendCount = 255 then respond tag epoch Status.amendLimit [] s
      else match e.loc with
        | .segment n _ =>
          if s.segActive n then startMoving tag epoch p e s else respond tag epoch Status.unreadable [] s
        | .hot n =>
          match s.part e.day, Tab.get s.hs.slots n with
          | some t, some r =>
            if t.state.inPlace then
              respond tag epoch Status.ok (amendPayload false (amendedVersion p r)) (amendInPlace p n r s)
            else startMoving tag epoch p e s
          | _, _ => respond tag epoch Status.notFound [] s

def updFlight (c : Nat) (f : AmendFlight → AmendFlight) (s : State) : State :=
  s.mapQa fun u => { u with inFlight := Tab.upd u.inFlight c f }

/-- The amendment has its copy: it releases its pin and asks as mover, on the day of the pin (R96; log entry 39). -/
def amendAsksMover (c : Nat) (q : QueryContext) (loc : Location) (r : CallRecord) (s : State) : State :=
  joinQueue q.day (.move c) (releasePin q.day
    (updFlight c (fun f => { f with loc := loc, copy := some r, phase := .moverWait }) s))

/-- A moving amendment at its pin grant (R96). DESIGN CHOICE: the partition whose state decides is that of the day first asked for, even where
the reference was retired and stored anew on another day since; R96 does not say which of the two counts (log entry 39). -/
def amendPinned (c : Nat) (q : QueryContext) (p : AmendParams) (s : State) : State :=
  match s.lookup p.ref with
  | none => finishContext c q Status.notFound [] (releasePin q.day s)
  | some e =>
    if e.amendCount ≠ p.expected then
      finishContext c q Status.amendConflict (be 1 e.amendCount) (conflictCounted (releasePin q.day s))
    else match e.loc with
      | .segment n o =>
        if s.segActive n then
          askDecode c n (updCtx c (fun q => { q with ord := o })
            (updFlight c (fun f => { f with loc := e.loc, phase := .reading }) s))
        else finishContext c q Status.unreadable [] (releasePin q.day s)
      | .hot n =>
        match s.part q.day, Tab.get s.hs.slots n with
        | some t, some r =>
          if t.state.inPlace then
            finishContext c q Status.ok (amendPayload false (amendedVersion p r)) (releasePin q.day (amendInPlace p n r s))
          else amendAsksMover c q e.loc r s
        | _, _ => finishContext c q Status.notFound [] (releasePin q.day s)

/-- A hot slot in the snapshot of the job running on the day (R98, R101). -/
def State.inSnapshot (s : State) (day slot : Nat) : Bool :=
  match s.ce.job with
  | some j => decide (j.day = day) && j.members.any fun m => decide (m.loc = .hot slot)
  | none => false

/-- R98 step 3: what becomes of the old location of a moved record. -/
def leaveOldLocation (day : Nat) (old : Location) (s : State) : State :=
  match old with
  | .segment n _ => updPart day (fun t => { t with hotCount := t.hotCount + 1 }) (segmentLoses n s)
  | .hot n =>
    if s.inSnapshot day n then updPart day (fun t => { t with hotCount := t.hotCount + 1 }) s else releaseSlot n s

/-- R98, R99: the move of a moving amendment, whole at its admission event; pressure is evaluated at the end of the event (R170,
Settle; log entry 35), and the queue entries that the move makes compete (log entry 36). -/
def amendMove (p : AmendParams) (old : Location) (copy : CallRecord) (s : State) : State :=
  let r := amendedVersion p copy
  let slot := s.nextSlot
  let s := putEntry p.ref (r.entry (.hot slot)) (writeSlot slot r s)
  let s := leaveOldLocation r.day old s
  let s := activity .amend r.day (tallyAmend r.source r.day ((p.charge : Int) - copy.charge) s)
  repackTest (fun t => s.hotTest t || s.sparseTest t) r.day s

/-- A moving amendment at its admission as a mover (R97). The partition released is that of the day first asked for; the move is made on the
day of the copy (log entry 39). -/
def amendAdmitted (c : Nat) (q : QueryContext) (p : AmendParams) (f : AmendFlight) (s : State) : State :=
  let s := releaseMover q.day s
  match s.lookup p.ref with
  | none => finishContext c q Status.notFound [] s
  | some e =>
    if e.amendCount ≠ p.expected ∨ e.loc ≠ f.loc then
      finishContext c q Status.amendConflict (be 1 e.amendCount) (conflictCounted s)
    else match f.copy with
      | none => finishContext c q Status.unreadable [] s
      | some copy =>
        if s.freeSlots = 0 then finishContext c q Status.notReady [] s
        else finishContext c q Status.ok (amendPayload true (amendedVersion p copy)) (amendMove p f.loc copy s)

/-! ## What a context does at its events -/

/-- A query context at its pin grant. -/
def queryPinned (c : Nat) (s : State) : State :=
  match s.queryCtx c with
  | none => s
  | some q =>
    match q.work with
    | .fetch ref => fetchPinned c q ref s
    | .subscriber p g => subscriberPinned c q p g s
    | .amend p => amendPinned c q p s

/-- A query context at the completion of its decode: its records, or none when it failed (R86, R89, R96). -/
def queryDecoded (c : Nat) (rs : Option (List CallRecord)) (s : State) : State :=
  match s.queryCtx c with
  | none => s
  | some q =>
    match q.work with
    | .subscriber p g => subscriberDecoded c q p g rs s
    | .fetch _ =>
      match rs.bind fun l => l[q.ord]? with
      | none => finishContext c q Status.unreadable [] (releasePin q.day s)
      | some r => fetchRead c q r s
    | .amend _ =>
      match rs.bind fun l => l[q.ord]? with
      | none => finishContext c q Status.unreadable [] (releasePin q.day s)
      | some r => amendAsksMover c q (.segment q.seg q.ord) r s

/-- A moving amendment in a context is admitted as a mover. -/
def moveAdmitted (c : Nat) (s : State) : State :=
  match s.queryCtx c, Tab.get s.qa.inFlight c with
  | some q, some f =>
    match q.work with
    | .amend p => amendAdmitted c q p f s
    | _ => s
  | _, _ => s

/-- A query context that waited is told that its day has no records (R52, R85, R88, R97). -/
def queryReleased (c : Nat) (s : State) : State :=
  match s.queryCtx c with
  | none => s
  | some q =>
    match q.work with
    | .subscriber p g => subscriberNext c q p g (q.day + 1) s
    | _ => finishContext c q Status.notFound [] s

end Sys2Proof.Machine
end

