-- ==== Sys2Proof/Machine/Ingest.lean ====
section
/-! DEFINITION. The Ingest Engine: file contexts and their idle timers (R58, R59, R74 to R76), the Batch Queue and its drains (R60 to
R62), the record checks (R63 to R69), the commit (R70 to R72) and the batch result (R73). -/

namespace Sys2Proof.Machine

open Wire

/-! ## File contexts -/

def updContext (i : Nat) (f : FileContext → FileContext) (s : State) : State :=
  s.mapIe fun e => { e with contexts := e.contexts.modify i f }

/-- Changes the open file of a context, where it is OPEN; a context freed within its own drain takes no more counts (log entry 41). -/
def updFile (i : Nat) (f : OpenFile → OpenFile) : State → State := updContext i fun c => { c with file := c.file.map f }

/-- A context becomes FREE, keeping its generation (R58). -/
def freeContext (i : Nat) : State → State := updContext i fun c => { c with file := none }

/-- The open file of a context under a generation: none is STALE_CONTEXT (R60). -/
def State.openFile (s : State) (ctx gen : Nat) : Option OpenFile :=
  match s.ie.contexts[ctx]? with
  | some c => if c.generation = gen then c.file else none
  | none => none

/-- A context has queued entries, one whose drain is in progress included (R61). -/
def State.hasQueued (s : State) (i generation : Nat) : Bool := s.ie.queue.any fun e => e.ctx == i && e.gen == generation

/-- A file context whose idle timer has reached the interval of a code (R40, R76). -/
def FileContext.idleDue (code : Nat) (c : FileContext) : Bool :=
  match c.file with
  | some f => code != 0 && decide (intervalOf code ≤ f.idle)
  | none => false

/-- A file context after a second event: its timer advances unless it has queued entries or the code is 0 (R40, R76). -/
def FileContext.advanced (code : Nat) (queued : Bool) (c : FileContext) : FileContext :=
  if queued || code == 0 then c else { c with file := c.file.map fun f => { f with idle := f.idle + 1 } }

/-- Contexts that are due become FREE with outcome TIMED_OUT, each counted (R76). -/
def timeOut (due : FileContext → Bool) (s : State) : State :=
  countUp .filesTimedOut (s.ie.contexts.countP due)
    (s.mapIe fun e => { e with contexts := e.contexts.map fun c => if due c then { c with file := none } else c })

/-- The idle timers at a second event (R76). -/
def advanceIdleTimers (s : State) : State :=
  let code := s.cl.settings.fileIdleCode
  timeOut (FileContext.idleDue code) (s.mapIe fun e =>
    { e with contexts := e.contexts.mapIdx fun i c => c.advanced code (s.hasQueued i c.generation) })

/-- The idle timers of OPEN contexts compared with the interval in force (R40, R76). DESIGN CHOICE: every OPEN context's is, as R76 says, that of
a context with queued entries too, though it stands still then and R40 and R176 speak of running timers (log entry 41). -/
def compareIdleTimers (s : State) : State := timeOut (FileContext.idleDue s.cl.settings.fileIdleCode) s

/-! ## The end of a drain -/

/-- R62: the end of a drain: the response, the block credits, the frame credit; the entry leaves the queue. -/
def endDrain (e : BatchEntry) (status : Nat) (payload : Bytes) (s : State) : State :=
  let blocks := blockNeed e.kind.code e.payload
  (frameCreditEarned (creditsPending { Credits.zero with block := blocks } (respond e.tag e.epoch status payload s))).mapIe
    fun q => { q with queue := q.queue.tail, drain := none }

/-- The totals payload of FILE_CLOSE and FILE_ABORT (R74, R75). -/
def closePayload (outcome : Nat) (f : OpenFile) : Bytes :=
  be 1 outcome ++ be 8 f.received ++ be 8 f.stored ++ be 8 f.duplicates ++ be 8 f.refused ++ beInt f.chargeSum

/-- A fresh open file (R59). -/
def newFile (source file : Nat) : OpenFile :=
  { source := source, file := file, received := 0, stored := 0, duplicates := 0, refused := 0, chargeSum := 0, idle := 0 }

/-- The index of the first context a test selects. -/
def State.contextWhere (s : State) (p : FileContext → Bool) : Option Nat := s.ie.contexts.findIdx? p

/-- An OPEN context holds this source and file number (R59). -/
def FileContext.holds (source file : Nat) (c : FileContext) : Bool :=
  match c.file with
  | some f => f.source == source && f.file == file
  | none => false

/-- FILE_OPEN decided at its drain (R59). -/
def drainOpen (e : BatchEntry) (source file : Nat) (s : State) : State :=
  if source = 0 ∨ Config.maxSource < source then endDrain e Status.valueRange [] s
  else match s.contextWhere (FileContext.holds source file) with
    | some i =>
      let gen := match s.ie.contexts[i]? with | some c => c.generation | none => 0
      endDrain e Status.fileAlreadyOpen (be 1 i ++ be 1 gen) s
    | none =>
      match s.contextWhere fun c => c.file.isNone with
      | none => endDrain e Status.contextFull [] s
      | some i =>
        let gen := match s.ie.contexts[i]? with | some c => (c.generation + 1) % 256 | none => 0
        endDrain e Status.ok (be 1 i ++ be 1 gen)
          (updContext i (fun _ => { generation := gen, file := some (newFile source file) }) s)

/-- The outcome of a FILE_CLOSE, with its counter (R74). -/
def closeOutcome (f : OpenFile) : Option (Nat × Int) → Nat × Counter
  | none => (4, .filesUndeclared)
  | some (count, sum) =>
    if f.received < count then (1, .filesShort)
    else if count < f.received then (2, .filesOver)
    else if f.chargeSum ≠ sum then (3, .filesSumMismatch)
    else (0, .filesMatched)

/-- FILE_CLOSE decided at its drain (R74). -/
def drainClose (e : BatchEntry) (f : OpenFile) (trailer : Option (Nat × Int)) (s : State) : State :=
  let (outcome, counter) := closeOutcome f trailer
  endDrain e Status.ok (closePayload outcome f) (countUp counter 1 (freeContext e.ctx s))

/-- FILE_ABORT decided at its drain (R75). -/
def drainAbort (e : BatchEntry) (f : OpenFile) (s : State) : State :=
  endDrain e Status.ok (closePayload 5 f) (countUp .filesAborted 1 (freeContext e.ctx s))

/-! ## The drain of a RECORDS entry -/

def newDrain : Drain :=
  { offset := 0, position := 0, received := 0, stored := 0, duplicates := 0, conflicts := 0, refused := 0, late := 0,
    clamped := 0, entries := [], dup := none }

def updDrain (f : Drain → Drain) (s : State) : State := s.mapIe fun e => { e with drain := e.drain.map f }

/-- R73: the payload of a batch's response. The overflow flag says that more than 64 records were refused. -/
def Drain.payload (d : Drain) : Bytes :=
  be 1 d.received ++ be 1 d.stored ++ be 1 d.duplicates ++ be 1 d.conflicts ++ be 1 d.refused ++ be 1 d.late ++ be 1 d.clamped
    ++ flag (decide (Config.refusedElements < d.refused)) ++ be 2 d.entries.length
    ++ d.entries.flatMap fun x => be 2 x.1 ++ be 1 x.2 ++ be 1 0

/-- The drain goes on past a record of this padded size (R62, R63). -/
def nextRecord (size : Nat) : State → State :=
  updDrain fun d => { d with offset := d.offset + size, position := d.position + 1, dup := none }

/-- R62: the drain in progress ends at the event at which its batch has been decided to the end of the payload, or to its structural fault. -/
def drainEnds (s : State) : Option State :=
  match s.ie.drain, s.ie.queue with
  | some d, e :: _ => if d.dup.isNone ∧ e.payload.length ≤ d.offset then some (endDrain e Status.ok d.payload s) else none
  | _, _ => none

/-- A record of this charge field is received: a truncated remainder adds 0 (R63, R71). -/
def tallyReceived (e : BatchEntry) (charge : Nat) (s : State) : State :=
  countUp .recordsReceived 1 (updDrain (fun d => { d with received := d.received + 1 })
    (updFile e.ctx (fun f => { f with received := count64 (f.received + 1), chargeSum := sum64 (f.chargeSum + charge) }) s))

/-- A record is refused with a code: the context, the counter, the response's count and list (R71, R73). -/
def tallyRefused (e : BatchEntry) (code : RefusalCode) (s : State) : State :=
  countUp code.counter 1 (updDrain (fun d =>
      { d with refused := d.refused + 1,
               entries := if d.entries.length < Config.refusedElements then d.entries ++ [(d.position, code.value)] else d.entries })
    (updFile e.ctx (fun f => { f with refused := count64 (f.refused + 1) }) s))

/-- A record event that refuses its record. -/
def refuseRecord (e : BatchEntry) (charge size : Nat) (code : RefusalCode) (s : State) : State :=
  nextRecord size (tallyRefused e code (tallyReceived e charge s))

/-- R67, R145: a duplicate is counted, as a conflict too where it is one, and discarded. -/
def discardDuplicate (e : BatchEntry) (charge size source storedDay : Nat) (conflict : Bool) (s : State) : State :=
  let s := tallyReceived e charge s
  let s := updFile e.ctx (fun f => { f with duplicates := count64 (f.duplicates + 1) }) s
  let s := updDrain (fun d =>
    { d with duplicates := d.duplicates + 1, conflicts := if conflict then d.conflicts + 1 else d.conflicts }) s
  let s := countUp .duplicates 1 s
  let s := if conflict then countUp .duplicateConflicts 1 s else s
  nextRecord size (updAccount source storedDay (fun a => { a with duplicates := count64 (a.duplicates + 1) }) s)

/-- R67: the delivered record, after clamping, differs from the stored record's current version in a compared field. -/
def conflictsWith (d r : CallRecord) : Bool :=
  decide (d.key ≠ r.key) || decide (d.start ≠ r.start) || decide (d.cls ≠ r.cls) || decide (d.cell ≠ r.cell)
    || decide (d.partner ≠ r.partner)
    || (decide (r.amendCount = 0) &&
        (decide (d.duration ≠ r.duration) || decide (d.volume ≠ r.volume) || decide (d.charge ≠ r.charge)))

/-- R68: the comparison with the fields that the map entry itself holds. -/
def conflictsWithEntry (d : CallRecord) (m : MapEntry) : Bool :=
  decide (d.key ≠ m.key) || decide (d.day ≠ m.day) || decide (d.cls ≠ m.cls)
    || (decide (m.amendCount = 0) && decide (d.charge ≠ m.charge))

/-! ## The commit -/

/-- R70 step 2, R144: creates the account of (source, day) where there is none. -/
def createAccount (source day : Nat) (s : State) : State :=
  match Tab.get s.au.accounts (accountKey source day) with
  | some _ => s
  | none => s.mapAu fun a => { a with accounts := Tab.put a.accounts (accountKey source day) Account.zero }

/-- The partition's part of a commit: the class live count, the hot count, and the held-remainder flag cleared (R70, R136). -/
def Partition.withStore (c : CallClass) (p : Partition) : Partition :=
  { p with live := p.live.set c (p.live.get c + 1), hotCount := p.hotCount + 1,
           heldRemainder := p.heldRemainder.set c false }

/-- The counters of a stored record (R71). -/
def countStored (r : CallRecord) (s : State) : State :=
  let s := countUp .recordsStored 1 s
  let s := if r.late then countUp .storedLate 1 s else s
  let s := if r.clamped then countUp .storedClamped 1 s else s
  countUp .chargeStored r.charge (countUp (bucketCounter r.duration) 1 s)

/-- R70, R72: the commit of a record: slot, map entry, partition, account, counters, activity, repack test. Pressure is evaluated at the end
of the event, after the grant of the repack entry that the commit may make (R167, R170, Settle; log entries 35 and 36). -/
def commitRecord (r : CallRecord) (s : State) : State :=
  let s := createAccount r.source r.day (allocatePart r.day s)
  let late := match s.part r.day with | some p => p.dayClosed | none => false
  let r := { r with late := late }
  let slot := s.nextSlot
  let s := putEntry r.ref (r.entry (.hot slot)) (writeSlot slot r s)
  let s := updPart r.day (Partition.withStore r.cls) s
  let s := updAccount r.source r.day (fun a =>
    { a with stored := count64 (a.stored + 1), live := count64 (a.live + 1), storedSum := sum64 (a.storedSum + r.charge) }) s
  let s := activity .ingest r.day (countStored r s)
  moveOnward (repackTest s.hotTest r.day s)

/-- The committed record's LATE flag: its partition's day-closed flag at the commit (R7, R42). -/
def State.lateAt (s : State) (day : Nat) : Bool :=
  match s.part day with
  | some p => p.dayClosed
  | none => decide (day + s.cl.settings.graceDays < s.currentDay)

/-- A record event that stores its record. -/
def storeRecord (e : BatchEntry) (size : Nat) (r : CallRecord) (s : State) : State :=
  let late := s.lateAt r.day
  let s := updFile e.ctx (fun f => { f with stored := count64 (f.stored + 1) }) (tallyReceived e r.charge s)
  let s := updDrain (fun d =>
    { d with stored := d.stored + 1, late := if late then d.late + 1 else d.late,
             clamped := if r.clamped then d.clamped + 1 else d.clamped }) s
  nextRecord size (commitRecord r s)

/-! ## Deciding a record -/

/-- R69: the first resource a record lacks. -/
def State.missing (s : State) (source day : Nat) : Option RefusalCode :=
  if (s.part day).isNone ∧ Config.partitionEntries ≤ s.pc.parts.length then some .partitionFull
  else if (Tab.get s.au.accounts (accountKey source day)).isNone ∧ Config.accountEntries ≤ s.au.accounts.length then some .accountFull
  else if s.freeSlots = 0 then some .hotFull
  else if Config.mapEntries ≤ s.ix.map.length then some .indexFull
  else none

/-- A live entry holds the reference: the record is compared at once when its entry is in a hot slot, and else asks for a pin on the
stored record's day (R67, R68). -/
def findDuplicate (e : BatchEntry) (size : Nat) (r : CallRecord) (m : MapEntry) (s : State) : State :=
  match m.loc with
  | .hot n =>
    let conflict := match Tab.get s.hs.slots n with | some x => conflictsWith r x | none => conflictsWithEntry r m
    discardDuplicate e r.charge size r.source m.day conflict s
  | .segment n o =>
    let dup : PendingDuplicate := { record := r, delivered := r.charge, size := size, day := m.day, seg := n, ord := o, stage := .pinWait }
    joinQueue m.day .ingest (updDrain (fun d => { d with dup := some dup }) s)

/-- Steps 5 to 9 of the record checks on a record with its clamped values (R66 to R70). -/
def decideFromDay (e : BatchEntry) (size : Nat) (r : CallRecord) (s : State) : State :=
  if s.currentDay + 1 < r.day then refuseRecord e r.charge size .futureRecord s
  else if s.expired r.day r.cls ∧ ¬ s.held r.key r.day r.cls then refuseRecord e r.charge size .expiredOnArrival s
  else match s.lookup r.ref with
    | some m => findDuplicate e size r m s
    | none =>
      match s.missing r.source r.day with
      | some code => refuseRecord e r.charge size code s
      | none => storeRecord e size r s

/-- Steps 1 to 4 of the record checks, then the rest (R64, R65). -/
def decideRecord (e : BatchEntry) (f : OpenFile) (size : Nat) (d : Delivered) (s : State) : State :=
  if d.mustBeZero = false ∨ d.source = 0 ∨ Config.maxSource < d.source then refuseRecord e d.charge size .malformed s
  else if d.source ≠ f.source then refuseRecord e d.charge size .sourceMismatch s
  else if Config.maxCharge < d.charge then refuseRecord e d.charge size .chargeRange s
  else decideFromDay e size d.clampedRecord s

/-- R63: a structural fault refuses what is left of the payload as one record and ends the batch. -/
def truncateBatch (e : BatchEntry) (s : State) : State :=
  updDrain (fun d => { d with offset := e.payload.length }) (tallyRefused e .batchTruncated (tallyReceived e 0 s))

/-- One record event of the drain in progress (R63 to R71); no event falls while none is in progress or a comparison waits. -/
def decideNext (s : State) : State :=
  match s.ie.drain, s.ie.queue with
  | some d, e :: _ =>
    match d.dup, s.openFile e.ctx e.gen with
    | none, some f =>
      let rest := e.payload.drop d.offset
      match wholeSize rest with
      | none => truncateBatch e s
      | some size => decideRecord e f size (readDelivered rest) s
    | _, _ => s
  | _, _ => s

/-! ## The comparison with a segment copy (R68) -/

/-- Ends a pending comparison: the pin is released and the duplicate counted. -/
def compareDone (e : BatchEntry) (p : PendingDuplicate) (conflict : Bool) (s : State) : State :=
  discardDuplicate e p.delivered p.size p.record.source p.day conflict (releasePin p.day s)

/-- The comparison against the map entry's own fields, at a DAMAGED segment or a failed decode. -/
def compareByEntry (e : BatchEntry) (p : PendingDuplicate) (s : State) : State :=
  match s.lookup p.record.ref with
  | some m => compareDone e p (conflictsWithEntry p.record m) s
  | none => decideFromDay e p.size p.record (releasePin p.day (updDrain (fun d => { d with dup := none }) s))

/-- The Ingest Engine at its pin grant (R68). -/
def ingestPinned (s : State) : State :=
  match s.ie.drain, s.ie.queue with
  | some d, e :: _ =>
    match d.dup with
    | none => s
    | some p =>
      match s.lookup p.record.ref with
      | none => decideFromDay e p.size p.record (releasePin p.day (updDrain (fun d => { d with dup := none }) s))
      | some m =>
        match m.loc with
        | .hot n =>
          match Tab.get s.hs.slots n with
          | some x => compareDone e p (conflictsWith p.record x) s
          | none => compareByEntry e p s
        | .segment n o =>
          if s.segActive n then
            placeRequest .query .ingest
              (updDrain (fun d => { d with dup := some { p with seg := n, ord := o, stage := .grantWait } }) s)
          else compareByEntry e p s
  | _, _ => s

/-- The Ingest Engine at the completion of its decode (R68). -/
def ingestDecoded (rs : Option (List CallRecord)) (s : State) : State :=
  match s.ie.drain, s.ie.queue with
  | some d, e :: _ =>
    match d.dup with
    | none => s
    | some p =>
      match rs.bind fun l => l[p.ord]? with
      | some x => compareDone e p (conflictsWith p.record x) s
      | none => compareByEntry e p s
  | _, _ => s

/-- The Ingest Engine, waiting for a pin, is told that the day has no records: the checks resume at step 5 (R68). -/
def ingestReleased (s : State) : State :=
  match s.ie.drain, s.ie.queue with
  | some d, e :: _ =>
    match d.dup with
    | none => s
    | some p => decideFromDay e p.size p.record (updDrain (fun d => { d with dup := none }) s)
  | _, _ => s

/-- The segment that the Ingest Engine's request is for. -/
def State.ingestSeg (s : State) : Nat :=
  match s.ie.drain with
  | some d => (match d.dup with | some p => p.seg | none => 0)
  | none => 0

/-! ## Taking the next entry -/

/-- IE takes the head entry: a single-event drain, an entry refused whole, or the start of a RECORDS drain (R60, R62). -/
def takeEntry (e : BatchEntry) (s : State) : State :=
  if headerOk e.kind e.ctx e.gen e.rsv = false then endDrain e Status.malformed [] s
  else match readParams e.kind e.payload with
    | none => endDrain e Status.malformed [] s
    | some params =>
      match params with
      | .fileOpen source file => drainOpen e source file s
      | .fileClose trailer =>
        (match s.openFile e.ctx e.gen with
         | none => endDrain e Status.staleContext [] s
         | some f => drainClose e f trailer s)
      | .fileAbort =>
        (match s.openFile e.ctx e.gen with
         | none => endDrain e Status.staleContext [] s
         | some f => drainAbort e f s)
      | .records =>
        (match s.openFile e.ctx e.gen with
         | none => endDrain e Status.staleContext [] s
         | some _ =>
           if s.ck.clockSet = false then endDrain e Status.clockUnset [] s
           else if e.payload = [] then endDrain e Status.ok newDrain.payload s
           else s.mapIe fun q => { q with drain := some newDrain })
      | _ => endDrain e Status.malformed [] s

/-- IE takes the next entry at the event its previous drain ends, or at the arrival of an entry into an empty queue (R62). -/
def beginDrain (s : State) : Option State :=
  match s.ie.drain, s.ie.queue with
  | none, e :: _ => some (takeEntry e s)
  | _, _ => none

end Sys2Proof.Machine
end

