-- ==== Sys2Proof/Machine/Audit.lean ====
section
/-! DEFINITION. The Audit Unit: READ_ACCOUNT (R147), the Counter Bank (R151, R152), scan slots with AUDIT_SCAN and VERIFY_DAYS (R153 to
R159), CANCEL (R157) and the patrol (R161, R162). -/

namespace Sys2Proof.Machine

open Wire

/-! ## Accounts and counters -/

/-- READ_ACCOUNT's payload, 72 bytes (R147). -/
def Account.view (a : Account) : Bytes :=
  be 8 a.stored ++ be 8 a.duplicates ++ beInt a.storedSum ++ be 8 a.amends ++ beInt a.amendDelta ++ be 8 a.retired
    ++ beInt a.retiredSum ++ be 8 a.live ++ beInt a.liveSum

/-- READ_ACCOUNT served (R147). -/
def serveReadAccount (tag epoch source day : Nat) (s : State) : State :=
  if source = 0 ∨ Config.maxSource < source ∨ Config.lastDay < day then respond tag epoch Status.valueRange [] s
  else match Tab.get s.au.accounts (accountKey source day) with
    | none => respond tag epoch Status.notFound [] s
    | some a => respond tag epoch Status.ok a.view s

/-- A bank's forty counters, 37 of four bytes and three of eight (R151). -/
def bankBytes (bank : List Nat) : Bytes := (bank.take 37).flatMap (be 4) ++ (bank.drop 37).flatMap (be 8)

/-- READ_COUNTERS served (R151). -/
def serveReadCounters (tag epoch bank : Nat) (s : State) : State :=
  if bank = 0 then respond tag epoch Status.ok (optional 2 none ++ bankBytes s.au.current) s
  else if bank = 1 then respond tag epoch Status.ok (optional 2 s.au.captureDay ++ bankBytes s.au.previous) s
  else respond tag epoch Status.valueRange [] s

/-- CLEAR_COUNTERS served (R152). -/
def serveClearCounters (tag epoch : Nat) (s : State) : State :=
  respond tag epoch Status.ok [] (s.mapAu fun a => { a with current := zeroBank })

/-- READ_STATUS served by the Link Port: the view as it stands, and the latch cleared when asked (R33); the view's ALERT level is the one
before that clear (log entry 33). -/
def serveReadStatus (tag epoch : Nat) (clear : Bool) (s : State) : State :=
  respond tag epoch Status.ok s.statusView
    (if clear then s.mapAu fun a => { a with damageFound := false } else s)

/-! ## Scan slots -/

def State.scanSlot (s : State) (n : Nat) : Option ScanSlot := Tab.get s.au.slots n

def updSlot (n : Nat) (f : ScanSlot → ScanSlot) (s : State) : State :=
  s.mapAu fun a => { a with slots := Tab.upd a.slots n f }

/-- The job kind of a slot's requests (R155, R159). -/
def ScanWork.kind : ScanWork → JobKind
  | .scan _ _ => .scan
  | .verify _ _ _ => .verify

/-- The last day of a slot's range. -/
def ScanWork.lastDay : ScanWork → Nat
  | .scan f _ => f.lastDay
  | .verify _ l _ => l

/-- A visit is complete (R156, R159). -/
def ScanWork.visited : ScanWork → ScanWork
  | .scan f r => .scan f { r with visited := r.visited + 1 }
  | .verify a b r => .verify a b { r with visited := r.visited + 1 }

/-- AUDIT_SCAN's OK payload (R156). -/
def ScanResult.payload (r : ScanResult) : Bytes :=
  be 4 r.visited ++ be 8 r.matched ++ beInt r.durationSum ++ beInt r.volumeSum ++ beInt r.chargeSum ++ r.buckets.flatMap (be 8)
    ++ be 8 r.unreadable ++ optional 4 r.earliest ++ optional 4 r.latest

/-- VERIFY_DAYS's OK payload (R159). -/
def VerifyResult.payload (r : VerifyResult) : Bytes :=
  be 4 r.visited ++ be 4 r.checked ++ be 4 r.newlyDamaged ++ be 4 r.alreadyDamaged

/-- The OK payload of a complete scan or verification. -/
def ScanWork.payload : ScanWork → Bytes
  | .scan _ r => r.payload
  | .verify _ _ r => r.payload

/-- A request in a slot is answered, and its slot becomes FREE (R153). -/
def finishSlot (n : Nat) (q : ScanSlot) (status : Nat) (payload : Bytes) (s : State) : State :=
  (respond q.tag q.epoch status payload s).mapAu fun a => { a with slots := Tab.del a.slots n }

/-- R155: moves to the lowest non-FREE day of the range at or above `first` and asks for a pin on it, or answers. -/
def scanNext (n : Nat) (q : ScanSlot) (work : ScanWork) (first : Nat) (s : State) : State :=
  match s.dayFrom first work.lastDay with
  | none => finishSlot n q Status.ok work.payload s
  | some d => joinQueue d (.scan n) (updSlot n (fun q => { q with stage := .pinWait, visiting := d, toRead := [], work := work }) s)

/-- A request takes the lowest FREE slot and begins its first visit (R153, log entry 5). -/
def takeSlot (tag epoch first : Nat) (work : ScanWork) (s : State) : State :=
  let n := Tab.lowestFree s.au.slots 0
  let q : ScanSlot :=
    { tag := tag, epoch := epoch, stage := .pinWait, cancelling := false, visiting := first, toRead := [], work := work }
  scanNext n q work first (s.mapAu fun a => { a with slots := Tab.put a.slots n q })

def ScanResult.zero : ScanResult :=
  { visited := 0, matched := 0, durationSum := 0, volumeSum := 0, chargeSum := 0, buckets := List.replicate 6 0, unreadable := 0,
    earliest := none, latest := none }

def VerifyResult.zero : VerifyResult := { visited := 0, checked := 0, newlyDamaged := 0, alreadyDamaged := 0 }

/-- The range checks of AUDIT_SCAN's parameters (R153). -/
def ScanFilter.outOfRange (f : ScanFilter) : Bool :=
  decide (Config.maxSource < f.sourceMatch) || decide (Config.maxSource < f.sourceMask) || f.classMask == 0
    || decide (Config.lastDay < f.lastDay) || decide (f.lastDay < f.firstDay) || (f.flagsMatch &&& f.flagsMask) != f.flagsMatch

/-- AUDIT_SCAN taken by AU (R153). -/
def serveAuditScan (tag epoch : Nat) (f : ScanFilter) (s : State) : State :=
  if f.outOfRange then respond tag epoch Status.valueRange [] s
  else if Config.scanSlots ≤ s.au.slots.length then respond tag epoch Status.scanBusy [] s
  else takeSlot tag epoch f.firstDay (.scan f ScanResult.zero) s

/-- VERIFY_DAYS taken by AU (R159). -/
def serveVerifyDays (tag epoch first last : Nat) (s : State) : State :=
  if Config.lastDay < last ∨ last < first then respond tag epoch Status.valueRange [] s
  else if Config.scanSlots ≤ s.au.slots.length then respond tag epoch Status.scanBusy [] s
  else takeSlot tag epoch first (.verify first last VerifyResult.zero) s

/-! ## Visits -/

/-- A matched record joins the running result (R156). -/
def ScanResult.add (r : ScanResult) (x : CallRecord) : ScanResult :=
  { r with
    matched := count64 (r.matched + 1), durationSum := sum64 (r.durationSum + x.duration), volumeSum := sum64 (r.volumeSum + x.volume),
    chargeSum := sum64 (r.chargeSum + x.charge), buckets := r.buckets.modify (bucketOf x.duration) fun n => count64 (n + 1),
    earliest := some (match r.earliest with | some t => min t x.start | none => x.start),
    latest := some (match r.latest with | some t => max t x.start | none => x.start) }

/-- The day's entries that pass the filter (R82, R154). -/
def State.passing (s : State) (f : ScanFilter) (day : Nat) : Tab MapEntry := Tab.keep (s.entriesOf day) fun ref e => s.passes f ref e

/-- The record in the hot slot of a map entry. -/
def State.hotRecord (s : State) (e : MapEntry) : Option CallRecord :=
  match e.loc with
  | .hot n => Tab.get s.hs.slots n
  | .segment _ _ => none

/-- A map entry lies in a DAMAGED segment. -/
def State.inDamaged (s : State) (e : MapEntry) : Bool :=
  match e.loc with
  | .segment n _ => s.segDamaged n
  | .hot _ => false

/-- R155 step 3 or 2: the visit ends, or the next recorded segment's quantum is asked for. -/
def scanGoOn (n : Nat) (q : ScanSlot) (work : ScanWork) (toRead : List Nat) (s : State) : State :=
  match toRead with
  | [] => scanNext n q work.visited (q.visiting + 1) (releasePin q.visiting s)
  | _ => placeRequest work.kind (.slot n) (updSlot n (fun q => { q with stage := .grantWait, toRead := toRead, work := work }) s)

/-- A scan or verification at its pin grant (R155 step 1, R159). -/
def scanPinned (n : Nat) (s : State) : State :=
  match s.scanSlot n with
  | none => s
  | some q =>
    let segs := match s.part q.visiting with | some p => p.segments | none => []
    match q.work with
    | .scan f r =>
      let found := s.passing f q.visiting
      let r := (found.filterMap fun e => s.hotRecord e.2).foldl ScanResult.add r
      let r := { r with unreadable := count64 (r.unreadable + Tab.count found fun _ e => s.inDamaged e) }
      scanGoOn n q (.scan f r) (segs.filter s.segActive) s
    | .verify a b r =>
      scanGoOn n q (.verify a b { r with alreadyDamaged := r.alreadyDamaged + (segs.filter s.segDamaged).length })
        (segs.filter s.segActive) s

/-- The records of a decode whose copies are live, with their map entries, that pass the filter (R155 step 2). -/
def State.passingCopies (s : State) (f : ScanFilter) (seg : Nat) (rs : List CallRecord) : List CallRecord :=
  (s.liveCopies seg rs).filter fun r => match s.lookup r.ref with | some e => s.passes f r.ref e | none => false

/-- An AUDIT_SCAN at a decode completion (R155 step 2, R157, R158). -/
def scanDecoded (n : Nat) (rs : Option (List CallRecord)) (s : State) : State :=
  match s.scanSlot n with
  | none => s
  | some q =>
    match q.work with
    | .verify _ _ _ => s
    | .scan f r =>
      if q.cancelling then finishSlot n q Status.cancelled [] (releasePin q.visiting s)
      else
        let seg := q.toRead.headD 0
        let r := match rs with
          | some rs => (s.passingCopies f seg rs).foldl ScanResult.add r
          | none => { r with unreadable := count64 (r.unreadable + Tab.count (s.passing f q.visiting) fun _ e => e.inSegment seg) }
        scanGoOn n q (.scan f r) q.toRead.tail s

/-- How the check of a queued segment ended (R159). -/
inductive CheckOutcome where
  | foundDamaged | passed | failed
deriving DecidableEq, Repr

/-- R159: counts the outcome of a check. -/
def VerifyResult.add (r : VerifyResult) : CheckOutcome → VerifyResult
  | .foundDamaged => { r with alreadyDamaged := r.alreadyDamaged + 1 }
  | .passed => { r with checked := r.checked + 1 }
  | .failed => { r with checked := r.checked + 1, newlyDamaged := r.newlyDamaged + 1 }

/-- A VERIFY_DAYS at the completion of a check (R159, R157, R158). -/
def verifyChecked (n : Nat) (outcome : CheckOutcome) (s : State) : State :=
  match s.scanSlot n with
  | none => s
  | some q =>
    match q.work with
    | .scan _ _ => s
    | .verify a b r =>
      if q.cancelling then finishSlot n q Status.cancelled [] (releasePin q.visiting s)
      else scanGoOn n q (.verify a b (r.add outcome)) q.toRead.tail s

/-- A scan or verification that waited is told that its day has no records: it goes on to the next day (R155). -/
def scanReleased (n : Nat) (s : State) : State :=
  match s.scanSlot n with
  | none => s
  | some q => scanNext n q q.work (q.visiting + 1) s

/-! ## CANCEL -/

/-- Ends a scan or verification at its next boundary, answering CANCELLED; the response of an old epoch is dropped (R157, R158). -/
def cancelSlot (n : Nat) (q : ScanSlot) (s : State) : State :=
  match q.stage with
  | .pinWait => finishSlot n q Status.cancelled [] (leaveQueue q.visiting (.scan n) s)
  | .grantWait => finishSlot n q Status.cancelled [] (releasePin q.visiting (withdrawRequest q.work.kind (.slot n) s))
  | .quantum => updSlot n (fun q => { q with cancelling := true }) s

/-- CANCEL served (R157). -/
def serveCancel (tag epoch target : Nat) (s : State) : State :=
  if 63 < target then respond tag epoch Status.valueRange [] s
  else match Tab.first s.au.slots fun _ q => q.tag == target && q.epoch == s.lp.epoch with
    | some (n, q) => cancelSlot n q (respond tag epoch Status.ok [] s)
    | none =>
      match Tab.first s.qa.contexts fun _ q => q.isSubscriber && q.tag == target && q.epoch == s.lp.epoch with
      | some (c, q) => cancelSubscriber c q (respond tag epoch Status.ok [] s)
      | none => respond tag epoch Status.notFound [] s

/-! ## The patrol -/

def setCursor (day place : Nat) (s : State) : State := s.mapAu fun a => { a with cursorDay := day, cursorPlace := place }

/-- A patrol step ends: the timer restarts at 0 (R161). -/
def endPatrol (s : State) : State := s.mapAu fun a => { a with patrol := none, patrolElapsed := 0 }

/-- R162 step 2: the step asks for a pin on the day found. -/
def patrolAsks (p : PatrolStep) (d : Nat) (s : State) : State :=
  joinQueue d .patrol (s.mapAu fun a => { a with patrol := some { p with day := d, stage := .pinWait } })

/-- The day at which a search begins is the first day it finds. A day found at or past it, after the search wrapped, ends the step with the
cursor at the day it began (R162; the beginning where the cursor's day has no entry, and a day past it, are log entry 12's). -/
def patrolFound (p : PatrolStep) (d : Nat) (s : State) : State :=
  match p.began with
  | none => patrolAsks { p with began := some d, wrapped := false } d s
  | some b => if p.wrapped ∧ b ≤ d then endPatrol (setCursor b 0 s) else patrolAsks p d s

/-- R162 step 1: searches from the cursor, wrapping once where no day lies at or above it. A search that has wrapped and finds no day above
its cursor again has come past the day at which it began, and ends there (log entry 12). -/
def patrolSearch (p : PatrolStep) (s : State) : State :=
  match s.dayFrom s.au.cursorDay Config.lastDay with
  | some d => patrolFound p d s
  | none =>
    match s.dayFrom 0 Config.lastDay with
    | none => endPatrol (setCursor 0 0 s)
    | some d =>
      if p.began.isSome ∧ p.wrapped then endPatrol (setCursor (p.began.getD 0) 0 s)
      else patrolFound { p with wrapped := true } d (setCursor 0 0 s)

/-- The patrol timer expires and a step begins (R161, R162). -/
def beginPatrol (s : State) : State :=
  patrolSearch { began := none, wrapped := false, day := 0, seg := 0, place := 0, stage := .pinWait } s

/-- The patrol timer has reached the interval in force and no step is in progress (R40, R161). -/
def State.patrolDue (s : State) : Bool :=
  s.au.patrol.isNone && s.cl.settings.patrolCode != 0 && decide (intervalOf s.cl.settings.patrolCode ≤ s.au.patrolElapsed)

/-- Compares the patrol timer with its interval, as it stands at a SET_CONFIG or after an advance (R161), in a warm reset too (log entry 40). -/
def comparePatrolTimer (s : State) : State := if s.patrolDue then beginPatrol s else s

/-- The patrol timer at a second event (R161). -/
def advancePatrolTimer (s : State) : State :=
  comparePatrolTimer
    (if s.au.patrol.isNone ∧ s.cl.settings.patrolCode ≠ 0 then s.mapAu fun a => { a with patrolElapsed := a.patrolElapsed + 1 } else s)

/-- R162: the search goes on past a day. -/
def patrolPast (p : PatrolStep) (s : State) : State := patrolSearch p (setCursor (p.day + 1) 0 s)

/-- A patrol step at its pin grant (R162 step 3). -/
def patrolPinned (s : State) : State :=
  match s.au.patrol with
  | none => s
  | some p =>
    let segs := match s.part p.day with | some t => t.segments | none => []
    let start := if p.day = s.au.cursorDay then s.au.cursorPlace else 0
    match (segs.drop start).findIdx? s.segActive with
    | some i =>
      let step := { p with seg := segs.getD (start + i) 0, place := start + i, stage := .grantWait }
      placeRequest .patrol .patrol (s.mapAu fun a => { a with patrol := some step })
    | none => patrolPast p (releasePin p.day s)

/-- A patrol step at the completion of its check (R162). -/
def patrolChecked (s : State) : State :=
  match s.au.patrol with
  | none => s
  | some p => endPatrol (setCursor p.day (p.place + 1) (releasePin p.day s))

/-- A patrol step that waited is told that its day has no records (R162 step 2). -/
def patrolReleased (s : State) : State :=
  match s.au.patrol with
  | none => s
  | some p => patrolPast p s

end Sys2Proof.Machine
end

