-- ==== Sys2Proof/Machine/Coding.lean ====
section
/-! DEFINITION. The Segment Codec: varints (R109), coded records (R110, R111), the close rule (R112), the fields of a directory entry
(R113), and decoding with its checks (R114). -/

namespace Sys2Proof.Machine

open Wire

/-! ## Encoding -/

/-- R109: a number as a varint of at most `fuel` bytes, lowest 7-bit group first. Seven bytes hold every value coded. -/
def varintGo : Nat → Nat → Bytes
  | 0, _ => []
  | fuel + 1, v => if v < 128 then [BitVec.ofNat 8 v] else BitVec.ofNat 8 (v % 128 + 128) :: varintGo fuel (v / 128)

def varint (v : Nat) : Bytes := varintGo 7 v

/-- The control byte of R110. -/
def controlByte (sameKey : Bool) (r : CallRecord) : Nat :=
  (if sameKey then 1 else 0) + 2 * r.cls.code + (if r.cell.isSome then 8 else 0) + (if r.partner.isSome then 16 else 0)
    + (if r.amendCount = 0 then 0 else 32) + (if r.late then 64 else 0) + (if r.clamped then 128 else 0)

/-- R110: one coded record, against the key and start of the record before it (none for a first record). Its length is the E of
R111. -/
def codeRecord (day : Nat) (prev : Option (Nat × Nat)) (r : CallRecord) : Bytes :=
  let sameKey := match prev with | some (k, _) => decide (k = r.key) | none => false
  be 1 (controlByte sameKey r)
    ++ (match prev with
        | none => varint 0 ++ varint (r.start - dayBase day)
        | some (k, t) => if k = r.key then varint (r.start - t) else varint (r.key - k) ++ varint (r.start - dayBase day))
    ++ varint r.source ++ varint r.sequence ++ varint r.duration
    ++ (if r.cls = .data then varint r.volume else []) ++ varint r.charge
    ++ (if r.amendCount = 0 then [] else be 1 r.amendCount)
    ++ (match r.cell with | some c => be 4 c | none => [])
    ++ (match r.partner with | some p => be 2 p | none => [])

/-- The run of members that the close rule gives the next segment, with its body, and the members left (R112). The run so far is held
in reverse, with its body, its record count and the key and start of its last record. A member without a copy is left out. -/
def cutRun (day : Nat) : List Member → List Member → Bytes → Nat → Option (Nat × Nat) → List Member × Bytes × List Member
  | [], run, body, _, _ => (run.reverse, body, [])
  | m :: ms, run, body, n, prev =>
    match m.copy with
    | none => cutRun day ms run body n prev
    | some r =>
      let coded := codeRecord day prev r
      if n ≠ 0 ∧ (Config.bodyLimit < body.length + coded.length ∨ Config.recordLimit ≤ n) then (run.reverse, body, m :: ms)
      else cutRun day ms (m :: run) (body ++ coded) (n + 1) (some (r.key, r.start))

/-- The order of a segment's records: key, start, source, sequence (R108). -/
def recordLe (a b : CallRecord) : Bool :=
  decide (a.key < b.key) || (decide (a.key = b.key) &&
    (decide (a.start < b.start) || (decide (a.start = b.start) && decide (a.ref ≤ b.ref))))

/-- The order of R108 on members, by their copies. -/
def memberLe (a b : Member) : Bool :=
  match a.copy, b.copy with
  | some x, some y => recordLe x y
  | none, _ => true
  | some _, none => false

/-- The least of a list, by a default when it is empty. -/
def leastOf (l : List Nat) : Nat := l.foldl min (l.headD 0)
def greatestOf (l : List Nat) : Nat := l.foldl max 0

/-- R113: the directory entry that an encode quantum sets for a run and its body. -/
def segmentEntry (day : Nat) (run : List Member) (body : Bytes) : SegEntry :=
  let rs := run.filterMap (·.copy)
  { state := .writing, day := day, records := rs.length, live := 0, firstKey := (rs.map (·.key)).headD 0,
    lastKey := (rs.map (·.key)).getLastD 0, earliest := leastOf (rs.map (·.start)), latest := greatestOf (rs.map (·.start)),
    length := body.length, check := crc32 body }

/-! ## Decoding -/

/-- Reads a varint: its value and the bytes after it; none when it runs past the body or past `fuel` bytes (R114). -/
def readVarint : Nat → Bytes → Option (Nat × Bytes)
  | 0, _ => none
  | _ + 1, [] => none
  | fuel + 1, b :: rest =>
    if b.toNat < 128 then some (b.toNat, rest)
    else match readVarint fuel rest with
      | none => none
      | some (v, rest) => some (v * 128 + (b.toNat - 128), rest)

/-- Reads a varint of at most seven bytes whose value is at most a bound. -/
def readBounded (bound : Nat) (bs : Bytes) : Option (Nat × Bytes) :=
  match readVarint 7 bs with
  | none => none
  | some (v, rest) => if v ≤ bound then some (v, rest) else none

/-- Reads a fixed part of n bytes, most significant first, when it is announced. -/
def readFixed (announced : Bool) (n : Nat) (bs : Bytes) : Option (Option Nat × Bytes) :=
  if announced then if bs.length < n then none else some (some (field bs 0 n), bs.drop n) else some (none, bs)

/-- The key and start of a coded record, read from the bytes after its control byte, and the bytes after them (R114). prev is the key and start
of the record before it, none for ordinal 0, whose previous key is the entry's first key; same is S. -/
def readKeyStart (e : SegEntry) (prev : Option (Nat × Nat)) (same : Bool) (bs : Bytes) : Option (Nat × Nat × Bytes) :=
  match prev, same with
  | none, true => none
  | none, false => do
    let (dk, bs) ← readBounded 0 bs
    let (ds, bs) ← readBounded 4294967295 bs
    some (e.firstKey + dk, dayBase e.day + ds, bs)
  | some (k, t), true => do
    let (ds, bs) ← readBounded 4294967295 bs
    some (k, t + ds, bs)
  | some (k, _), false => do
    let (dk, bs) ← readBounded 281474976710655 bs
    if dk = 0 then none
    let (ds, bs) ← readBounded 4294967295 bs
    some (k + dk, dayBase e.day + ds, bs)

/-- The volume of a record, coded for DATA records alone, and the bytes after it (R110, R114). -/
def readVolume (cls : CallClass) (bs : Bytes) : Option (Nat × Bytes) :=
  if cls = .data then readBounded 4294967295 bs else some (0, bs)

/-- One coded record read back, its control byte first (R114): the record and the bytes after it, or none when a check fails. -/
def readRecord (e : SegEntry) (prev : Option (Nat × Nat)) : Bytes → Option (CallRecord × Bytes)
  | [] => none
  | c :: bs => do
    let (key, start, bs) ← readKeyStart e prev (c.getLsbD 0) bs
    let (source, bs) ← readBounded Config.maxSource bs
    let (sequence, bs) ← readBounded 1099511627775 bs
    let (duration, bs) ← readBounded Config.maxDuration bs
    let cls := CallClass.ofCode (c.toNat / 2)
    let (volume, bs) ← readVolume cls bs
    let (charge, bs) ← readBounded Config.maxCharge bs
    let (amend, bs) ← readFixed (c.getLsbD 5) 1 bs
    let (cell, bs) ← readFixed (c.getLsbD 3) 4 bs
    let (partner, bs) ← readFixed (c.getLsbD 4) 2 bs
    if source = 0 ∨ 281474976710655 < key ∨ 4294967295 < start ∨ dayOf start ≠ e.day ∨ start < e.earliest ∨ e.latest < start then none
    else some ({ source := source, sequence := sequence, key := key, cls := cls, start := start, duration := duration,
                 volume := volume, charge := charge, cell := cell, partner := partner, amendCount := amend.getD 0,
                 late := c.getLsbD 6, clamped := c.getLsbD 7 }, bs)

/-- Reads n records, and requires that no byte remains and that the last key is the entry's (R114). -/
def readRecords (e : SegEntry) : Nat → Option (Nat × Nat) → Bytes → Option (List CallRecord)
  | 0, prev, bs => if bs = [] ∧ (prev.map (·.1)).getD e.lastKey = e.lastKey then some [] else none
  | n + 1, prev, bs =>
    match readRecord e prev bs with
    | none => none
    | some (r, bs) =>
      match readRecords e n (some (r.key, r.start)) bs with
      | none => none
      | some rs => some (r :: rs)

/-- R106, R114: the decode of a body against its directory entry: its check value, then its records in ordinal order. -/
def decodeBody (e : SegEntry) (body : Bytes) : Option (List CallRecord) :=
  if crc32 body = e.check then readRecords e e.records none body else none

/-- The body that a read completion brings, or none at a read fault (R106, R159). -/
def State.bodyRead (s : State) (n : Nat) : ReadResult → Option Bytes
  | .stored => some ((Tab.get s.cs.bodies n).getD [])
  | .fault => none
  | .altered body => some body

/-- The outcome of the decode of a segment at its completion: its records, or none when it fails (R106). -/
def State.decoded (s : State) (n : Nat) (r : ReadResult) : Option (List CallRecord) :=
  match s.seg n, s.bodyRead n r with
  | some e, some body => decodeBody e body
  | _, _ => none

/-- R159: the check of a segment passes when the body was read and its CRC-32 equals the entry's check value. -/
def State.checkPasses (s : State) (n : Nat) (r : ReadResult) : Bool :=
  match s.seg n, s.bodyRead n r with
  | some e, some body => crc32 body == e.check
  | _, _ => false

end Sys2Proof.Machine
end

