-- ==== Sys2Proof/Machine/Compaction.lean ====
section
/-! DEFINITION. The Compaction Engine's job: snapshots (R116, R122), decode and encode quanta (R117, R122), failure and abandonment (R119,
R123, R124) and the switch-over (R120, R123). -/

namespace Sys2Proof.Machine

/-! ## The job context -/

def setJob (j : Option Job) (s : State) : State := s.mapCe fun c => { c with job := j }

/-- The job kind of the job's requests (R115). -/
def Job.kind (j : Job) : JobKind := if j.repack then .repack else .pack

/-- The job asks for its next quantum (R117). -/
def jobAsks (j : Job) (s : State) : State := placeRequest j.kind .job (setJob (some j) s)

/-- The job's segments: those written, and the one whose write is under way. -/
def Job.segs (j : Job) : List Nat := j.written.map (·.1) ++ j.writing.toList

/-- A member's map entry still points to its snapshot location (R120). -/
def State.memberStays (s : State) (m : Member) : Bool :=
  match s.lookup m.ref with
  | some e => decide (e.loc = m.loc)
  | none => false

/-- The snapshot slot of a member. -/
def Member.slot (m : Member) : Option Nat :=
  match m.loc with
  | .hot n => some n
  | .segment _ _ => none

/-- The member's snapshot location is in a segment. -/
def Member.inSegment (m : Member) (n : Nat) : Bool :=
  match m.loc with
  | .segment k _ => decide (k = n)
  | .hot _ => false

/-! ## Snapshots -/

/-- The copy of a map entry's record that a snapshot takes: from the slot of a hot entry, none yet for a segment entry (R116, R122). -/
def State.memberOf (s : State) (ref : Nat) (e : MapEntry) : Member :=
  { ref := ref, loc := e.loc, copy := match e.loc with | .hot n => Tab.get s.hs.slots n | .segment _ _ => none }

/-- A fresh job context. -/
def newJob (repack : Bool) (day : Nat) (phase : JobPhase) (members rest : List Member) (toDecode : List Nat) : Job :=
  { repack := repack, day := day, phase := phase, members := members, rest := rest, run := [], body := [], writing := none,
    written := [], toDecode := toDecode }

/-- The members in the order of R108, those with a copy. -/
def sortMembers (ms : List Member) : List Member := sortBy memberLe (ms.filter fun m => m.copy.isSome)

/-- R116: the first PACK quantum of a day: it leaves the pack queue, becomes PACKING, and its snapshot is taken and sorted. -/
def packSnapshot (day : Nat) (s : State) : State :=
  let members := (s.entriesOf day).map fun e => s.memberOf e.1 e.2
  setJob (some (newJob false day .encoding members (sortMembers members) []))
    (updPart day (fun p => { p with state := .packing }) (leavePack day s))

/-- The pack job's sort is done: it asks for its next quantum (R116). -/
def sortDone (s : State) : State :=
  match s.ce.job with
  | some j => jobAsks j s
  | none => s

/-- The members of a repack snapshot: hot entries, and entries in ACTIVE segments of the list (R122). -/
def State.repackMembers (s : State) (day : Nat) (active : List Nat) : List Member :=
  (Tab.keep (s.entriesOf day) fun _ e => match e.loc with | .hot _ => true | .segment n _ => decide (n ∈ active)).map fun e =>
    s.memberOf e.1 e.2

/-- A job whose snapshot has nothing left to encode: the partition returns to PACKED and the context becomes free (R122). -/
def emptyRepack (day : Nat) (s : State) : State := setJob none (updPart day (fun p => { p with state := .packed }) s)

/-- R122: after the last decode, or at once where no segment is to be decoded, the members left are sorted and ENCODING begins. -/
def decodingDone (j : Job) (s : State) : State :=
  let members := j.members.filter fun m => m.copy.isSome
  if members = [] then emptyRepack j.day s
  else jobAsks { j with phase := .encoding, members := members, rest := sortMembers members, toDecode := [] } s

/-- R122: the decodes still to be made, or the end of DECODING. -/
def decodingGoesOn (j : Job) (s : State) : State := if j.toDecode = [] then decodingDone j s else jobAsks j s

/-- R122: the first REPACK quantum of a day, complete at its grant. -/
def repackSnapshot (day : Nat) (s : State) : State :=
  let s := s.mapWa fun w => { w with repackQueue := w.repackQueue.filter (· != day) }
  let s := updPart day (fun p => { p with state := .repacking }) s
  let active := match s.part day with | some p => s.activeSegs p | none => []
  let members := s.repackMembers day active
  if members = [] then emptyRepack day s
  else
    let toDecode := active.filter fun n => members.any (·.inSegment n)
    decodingGoesOn (newJob true day .decoding members [] toDecode) s

/-- R122: the outcome of the decode of the segment at the head of the list: each of its members takes its copy, or is dropped. -/
def decodeTaken (n : Nat) (rs : Option (List CallRecord)) (s : State) : State :=
  match s.ce.job with
  | none => s
  | some j =>
    let take (m : Member) : Option Member :=
      match m.loc with
      | .hot _ => some m
      | .segment k o =>
        if k = n then (rs.bind fun l => l[o]?).map fun r => { m with copy := some r } else some m
    decodingGoesOn { j with members := j.members.filterMap take, toDecode := j.toDecode.tail } s

/-! ## Failure and abandonment -/

/-- R119, R124: the unwinding of a job: its WRITING entries return to FREE, the snapshot slots whose map entries have moved are
released and leave the hot count, the partition returns to the state it came from, and the context becomes free. -/
def unwindJob (j : Job) (s : State) : State :=
  let moved := (j.members.filter fun m => !s.memberStays m).filterMap (·.slot)
  let s := s.mapCs fun c =>
    { c with dir := j.segs.foldl Tab.del c.dir, bodies := j.segs.foldl Tab.del c.bodies }
  let s := moved.foldl (fun s n => releaseSlot n s) s
  let s := updPart j.day (fun p =>
    { p with hotCount := p.hotCount - moved.length, state := if j.repack then .packed else .quiet }) s
  setJob none s

/-- R119, R123: a job fails, at a write fault or for want of a FREE directory entry; pressure is evaluated at the end of the event
(R170, Settle; log entry 35). -/
def jobFails (j : Job) (noEntry : Bool) (s : State) : State :=
  let s := countUp .packFailures 1 (unwindJob j s)
  let s := if noEntry then s.mapCe fun c => { c with coldFull := true } else s
  if j.repack then s
  else if noEntry then s.mapCe fun c => { c with coldWait := insertAsc j.day c.coldWait }
  else joinPack j.day s

/-! ## Encoding -/

/-- The FREE directory entry with the lowest segment number, or none (R117). -/
def State.freeSegmentEntry (s : State) : Option Nat :=
  if Tab.lowestFree s.cs.dir 0 < Config.segmentEntries then some (Tab.lowestFree s.cs.dir 0) else none

/-- R117: the job cuts its next run and takes an entry into WRITING; the segment number it writes, or none when it fails. -/
def encodeQuantum (j : Job) (s : State) : State × Option Nat :=
  match s.freeSegmentEntry with
  | none => (jobFails j true s, none)
  | some n =>
    let (run, body, _) := cutRun j.day j.rest [] [] 0 none
    let s := s.mapCs fun c => { c with dir := Tab.put c.dir n (segmentEntry j.day run body) }
    (setJob (some { j with run := run, body := body, writing := some n }) s, some n)

/-- R117: a write completed without fault: the body stands, the position moves past the run, and the job goes on or asks as mover. -/
def writeDone (j : Job) (n : Nat) (s : State) : State :=
  let s := s.mapCs fun c => { c with bodies := Tab.put c.bodies n j.body }
  let j := { j with written := j.written ++ [(n, j.run)], rest := j.rest.drop j.run.length, run := [], body := [], writing := none }
  if j.rest = [] then joinQueue j.day .job (setJob (some { j with phase := .switchWait }) s) else jobAsks j s

/-- The write completion of the segment under way (R105, R117, R119). -/
def writeCompleted (fault : Bool) (s : State) : State :=
  match s.ce.job with
  | none => s
  | some j =>
    match j.writing with
    | none => s
    | some n => if fault then jobFails j false s else writeDone j n s

/-! ## Switch-over -/

/-- R120, R123: one member at the switch-over: its entry moves to the new segment when it still points to the snapshot location, and a
snapshot slot is released either way. The count of moved entries goes with the state. -/
def switchMember (n : Nat) (acc : State × Nat) (m : Member × Nat) : State × Nat :=
  let s := acc.1
  match s.lookup m.1.ref with
  | some e =>
    if e.loc = m.1.loc then
      let s := putEntry m.1.ref { e with loc := .segment n m.2 } s
      (match m.1.loc with | .hot k => releaseSlot k s | .segment k _ => segmentLoses k s, acc.2 + 1)
    else (match m.1.loc with | .hot k => releaseSlot k s | .segment _ _ => s, acc.2)
  | none => (match m.1.loc with | .hot k => releaseSlot k s | .segment _ _ => s, acc.2)

/-- R120: one new segment at the switch-over: its members move, and it becomes ACTIVE in the day's list, or FREE when none moved. -/
def switchSegment (day : Nat) (s : State) (w : Nat × List Member) : State :=
  let (s, moved) := w.2.zipIdx.foldl (switchMember w.1) (s, 0)
  if moved = 0 then s.mapCs fun c => { c with dir := Tab.del c.dir w.1, bodies := Tab.del c.bodies w.1 }
  else
    let s := updSeg w.1 (fun e => { e with state := .active, live := moved }) s
    let firstKeyOf (n : Nat) : Nat := match s.seg n with | some e => e.firstKey | none => 0
    countUp .segmentsWritten 1 (updPart day (fun p => { p with segments := placeSegment firstKeyOf w.1 p.segments }) s)

/-- The day's hot records (R120). -/
def State.hotRecords (s : State) (day : Nat) : Nat :=
  Tab.count (s.entriesOf day) fun _ e => match e.loc with | .hot _ => true | .segment _ _ => false

/-- R120, R123: the switch-over, whole at the job's admission as a mover; pressure is evaluated at the end of the event (R170,
Settle; log entry 35). -/
def switchOver (s : State) : State :=
  match s.ce.job with
  | none => s
  | some j =>
    let s := j.written.foldl (switchSegment j.day) s
    let hot := s.hotRecords j.day
    let s := updPart j.day (fun p => { p with state := .packed, hotCount := hot }) s
    setJob none (releaseMover j.day s)

end Sys2Proof.Machine
end

