-- ==== Sys2Proof/Machine/Sweep.lean ====
section
/-! DEFINITION. The Retention Unit's sweep: its start and withdrawal (R137), the decision event (R138, R139), retirement (R140), the end of a
walk (R141) and the freeing of a partition (R53, R146). -/

namespace Sys2Proof.Machine

/-! ## Starting and withdrawing -/

def setSweep (w : Option Sweep) (s : State) : State := s.mapRu fun r => { r with sweep := w }

/-- R137: a queued day whose partition is neither PACKING nor REPACKING. -/
def State.sweepEligible (s : State) (d : Nat) : Bool :=
  match s.part d with
  | some p => decide (p.state ≠ .packing) && decide (p.state ≠ .repacking)
  | none => false

/-- R137: with no sweep in flight, RU takes the lowest-day eligible entry and asks for admission as a mover on its day. -/
def startSweep (s : State) : Option State :=
  match s.ru.sweep, Tab.first s.ru.queue fun d _ => s.sweepEligible d with
  | none, some (d, _) => some (joinQueue d .sweep (setSweep (some { day := d, stage := .waiting, decided := 0 }) s))
  | _, _ => none

/-- The sweep is admitted as a mover: RU asks for one SWEEP quantum (R137). -/
def sweepAdmitted (s : State) : State :=
  match s.ru.sweep with
  | none => s
  | some w => placeRequest .sweep .sweep (setSweep (some { w with stage := .admitted }) s)

/-- R137: the sweep of a day that has entered PACKING or REPACKING is withdrawn. -/
def withdrawSweep (day : Nat) (s : State) : State :=
  match s.ru.sweep with
  | none => s
  | some w =>
    if w.day = day then
      match w.stage with
      | .waiting => leaveQueue day .sweep (setSweep none s)
      | _ => releaseMover day (withdrawRequest .sweep .sweep (setSweep none s))
    else s

/-- The sweep's request is granted: its quantum begins (R138). -/
def sweepGranted (s : State) : State :=
  s.mapRu fun r => { r with sweep := r.sweep.map fun w => { w with stage := .running, decided := 0 } }

/-! ## Freeing a partition -/

/-- A waiter is told that its day has no records (R52). -/
def waiterReleased (s : State) (w : Waiter) : State :=
  match w with
  | .query c => queryReleased c s
  | .move c => queryReleased c s
  | .ingest => ingestReleased s
  | .scan n => scanReleased n s
  | .patrol => patrolReleased s
  | .job => s
  | .sweep => s

/-- R53, R146: a partition becomes FREE. R52 releases its waiters at that event and gives no order among them. DESIGN CHOICE: they are told
in arrival order, after the queues, the accounts and the entry are cleared (log entry 37). -/
def freePartition (day : Nat) (s : State) : State :=
  let waiters := match s.part day with | some p => p.waitQueue | none => []
  let s := leavePack day s
  let s := s.mapWa fun w => { w with repackQueue := w.repackQueue.filter (· != day) }
  let s := s.mapRu fun r => { r with queue := Tab.del r.queue day }
  let s := s.mapAu fun a => { a with accounts := Tab.keep a.accounts fun k _ => decide (k % 65536 ≠ day) }
  let s := s.mapPc fun p => { p with parts := Tab.del p.parts day }
  waiters.foldl waiterReleased s

/-! ## Decisions -/

/-- R140: what a retirement does at the record's old location. -/
def leaveStore (day : Nat) (loc : Location) (s : State) : State :=
  match loc with
  | .hot n => updPart day (fun p => { p with hotCount := p.hotCount - 1 }) (releaseSlot n s)
  | .segment n _ => segmentLoses n s

/-- R140, R145: the account's part of a retirement. -/
def Account.retire (charge : Nat) (a : Account) : Account :=
  { a with retired := count64 (a.retired + 1), retiredSum := sum64 (a.retiredSum + charge), live := a.live - 1 }

/-- R140: the retirement of a record, whole at its decision event; pressure is evaluated at the end of the event (R170, Settle;
log entry 35). -/
def retireRecord (ref : Nat) (e : MapEntry) (s : State) : State :=
  let s := leaveStore e.day e.loc (dropEntry ref s)
  let s := updPart e.day (fun p => { p with live := p.live.set e.cls (p.live.get e.cls - 1) }) s
  let s := updAccount (refSource ref) e.day (Account.retire e.charge) s
  countUp .chargeRetired e.charge (countUp .recordsRetired 1 s)

/-- The class of an entry is due in its partition (R139 step 1). -/
def State.classDue (s : State) (e : MapEntry) : Bool :=
  match s.part e.day with
  | some p => p.expiryDue.get e.cls
  | none => false

/-- R139: the decision on one entry. -/
def decideEntry (ref : Nat) (e : MapEntry) (s : State) : State :=
  if s.classDue e = false then s
  else if s.expired e.day e.cls = false then s
  else if s.held e.key e.day e.cls then
    countUp .heldSkips 1 (updPart e.day (fun p => { p with heldRemainder := p.heldRemainder.set e.cls true }) s)
  else retireRecord ref e s

/-! ## The end of a quantum and of a walk -/

/-- A sweep quantum completes: the engine is free and the partition released (R137). -/
def sweepQuantumEnds (day : Nat) (s : State) : State := releaseMover day (setSweep none (engineIdle s))

/-- R141 steps 1 and 2: the walk restarts, or its flags clear and its entry leaves the Sweep Queue. -/
def restartOrLeave (day : Nat) (s : State) : State :=
  match Tab.get s.ru.queue day with
  | none => s
  | some e =>
    if e.restart then s.mapRu fun r => { r with queue := Tab.put r.queue day { walk := none, restart := false } }
    else
      updPart day (fun p => { p with expiryDue := PerClass.all false }) (s.mapRu fun r => { r with queue := Tab.del r.queue day })

/-- R141: the end of a walk, which is also the end of its quantum. -/
def endWalk (day : Nat) (s : State) : State :=
  let s := sweepQuantumEnds day (restartOrLeave day s)
  match s.part day with
  | none => s
  | some p => if p.liveTotal = 0 then freePartition day s else repackTest s.sparseTest day s

/-- The walk position moves to the entry decided, and the quantum's count rises (R138). -/
def walkOn (day ref : Nat) (s : State) : State :=
  s.mapRu fun r =>
    { r with queue := Tab.upd r.queue day fun e => { e with walk := some ref }
             sweep := r.sweep.map fun w => { w with decided := w.decided + 1 } }

/-- Where the running sweep's walk stands (R135). -/
def State.walkOf (s : State) (day : Nat) : Option Nat :=
  match Tab.get s.ru.queue day with
  | some e => e.walk
  | none => none

/-- After a decision: the walk ends, the quantum ends at its 4,096th entry, or the quantum goes on (R138, R141). -/
def afterDecision (day : Nat) (s : State) : State :=
  match s.nextEntry day (s.walkOf day) with
  | none => endWalk day s
  | some _ =>
    match s.ru.sweep with
    | some w => if Config.sweepEntries ≤ w.decided then sweepQuantumEnds day s else s
    | none => s

/-- One decision event of the running sweep quantum (R138, R139). -/
def sweepDecision (s : State) : State :=
  match s.ru.sweep with
  | none => s
  | some w =>
    match s.nextEntry w.day (s.walkOf w.day) with
    | none => endWalk w.day s
    | some (ref, e) => afterDecision w.day (walkOn w.day ref (decideEntry ref e s))

end Sys2Proof.Machine
end

