-- ==== Sys2Proof/Machine/Arbiter.lean ====
section
/-! DEFINITION. The Work Arbiter: effective levels and grantable requests (R165 to R167, R169), the grant of each kind's quantum (R163), the
completion of decodes and checks (R106, R159, R160) and the throttle window (R168). -/

namespace Sys2Proof.Machine

/-! ## Ranking -/

/-- The round robin's fixed order (R167). -/
def allJobKinds : List JobKind := [.query, .pack, .repack, .sweep, .verify, .scan, .patrol]

/-- A kind's effective level (R166, R171). -/
def State.level (s : State) (k : JobKind) : Nat :=
  if s.wa.pressure ∧ (k = .pack ∨ k = .repack) then 0 else s.cl.settings.priority.get k

/-- A kind has a waiting request: one in its queue, or the head of the pack or repack queue while the job context is free (R165). -/
def State.hasRequest (s : State) (k : JobKind) : Bool :=
  !(s.wa.requests.get k).isEmpty
    || (s.ce.job.isNone && ((decide (k = .pack) && !s.wa.packQueue.isEmpty) || (decide (k = .repack) && !s.wa.repackQueue.isEmpty)))

/-- A kind's requests are not held back by the throttle window (R167, R169). -/
def State.admitsKind (s : State) (k : JobKind) : Bool := s.level k == 0 || decide (s.wa.phase = .active)

/-- A kind has a grantable request at a level (R167). -/
def State.grantableAt (s : State) (lvl : Nat) (k : JobKind) : Bool := s.hasRequest k && s.admitsKind k && s.level k == lvl

/-- The kinds in the order the pointer of a level goes through them: from the kind after the one last granted (R167). -/
def rotation : Option JobKind → List JobKind
  | none => allJobKinds
  | some k => allJobKinds.drop (allJobKinds.idxOf k + 1) ++ allJobKinds.take (allJobKinds.idxOf k + 1)

/-- The kind a level grants to (R167). -/
def State.winner (s : State) (lvl : Nat) : Option JobKind :=
  (rotation (s.wa.pointers.getD lvl none)).find? (s.grantableAt lvl)

/-- The level and the kind of the decision: the highest effective level that holds a grantable request (R167). -/
def State.decision (s : State) : Option (Nat × JobKind) :=
  [0, 1, 2, 3].findSome? fun lvl => (s.winner lvl).map fun k => (lvl, k)

/-! ## The grants -/

/-- The engine becomes BUSY with a quantum (R163). -/
def engineBusy (k : JobKind) (who : Requester) (quantum : Quantum) (seg : Nat) (s : State) : State :=
  s.mapWa fun w => { w with engine := some { kind := k, who := who, quantum := quantum, seg := seg } }

/-- The grant of a QUERY decode; it completes at the grant, as failed, when the segment is not ACTIVE (R106). -/
def grantQuery (who : Requester) (s : State) : State :=
  match who with
  | .query c =>
    (match s.queryCtx c with
     | none => s
     | some q =>
       if s.segActive q.seg then engineBusy .query who .decode q.seg (updCtx c (fun q => { q with stage := .quantum }) s)
       else queryDecoded c none s)
  | .ingest =>
    let running (d : Drain) : Drain := { d with dup := d.dup.map fun p => { p with stage := .quantum } }
    if s.segActive s.ingestSeg then engineBusy .query who .decode s.ingestSeg (updDrain running s) else ingestDecoded none s
  | _ => s

/-- The segment a slot reads next. -/
def State.slotSeg (s : State) (n : Nat) : Nat :=
  match s.scanSlot n with
  | some q => q.toRead.headD 0
  | none => 0

/-- A scan slot's quantum is under way. -/
def slotRuns (n : Nat) : State → State := updSlot n fun q => { q with stage := .quantum }

/-- The grant of a SCAN decode (R155). -/
def grantScan (who : Requester) (s : State) : State :=
  match who with
  | .slot n =>
    if s.segActive (s.slotSeg n) then engineBusy .scan who .decode (s.slotSeg n) (slotRuns n s) else scanDecoded n none s
  | _ => s

/-- The grant of a VERIFY check; a DAMAGED segment is not read (R159). -/
def grantVerify (who : Requester) (s : State) : State :=
  match who with
  | .slot n =>
    if s.segActive (s.slotSeg n) then engineBusy .verify who .check (s.slotSeg n) (slotRuns n s) else verifyChecked n .foundDamaged s
  | _ => s

/-- The grant of a PATROL check (R162); a segment found DAMAGED at the grant is not read, as in a verification. -/
def grantPatrol (s : State) : State :=
  match s.au.patrol with
  | none => s
  | some p =>
    if s.segActive p.seg then
      engineBusy .patrol .patrol .check p.seg (s.mapAu fun a => { a with patrol := some { p with stage := .quantum } })
    else patrolChecked s

/-- The grant of the running job's next quantum: an encode and write (R117), or the decode of an old segment (R122). -/
def grantRunningJob (j : Job) (s : State) : State :=
  match j.phase with
  | .encoding =>
    (match encodeQuantum j s with
     | (s, none) => s
     | (s, some n) => engineBusy j.kind .job .write n s)
  | .decoding =>
    let seg := j.toDecode.headD 0
    if s.segActive seg then engineBusy j.kind .job .decode seg s else decodeTaken seg none s
  | .switchWait => s

/-- The grant of a first PACK quantum to the head of the pack queue (R116, R137, R165). -/
def grantFirstPack (s : State) : State :=
  match s.wa.packQueue with
  | [] => s
  | day :: _ => engineBusy .pack .job .sort 0 (packSnapshot day (withdrawSweep day s))

/-- The grant of a first REPACK quantum to the head of the repack queue, complete at the grant (R122, R137, R165). -/
def grantFirstRepack (s : State) : State :=
  match s.wa.repackQueue with
  | [] => s
  | day :: _ => repackSnapshot day (withdrawSweep day s)

/-- The grant of a kind's head request, already out of its queue, or of a first quantum where its queue held none. -/
def grantKind (k : JobKind) (who : Option Requester) (s : State) : State :=
  match k, who with
  | .query, some w => grantQuery w s
  | .scan, some w => grantScan w s
  | .verify, some w => grantVerify w s
  | .patrol, some _ => grantPatrol s
  | .sweep, some w => engineBusy .sweep w .sweep 0 (sweepGranted s)
  | .pack, some _ => (match s.ce.job with | some j => grantRunningJob j s | none => s)
  | .repack, some _ => (match s.ce.job with | some j => grantRunningJob j s | none => s)
  | .pack, none => grantFirstPack s
  | .repack, none => grantFirstRepack s
  | _, none => s

/-- R167: a grant decision, where the engine is IDLE and a request is grantable. -/
def grantEngine (s : State) : Option State :=
  match s.wa.engine, s.decision with
  | none, some (lvl, k) =>
    let who := (s.wa.requests.get k).head?
    some (grantKind k who (s.mapWa fun w =>
      { w with pointers := w.pointers.set lvl (some k), requests := w.requests.set k (w.requests.get k).tail }))
  | _, _ => none

/-! ## Completions -/

/-- The quantum of the granted request while the engine is BUSY with this work. -/
def State.runningQuantum (s : State) (q : Quantum) : Option Grant :=
  match s.wa.engine with
  | some g => if g.quantum = q then some g else none
  | none => none

/-- The owner of a decode takes its outcome. -/
def decodeOwner (g : Grant) (rs : Option (List CallRecord)) (s : State) : State :=
  match g.who with
  | .query c => queryDecoded c rs s
  | .ingest => ingestDecoded rs s
  | .slot n => scanDecoded n rs s
  | .job => decodeTaken g.seg rs s
  | .sweep => s
  | .patrol => s

/-- A decode completes: the engine is free, a failure marks an ACTIVE segment DAMAGED, and the owner goes on (R106, R160). -/
def decodeCompleted (read : ReadResult) (s : State) : State :=
  match s.runningQuantum .decode with
  | none => s
  | some g =>
    match s.decoded g.seg read with
    | some rs => decodeOwner g (some rs) (engineIdle s)
    | none => decodeOwner g none (markDamaged g.seg (engineIdle s))

/-- The owner of a check takes its outcome. -/
def checkOwner (g : Grant) (passed : Bool) (s : State) : State :=
  match g.who with
  | .slot n => verifyChecked n (if passed then .passed else .failed) s
  | .patrol => patrolChecked s
  | _ => s

/-- The read of a check completes (R159, R160, R162). -/
def checkCompleted (read : ReadResult) (s : State) : State :=
  match s.runningQuantum .check with
  | none => s
  | some g =>
    if s.checkPasses g.seg read then checkOwner g true (engineIdle s) else checkOwner g false (markDamaged g.seg (engineIdle s))

/-- A pack job's sort ends (R116, R163). -/
def sortCompleted (s : State) : State :=
  match s.runningQuantum .sort with
  | none => s
  | some _ => sortDone (engineIdle s)

/-- A segment write completes (R105, R163). -/
def writeEnded (fault : Bool) (s : State) : State :=
  match s.runningQuantum .write with
  | none => s
  | some _ => writeCompleted fault (engineIdle s)

/-- One decision event of the sweep quantum under way (R138). -/
def sweepEvent (s : State) : State :=
  match s.runningQuantum .sweep with
  | none => s
  | some _ => sweepDecision s

/-! ## The throttle window -/

/-- The REST length in force; 0 is throttle off (R168). -/
def State.restLength (s : State) : Nat := Config.restMillis.getD s.cl.settings.restCode 0

/-- The running phase's length (R168). -/
def State.phaseLength (s : State) : Nat :=
  match s.wa.phase with
  | .active => Config.activeMillis.getD s.cl.settings.activeCode 0
  | .rest => s.restLength

/-- R168: the running phase ends and gives way to the other, or to a fresh ACTIVE phase with the throttle off. -/
def endPhase (s : State) : State :=
  s.mapWa fun w =>
    { w with
      phase := (match w.phase with | .active => if s.restLength = 0 then .active else .rest | .rest => .active)
      elapsed := 0 }

/-- R168: the running phase is compared with its length, and ends at or above it. -/
def comparePhase (s : State) : State := if s.phaseLength ≤ s.wa.elapsed then endPhase s else s

/-- R168: the window at a tick. -/
def tickPhase (s : State) : State := comparePhase (s.mapWa fun w => { w with elapsed := w.elapsed + 1 })

end Sys2Proof.Machine
end

