-- ==== Sys2Proof/Machine/Loader.lean ====
section
/-! DEFINITION. The Configuration Loader: the 23 settings and their clamping (R174, R175), SET_CONFIG's effects (R176), the configuration
image and SAVE_CONFIG (R177), the validity of an image (R178) and the RESET request (R180). -/

namespace Sys2Proof.Machine

open Wire

/-! ## Settings by number -/

/-- The 23 values in force, in setting-number order; settings 20 to 23 are the pending retentions (R125, R174). -/
def State.settingValues (s : State) : List Nat :=
  let c := s.cl.settings
  [c.graceDays, c.quietCode, c.activityMask, c.fileIdleCode, c.repackThreshold, c.repackPercent, c.lowWatermark, c.highWatermark,
   c.priority.query, c.priority.pack, c.priority.repack, c.priority.sweep, c.priority.verify, c.priority.scan, c.priority.patrol,
   c.activeCode, c.restCode, c.patrolCode, c.alertMask,
   s.ru.table.voice.pending, s.ru.table.message.pending, s.ru.table.data.pending, s.ru.table.other.pending]

/-- Settings 1 to 19 from a list of values in setting-number order. -/
def Settings.ofValues (l : List Nat) : Settings :=
  let v (n : Nat) : Nat := l.getD (n - 1) 0
  { graceDays := v 1, quietCode := v 2, activityMask := v 3, fileIdleCode := v 4, repackThreshold := v 5, repackPercent := v 6,
    lowWatermark := v 7, highWatermark := v 8,
    priority := { query := v 9, pack := v 10, repack := v 11, sweep := v 12, verify := v 13, scan := v 14, patrol := v 15 },
    activeCode := v 16, restCode := v 17, patrolCode := v 18, alertMask := v 19 }

/-- The default values of the 23 settings (R174). -/
def defaultValues : List Nat :=
  [2, 8, 3, 6, 4096, 50, 4194304, 8388608, 0, 1, 2, 2, 2, 3, 3, 5, 3, 3, 63, 400, 400, 180, 90]

/-- The range of a numeric setting other than the high watermark (R174). -/
def settingRange (n : Nat) : Nat × Nat :=
  if n = 1 then (0, 7) else if n = 5 then (64, 65535) else if n = 6 then (10, 90) else if n = 7 then (1, 33554431)
  else if 9 ≤ n ∧ n ≤ 15 then (0, 3) else if n = 16 ∨ n = 17 then (0, 7) else if 20 ≤ n then (0, 3650) else (0, 15)

/-- A value brought into a range (R175). -/
def clampTo (lo hi v : Nat) : Nat := max lo (min v hi)

/-- A setting's value as clamped, for every setting but the high watermark (R175). -/
def clampSetting (n v : Nat) : Nat :=
  if n = 3 then v % 8 else if n = 19 then v % 64 else clampTo (settingRange n).1 (settingRange n).2 v

/-- The value that a list of elements names for a setting. -/
def namedValue (els : List (Nat × Nat)) (n : Nat) : Option Nat := (els.find? fun e => e.1 == n).map (·.2)

/-- The value of a setting after a request, but for the high watermark (R175). -/
def valueAfter (old : List Nat) (els : List (Nat × Nat)) (n : Nat) : Nat :=
  match namedValue els n with
  | some v => clampSetting n v
  | none => old.getD (n - 1) 0

/-- The high watermark after a request (R175). -/
def highAfter (old : List Nat) (els : List (Nat × Nat)) : Nat :=
  let low := valueAfter old els 7
  match namedValue els 8 with
  | some v => clampTo (low + 1) 67108864 v
  | none => if old.getD 7 0 ≤ low then low + 1 else old.getD 7 0

/-- The 23 values after a request (R175). -/
def valuesAfter (old : List Nat) (els : List (Nat × Nat)) : List Nat :=
  (List.range 23).map fun i => if i = 7 then highAfter old els else valueAfter old els (i + 1)

/-- A setting's value was altered by clamping (R175). -/
def alteredSetting (old : List Nat) (els : List (Nat × Nat)) (n : Nat) : Bool :=
  match namedValue els n with
  | some v => decide (v ≠ (valuesAfter old els).getD (n - 1) 0)
  | none => n == 8 && decide (highAfter old els ≠ old.getD 7 0)

/-- The clamped list, in ascending order (R175). -/
def clampedList (old : List Nat) (els : List (Nat × Nat)) : List Nat :=
  ((List.range 23).map (· + 1)).filter (alteredSetting old els)

/-- A list that SET_CONFIG refuses whole: a number outside 1 to 23, or one named twice (R175). -/
def refusedElements (els : List (Nat × Nat)) : Bool :=
  els.any (fun e => e.1 == 0 || decide (23 < e.1)) || decide (¬ (els.map (·.1)).Nodup)

/-! ## SET_CONFIG -/

/-- Puts the values of settings 1 to 19 in force. -/
def putSettings (values : List Nat) (s : State) : State := s.mapCl fun c => { c with settings := Settings.ofValues values }

/-- R176: the pending retention of a class whose setting the request names. -/
def namedRetention (els : List (Nat × Nat)) (c : CallClass) (s : State) : State :=
  match namedValue els (20 + c.code) with
  | some days => setPending c days s
  | none => s

/-- R176: an owner's effect at the change of a setting. -/
def onChange (old : Settings) (f : Settings → Nat) (g : State → State) (s : State) : State :=
  if f s.cl.settings = f old then s else g s

/-- R55, R161, R168, R170, R176: the effects of the owners at the event the new values are in force. Pressure is evaluated before the
days that the request closes are moved onward (log entry 34). -/
def settingEffects (old : Settings) (s : State) : State :=
  let s := onChange old (·.graceDays) closeDays s
  let s := onChange old (·.quietCode) compareQuietTimers s
  let s := onChange old (·.fileIdleCode) compareIdleTimers s
  let s := onChange old (·.activeCode) comparePhase s
  let s := onChange old (·.restCode) comparePhase s
  let s := onChange old (·.patrolCode) comparePatrolTimer s
  moveOnward (evalPressure s)

/-- SET_CONFIG taken by CL (R175, R176). A credit update that clearing pressure places (R26) is queued before the response (log entry 9). -/
def serveSetConfig (tag epoch : Nat) (els : List (Nat × Nat)) (s : State) : State :=
  if refusedElements els then respond tag epoch Status.valueRange [] s
  else
    let old := s.settingValues
    let clamped := clampedList old els
    let s1 := allClasses.foldl (fun s c => namedRetention els c s) (putSettings (valuesAfter old els) s)
    respond tag epoch Status.ok (be 2 clamped.length ++ clamped.flatMap (be 1)) (settingEffects s.cl.settings s1)

/-! ## The image -/

/-- The check of an image: CRC-32 over the format number and the settings, 4 bytes each (10.3). DESIGN CHOICE: the spec gives no byte order for
the EEPROM; each setting enters most significant byte first (log entry 38). -/
def imageCheck (format : Nat) (values : List Nat) : Nat := crc32 (be 1 format ++ values.flatMap (be 4))

/-- R178: the image read without fault is valid. -/
def ConfigImage.valid (i : ConfigImage) : Bool :=
  i.marker && i.format == 1 && i.settings.length == 23 && i.check == imageCheck i.format i.settings

/-- SAVE_CONFIG taken by CL: the copy is made and step 1 begins (R177). -/
def serveSaveConfig (tag epoch : Nat) (s : State) : State :=
  s.mapCl fun c => { c with saving := some { step := 1, copied := s.settingValues, tag := tag, epoch := epoch } }

/-- CL becomes IDLE and answers the save (R177). -/
def endSave (v : Saving) (status : Nat) (s : State) : State :=
  respond v.tag v.epoch status [] (s.mapCl fun c => { c with saving := none })

/-- A save step whose write ends without fault puts its fields in the EEPROM (R177). -/
def ConfigImage.written (v : Saving) (i : ConfigImage) : ConfigImage :=
  if v.step = 1 then { i with marker := false }
  else if v.step = 2 then { i with format := 1, settings := v.copied, check := imageCheck 1 v.copied }
  else { i with marker := true }

/-- R177: a write completion from the EEPROM. -/
def eepromCompleted (fault : Bool) (s : State) : State :=
  match s.cl.saving with
  | none => s
  | some v =>
    if fault then endSave v Status.saveFailed s
    else
      let s := s.mapCl fun c => { c with image := c.image.written v }
      if 3 ≤ v.step then endSave v Status.ok s else s.mapCl fun c => { c with saving := some { v with step := v.step + 1 } }

/-- CL is ready for its next request while it is IDLE (R177). -/
def State.loaderReady (s : State) : Bool := s.cl.saving.isNone

/-! ## RESET -/

/-- RESET taken by CL: its OK response starts the warm reset when it is sent (R180). -/
def serveReset (tag epoch : Nat) (s : State) : State :=
  if epoch = s.lp.epoch then
    enqueue { tag := tag, status := Status.ok, payload := [], riders := 0, startsReset := true } s
  else s

end Sys2Proof.Machine
end

