-- ==== Sys2Proof/Machine/Settle.lean ====
section
/-! DEFINITION. What follows within an event: the partitions' wait queues are served (R52), QA and CL each take one request (R31, R84, R177),
RU starts a sweep (R137), pressure is evaluated (R170), IE ends its drain and takes its next entry (R62) and WA grants the engine quantum
(R167), until none of these can go on. -/

namespace Sys2Proof.Machine

/-! ## Wait queues -/

/-- The head of a partition's wait queue that can proceed (R52). -/
def Partition.servable (p : Partition) : Option Waiter :=
  match p.waitQueue with
  | [] => none
  | w :: _ =>
    if p.moverHolding then none
    else if w.isMover then if p.pins = 0 then some w else none
    else if p.pins < Config.pinLimit then some w else none

/-- A waiter leaves the head of the queue with a pin, or holding the partition as a mover (R50 to R52). -/
def Partition.grantHead (w : Waiter) (p : Partition) : Partition :=
  let p := p.withQueue p.waitQueue.tail
  if w.isMover then { p with moverHolding := true } else { p with pins := p.pins + 1 }

/-- What a granted reader or an admitted mover does at that event. -/
def waiterProceeds (w : Waiter) (s : State) : State :=
  match w with
  | .query c => queryPinned c s
  | .ingest => ingestPinned s
  | .scan n => scanPinned n s
  | .patrol => patrolPinned s
  | .job => switchOver s
  | .move c => moveAdmitted c s
  | .sweep => sweepAdmitted s

/-- R52: serves the wait queue of the lowest day whose head can proceed. -/
def serveWaiters (s : State) : Option State :=
  match s.pc.parts.findSome? fun e => e.2.servable.map fun w => (e.1, w) with
  | some (d, w) => some (waiterProceeds w (updPart d (Partition.grantHead w) s))
  | none => none

/-! ## The input frame buffer -/

/-- What QA and CL do with a request they take (2.8); the requests of the other blocks do not wait in the buffer (R31). -/
def serveWaiting (p : Params) (tag epoch : Nat) (s : State) : State :=
  match p with
  | .fetch ref => takeFetch tag epoch ref s
  | .querySubscriber q => takeSubscriber tag epoch q s
  | .amend a => takeAmend tag epoch a s
  | .setConfig els => serveSetConfig tag epoch els s
  | .saveConfig => serveSaveConfig tag epoch s
  | .reset => serveReset tag epoch s
  | _ => s

/-- What the serving block of a request does with it at its acceptance, when it takes it there (2.8, R31). -/
def serveParams (p : Params) (tag epoch : Nat) (s : State) : State :=
  match p with
  | .setTime t => serveSetTime tag epoch t s
  | .closeDay d => serveCloseDay tag epoch d s
  | .setRetention c days now => serveSetRetention tag epoch c days now s
  | .placeHold h => servePlaceHold tag epoch h s
  | .releaseHold id => serveReleaseHold tag epoch id s
  | .listHolds => serveListHolds tag epoch s
  | .readStatus clear => serveReadStatus tag epoch clear s
  | .readCounters bank => serveReadCounters tag epoch bank s
  | .clearCounters => serveClearCounters tag epoch s
  | .partitionInfo d i => servePartitionInfo tag epoch d i s
  | .readAccount source d => serveReadAccount tag epoch source d s
  | .auditScan f => serveAuditScan tag epoch f s
  | .verifyDays a b => serveVerifyDays tag epoch a b s
  | .cancel t => serveCancel tag epoch t s
  | p => serveWaiting p tag epoch s

/-- A serving block is ready for its next request (R31, R84, R177). -/
def State.ready (s : State) : Server → Bool
  | .queryUnit => s.queryReady
  | .loader => s.loaderReady
  | .ready => true

/-- A request waits in the input frame buffer for a serving block (R31). -/
def State.waits (s : State) (v : Server) : Bool := s.lp.buffer.any fun b => b.kind.server == v

/-- A serving block takes a request: its credit becomes pending and the block serves it (R25, R31). -/
def takeRequest (b : BufferedRequest) (s : State) : State :=
  serveWaiting b.params b.tag b.epoch (creditsPending (b.pool.credits 0) s)

/-- R31: a ready block takes the oldest request that waits for it. -/
def takeWaiting (v : Server) (s : State) : Option State :=
  if s.ready v then
    match s.lp.buffer.find? fun b => b.kind.server == v with
    | some b =>
      some (takeRequest b (s.mapLp fun l => { l with buffer := l.buffer.eraseP fun b => b.kind.server == v }))
    | none => none
  else none

/-! ## Settling -/

/-- What is still open in an event: QA and CL each take one request of the buffer at an event (R31), and the grant decision falls at the first
placing at an IDLE engine, but at a completion after everything that the completion leads to (R167). -/
structure Turn where
  queryUnit : Bool
  loader : Bool
  completion : Bool
deriving DecidableEq, Repr

/-- An event at its beginning that is no completion of a quantum. -/
def Turn.placing : Turn := { queryUnit := true, loader := true, completion := false }

/-- The completion of a quantum at its beginning. -/
def Turn.completing : Turn := { queryUnit := true, loader := true, completion := true }

/-- A grant decision; requests and queue entries that one action makes compete in it (log entry 36). A quantum that completes at its grant
makes the rest of the event a completion; one that runs ends the decisions of the event (R163, R167). DESIGN CHOICE: what a completion at a
grant leads to is settled after it, with another evaluation of pressure where it changes the free slot count (log entry 35). -/
def grantTurn (u : Turn) (s : State) : Option (Turn × State) := (grantEngine s).map fun t => ({ u with completion := true }, t)

/-- The next action of an event but for the grants (log entry 2 gives the order among them). Pressure is evaluated once nothing is left that
could change the free slot count (R170), and a drain ends after that, since its frame credit is withheld from the event that sets pressure on
(R26, R171; log entry 35). -/
def blockTurn (u : Turn) (s : State) : Option (Turn × State) :=
  let on (v : Turn) (a : Option State) : Option (Turn × State) := a.map fun t => (v, t)
  (on u (serveWaiters s)).orElse fun _ =>
    (if u.queryUnit then on { u with queryUnit := false } (takeWaiting .queryUnit s) else none).orElse fun _ =>
    (if u.loader then on { u with loader := false } (takeWaiting .loader s) else none).orElse fun _ =>
    (on u (startSweep s)).orElse fun _ => (on u (pressureTurn s)).orElse fun _ => (on u (drainEnds s)).orElse fun _ => on u (beginDrain s)

/-- The next action that an event leads to, where there is one, and what is then still open. At a completion pressure has been evaluated when
a grant decision falls, since its levels rest on pressure (R167, R171). A QUERY, SCAN, VERIFY, PATROL or REPACK quantum that completes at this
grant may release a pin or a partition, and a switch-over or a move that this admits changes the free slot count; R170 does not say how an
evaluation made for the grant and the event's whole effect then go together. DESIGN CHOICE: pressure is evaluated before the grant on the
count that it finds, and again after it on the count that its effects leave. At an event that is no completion, DESIGN CHOICE: a grant
decision comes before this evaluation of pressure, at the levels that the pressure before it gives: where a pin release (CANCEL, a link reset)
admits a switch-over that frees the job context and would clear pressure, the day at the head of the pack or repack queue is granted at level
0 even in REST, and pressure is cleared after it (log entry 35). -/
def internal (u : Turn) (s : State) : Option (Turn × State) :=
  if u.completion then (blockTurn u s).orElse fun _ => grantTurn u s else (grantTurn u s).orElse fun _ => blockTurn u s

/-- At most n of the actions an event leads to. -/
def settleWithin : Nat → Turn → State → State
  | 0, _, s => s
  | n + 1, u, s =>
    match internal u s with
    | some (v, t) => settleWithin n v t
    | none => s

/-- Every action that an event leads to, while the blocks take events (R179, R180; log entry 14). DESIGN CHOICE: a patrol step that its timer
begins during a warm reset has its pin and its quantum granted from WARM_RESET_END on (R35, R161, R162; log entry 40). -/
def settleFrom (u : Turn) (s : State) : State := if s.active then settleWithin Config.settleBound u s else s

/-- The end of an event that is no completion of a quantum. -/
def settle : State → State := settleFrom Turn.placing

/-- The end of a completion: the requests that it places compete with those that waited (R167). -/
def settleCompletion : State → State := settleFrom Turn.completing

end Sys2Proof.Machine
end

