-- ==== Sys2Proof/Machine/Power.lean ====
section
/-! DEFINITION. Start-up with its two paths (R56, R57, R107, R124, R142, R148, R173, R178, R179), warm reset (R56, R79, R100, R124, R142, R152,
R158, R161, R172, R180), link reset (R28, R78, R91, R158) and loss of node power (R35, R58, R177). -/

namespace Sys2Proof.Machine

/-! ## Cleaning the tables -/

/-- R56: a partition at a warm reset or a RESUME start-up, its expiry-due flags cleared too (R142). -/
def Partition.cleaned (p : Partition) : Partition :=
  { p with
    state := (match p.state with | .packing => .quiet | .repacking => .packed | st => st)
    quietElapsed := if p.state = .opened then 0 else p.quietElapsed
    quietExpired := if p.state = .opened then false else p.quietExpired
    pins := 0, moverHolding := false, moverWaiting := false, waitQueue := [], expiryDue := PerClass.all false }

/-- A fresh Work Arbiter with the pressure state given (R172, R173). -/
def freshArbiter (pressure : Bool) : WorkArbiter :=
  { engine := none, requests := PerKind.all [], packQueue := [], repackQueue := [], pointers := List.replicate 4 none,
    phase := .active, elapsed := 0, pressure := pressure }

/-- Every query context and Amend-in-Flight entry free, and every scan slot, with no sweep and no job (R84, R100, R124, R142, R158). -/
def clearWork (s : State) : State :=
  let s := s.mapQa fun _ => { contexts := [], inFlight := [] }
  let s := s.mapRu fun r => { r with queue := [], sweep := none }
  let s := s.mapCe fun _ => { job := none, coldFull := false, coldWait := [] }
  s.mapAu fun a =>
    { a with slots := [], cursorDay := 0, cursorPlace := 0, patrolElapsed := 0, patrol := none, current := zeroBank,
             previous := zeroBank, captureDay := none }

/-- R56, R124: the pack queue receives every QUIET partition and the repack queue every PACKED one for which a repack test holds, in
ascending day order. -/
def rebuildQueues (s : State) : State :=
  s.mapWa fun w =>
    { w with
      packQueue := Tab.keysWhere s.pc.parts fun _ p => decide (p.state = .quiet)
      repackQueue := Tab.keysWhere s.pc.parts fun _ p => decide (p.state = .packed) && (s.hotTest p || s.sparseTest p) }

/-! ## Warm reset -/

/-- The contexts of the File Context Table FREE, each keeping its generation, and the Batch Queue and Staging Buffer empty (R79). -/
def clearIngest (s : State) : State :=
  s.mapIe fun e => { contexts := e.contexts.map fun c => { c with file := none }, queue := [], drain := none }

/-- The job in the context is abandoned as a failure would unwind it (R124). -/
def abandonJob (s : State) : State :=
  match s.ce.job with
  | some j => unwindJob j s
  | none => s

/-- The event at which a warm reset begins (R180). -/
def beginWarmReset (s : State) : State :=
  let aborted := s.openContexts
  let s := clearWork (abandonJob s)
  let s := clearIngest (mapParts (fun _ p => p.cleaned) s)
  let s := s.mapWa fun w => freshArbiter w.pressure
  let s := s.mapCl fun c => { c with saving := none }
  let s := s.mapLp LinkPort.restart
  countUp .filesAborted aborted (s.mapPower fun p => { p with warmReset := true })

/-- R180: a warm reset can end once the RESET input is released. -/
def State.warmResetDone (s : State) : Bool := s.power.powered && s.power.warmReset && !s.power.resetPin

/-- The end of a warm reset: the owners rebuild their queues, pressure is re-evaluated, and a full pass runs when the clock is set
(R56, R124, R142, R172). The entries of the two queues then compete for the engine (log entry 36). -/
def endWarmReset (s : State) : State :=
  let s := rebuildQueues (s.mapPower fun p => { p with warmReset := false })
  fullPass (moveOnward (evalPressure s))

/-! ## Link reset -/

/-- R91, R158: QA and AU end what a link reset ends, each at its next boundary. -/
def signalLinkReset (s : State) : State :=
  let s := s.au.slots.foldl (fun s e => cancelSlot e.1 e.2 s) s
  s.qa.contexts.foldl (fun s e => if e.2.isSubscriber then cancelSubscriber e.1 e.2 s else s) s

/-- R28: a link reset; where it drops the OK response of a RESET request, the warm reset begins at its event (R180). -/
def linkReset (s : State) : State :=
  if s.lp.outQueue.any (·.startsReset) then beginWarmReset s else signalLinkReset (s.mapLp LinkPort.restart)

/-! ## Loss of power and start-up -/

/-- The Link Port at power-on (R30); the record of frames sent is the model's own and stays. -/
def LinkPort.atPowerOn (l : LinkPort) : LinkPort :=
  { link := .resetting, epoch := 0, tags := [], inUse := Credits.zero, withheld := 0, due := Credits.zero, buffer := [],
    outQueue := [], wire := l.wire }

/-- Transient state at power-on, on either path (R30, R37, R58, R84, R115, R152, R153, R160, R161, R173). -/
def transientAtPowerOn (s : State) : State :=
  let s := clearWork s
  let s := s.mapIe fun _ =>
    { contexts := List.replicate Config.fileContexts { generation := 0, file := none }, queue := [], drain := none }
  let s := s.mapWa fun _ => freshArbiter false
  let s := s.mapAu fun a => { a with damageFound := false }
  let s := s.mapCl fun c => { c with saving := none }
  let s := s.mapCk fun k => { k with clockSet := false }
  s.mapLp LinkPort.atPowerOn

/-- Loss of node power: transient state is lost, and archive state, archive time, the rollover day and the image are held (R35, R177). -/
def losePower (s : State) : State :=
  (transientAtPowerOn (s.mapCk fun k => { k with tick := 0 })).mapPower fun p =>
    { p with powered := false, startUp := none, warmReset := false }

/-- R178: the 23 values that the load puts in force, clamped as SET_CONFIG clamps, and where they came from. -/
def loadedValues (fault : Bool) (i : ConfigImage) : List Nat × ConfigSource :=
  if !fault && i.valid then (valuesAfter defaultValues (i.settings.zipIdx.map fun e => (e.2 + 1, e.1)), .image)
  else (defaultValues, .defaults)

/-- A used slot to which no map entry points (R124). -/
def State.strandedSlot (s : State) (n : Nat) (r : CallRecord) : Bool :=
  match s.lookup r.ref with
  | some e => decide (e.loc ≠ .hot n)
  | none => true

/-- R124: HS releases every used slot to which no map entry points, each lowering the hot count of its record's day. -/
def releaseStranded (s : State) : State :=
  let lost := Tab.keep s.hs.slots s.strandedSlot
  let s1 := mapParts (fun d p => { p with hotCount := p.hotCount - Tab.count lost fun _ r => decide (r.day = d) }) s
  lost.foldl (fun s e => releaseSlot e.1 s) s1

/-- R107: every WRITING entry becomes FREE. -/
def freeWriting (s : State) : State :=
  s.mapCs fun c =>
    { dir := Tab.keep c.dir fun _ e => decide (e.state ≠ .writing)
      bodies := Tab.keep c.bodies fun n _ => match Tab.get c.dir n with | some e => decide (e.state ≠ .writing) | none => false }

/-- The RESUME path (R56, R107, R124, R142, R173, R179). The entries of the two queues then compete for the engine (log entry 36). -/
def resume (s : State) : State :=
  let s := mapParts (fun _ p => p.cleaned) (releaseStranded (freeWriting s))
  let s := rebuildQueues s
  moveOnward (s.mapWa fun w => { w with pressure := decide (s.freeSlots < s.cl.settings.lowWatermark) })

/-- The INITIALISE path, with the loaded retention (R57, R83, R101, R107, R125, R142, R148, R179). -/
def initialise (values : List Nat) (s : State) : State :=
  let both (n : Nat) : Retention := { active := values.getD (n - 1) 0, pending := values.getD (n - 1) 0 }
  let s := s.mapPc fun _ => { parts := [] }
  let s := s.mapIx fun _ => { map := [], signatureValid := true }
  let s := s.mapHs fun _ => { slots := [] }
  let s := s.mapCs fun _ => { dir := [], bodies := [] }
  let s := s.mapAu fun a => { a with accounts := [] }
  let s := s.mapRu fun r =>
    { r with holds := [], table := { voice := both 20, message := both 21, data := both 22, other := both 23 } }
  s.mapCk fun k => { k with archiveTime := 0, rolloverDay := 0 }

/-- R179: a DRAM whose content was lost while the card was without power does not hold the archive signature, from then until an INITIALISE
writes it. -/
def dramFound (lost : Bool) (s : State) : State := s.mapIx fun x => { x with signatureValid := x.signatureValid && !lost }

/-- Start-up, from the load of the settings to its end (R178, R179); a RESET input asserted meanwhile is found asserted at its end. -/
def runStartUp (u : StartUp) (s : State) : State :=
  let (values, source) := loadedValues u.eepromFault s.cl.image
  let s := putSettings values (transientAtPowerOn s)
  let s := s.mapCl fun c => { c with source := source }
  let s := if s.ix.signatureValid then resume s else initialise values s
  s.mapPower fun p => { p with startUp := none, resetPin := p.resetPin || u.resetDuring }

end Sys2Proof.Machine
end

