-- ==== Sys2Proof/Machine/Frames.lean ====
section
/-! DEFINITION. How a request frame reaches its serving block: served at its acceptance, or waiting in the input frame buffer, or queued in
the Batch Queue (R20, R31, R61), and the well-formedness of a frame given byte by byte (R13). -/

namespace Sys2Proof.Machine

open Wire

/-- A CONTROL or QUERY request whose block takes it at its acceptance (R20, R25, R31). -/
def served (k : Kind) (r : Request) (s : State) : State :=
  arrive k.code k.cls r (fun pool s =>
    match checkedParams k r with
    | none => answerMalformed r.tag.toNat pool s
    | some p => serveParams p r.tag.toNat s.lp.epoch (creditsPending (pool.credits 0) s)) s

/-- A request of QA or CL: it is taken at its acceptance when its block is ready and none waits before it, and else waits in the input
frame buffer, holding its credit (R20, R31). -/
def servedOrWaiting (k : Kind) (r : Request) (s : State) : State :=
  if s.ready k.server && !s.waits k.server then served k r s
  else
    arrive k.code k.cls r (fun pool s =>
      match checkedParams k r with
      | none => answerMalformed r.tag.toNat pool s
      | some p =>
        s.mapLp fun l =>
          { l with buffer := l.buffer ++ [{ kind := k, tag := r.tag.toNat, epoch := l.epoch, pool := pool, params := p }] }) s

/-- The Batch Queue entry of an INGEST request (R61). -/
def batchEntry (k : Kind) (r : Request) (epoch : Nat) : BatchEntry :=
  { kind := k, tag := r.tag.toNat, ctx := r.ctx.toNat, gen := r.gen.toNat, rsv := r.rsv.toNat, epoch := epoch, payload := r.payload }

/-- R61: the acceptance of a RECORDS entry restarts the idle timer of the OPEN context it names by id and generation. -/
def restartIdle (e : BatchEntry) (s : State) : State :=
  if e.kind = .records then
    updContext e.ctx (fun c => if c.generation = e.gen then { c with file := c.file.map fun f => { f with idle := 0 } } else c) s
  else s

/-- An entry joins the tail of the Batch Queue (R61). -/
def enqueueBatch (e : BatchEntry) (s : State) : State := s.mapIe fun q => { q with queue := q.queue ++ [e] }

/-- An INGEST request: at its acceptance it joins the Batch Queue (R20, R61). -/
def queued (k : Kind) (r : Request) (s : State) : State :=
  arrive k.code k.cls r (fun _ s => restartIdle (batchEntry k r s.lp.epoch) (enqueueBatch (batchEntry k r s.lp.epoch) s)) s

/-- R13, R15: a delimited frame that is well formed, as its kind code and the request it carries. -/
def readFrame (bs : Bytes) : Option (Nat × Request) :=
  if bs.length < 12 ∨ Config.payloadLimit < field bs 2 2 ∨ bs.length ≠ 12 + field bs 2 2 ∨ 64 ≤ field bs 1 1
      ∨ crc32 (bs.take (bs.length - 4)) ≠ field bs (bs.length - 4) 4 then none
  else
    some (field bs 0 1,
      { tag := BitVec.ofNat 8 (field bs 1 1), ctx := BitVec.ofNat 8 (field bs 4 1), gen := BitVec.ofNat 8 (field bs 5 1),
        rsv := BitVec.ofNat 16 (field bs 6 2), payload := (bs.drop 8).take (field bs 2 2) })

/-- The bytes of a request frame (1.4, R15). -/
def requestBytes (code : Nat) (r : Request) : Bytes :=
  let body := be 1 code ++ [r.tag] ++ be 2 r.payload.length ++ [r.ctx, r.gen] ++ be 2 r.rsv.toNat ++ r.payload
  body ++ be 4 (crc32 body)

end Sys2Proof.Machine
end

