-- ==== Sys2Proof/Machine/EventCommands.lean ====
section
/-! DEFINITION. The meanings of the timer, engine and power events. An event that cannot fall in a state has no effect there (log entry 6). -/

namespace Sys2Proof.Machine

/-! ## The clock and its timers -/

/-- A second event: archive time, HOT_SLOT_SECONDS, the timers, and the day rollover where one is due (R35, R39, R45, R76, R150, R161);
what the second adds to the counters is in the rollover's capture (log entry 10). -/
def secondEvent (s : State) : State :=
  let s := countUp .hotSlotSeconds s.hs.slots.length (s.mapCk fun k => { k with archiveTime := k.archiveTime + 1 })
  let s := if s.ck.clockSet then advanceQuietTimers 1 s else s
  let s := advancePatrolTimer (advanceIdleTimers s)
  moveOnward (if s.rolloverDue then rollover s else s)

/-- SECOND_EVENT: none is raised once archive time has stopped (R35). -/
def execSecondEvent (s : State) : Result :=
  if s.running ∧ s.ck.archiveTime < Config.timeLimit then .next (settle (secondEvent s)) else .next s

/-- QUIET_TIMER_EXPIRY of a partition whose running timer has reached its interval (R40, R45, R47). -/
def execQuietTimerExpiry (day : Nat) (s : State) : Result :=
  if s.running then .next (settle (moveOnward (updPart day (Partition.expireQuiet s.cl.settings.quietCode) s))) else .next s

/-- FILE_IDLE_EXPIRY of an OPEN context whose timer has reached its interval (R76). -/
def execFileIdleExpiry (ctx : Nat) (s : State) : Result :=
  match s.ie.contexts[ctx]? with
  | some c =>
    if c.idleDue s.cl.settings.fileIdleCode then .next (settle (countUp .filesTimedOut 1 (freeContext ctx s))) else .next s
  | none => .next s

/-- PATROL_TIMER_EXPIRY of a timer that has reached its interval with no step in progress: a step begins (R161, R162). -/
def execPatrolTimerExpiry (s : State) : Result := if s.running then .next (settle (comparePatrolTimer s)) else .next s

/-- MILLISECOND_TICK: it runs from power-on without interruption, and the throttle window counts it (R36, R168). -/
def execMillisecondTick (s : State) : Result :=
  if s.running then .next (settle (tickPhase (s.mapCk fun k => { k with tick := k.tick + 1 })))
  else if s.power.powered then .next (s.mapCk fun k => { k with tick := k.tick + 1 })
  else .next s

/-- THROTTLE_PHASE_END of a phase that has reached its length (R168, R169). -/
def execThrottlePhaseEnd (s : State) : Result := if s.running then .next (settle (comparePhase s)) else .next s

/-! ## Engine and device completions -/

/-- SORT_END (R116). -/
def execSortEnd (s : State) : Result := .next (settleCompletion (sortCompleted s))

/-- WRITE_COMPLETION (R105, R117, R119). -/
def execWriteCompletion (fault : Bool) (s : State) : Result := .next (settleCompletion (writeEnded fault s))

/-- DECODE_COMPLETION (R106). -/
def execDecodeCompletion (read : ReadResult) (s : State) : Result := .next (settleCompletion (decodeCompleted read s))

/-- READ_COMPLETION (R159, R162). -/
def execReadCompletion (read : ReadResult) (s : State) : Result := .next (settleCompletion (checkCompleted read s))

/-- SWEEP_DECISION (R138 to R141). -/
def execSweepDecision (s : State) : Result := .next (settleCompletion (sweepEvent s))

/-- EEPROM_WRITE_COMPLETION (R177). -/
def execEepromWriteCompletion (fault : Bool) (s : State) : Result := .next (settle (eepromCompleted fault s))

/-! ## Power and pins -/

/-- POWER_ON: start-up begins, and waits at its beginning while the RESET input is asserted; a content that the DRAM has lost stays lost while
it waits, and through a further loss of power (R178, R179). -/
def execPowerOn (eepromFault : Bool) (node : NodeStart) (s : State) : Result :=
  if s.power.powered then .next s
  else
    let u : StartUp := { eepromFault := eepromFault, resetDuring := node.resetDuring }
    let s := (dramFound node.dramLost s).mapPower fun p => { p with powered := true, startUp := some u, warmReset := false }
    if s.power.resetPin then .next s else .next (settle (runStartUp u s))

/-- RESET_PIN_ASSERT: a warm reset begins, unless one or a start-up is in progress or the input is asserted already (R179, R180). -/
def execResetPinAssert (s : State) : Result :=
  let asserted := s.mapPower fun p => { p with resetPin := true }
  if s.active ∧ s.power.resetPin = false then .next (beginWarmReset asserted) else .next asserted

/-- RESET_PIN_RELEASE: a start-up that waits proceeds, and a HELLO that waits after a start-up may be sent (R179); a warm reset may end
(R180). -/
def execResetPinRelease (s : State) : Result :=
  let released := s.mapPower fun p => { p with resetPin := false }
  match s.power.startUp with
  | some u => if s.power.powered then .next (settle (runStartUp u released)) else .next released
  | none => .next (settle released)

/-- WARM_RESET_END: every block has finished its warm-reset work; it falls once the RESET input is released (R180). -/
def execWarmResetEnd (s : State) : Result := if s.warmResetDone then .next (settle (endWarmReset s)) else .next s

/-- LOSS_OF_NODE_POWER (R35, R58, R177). -/
def execLossOfNodePower (s : State) : Result := if s.power.powered then .next (losePower s) else .next s

end Sys2Proof.Machine
end

