-- ==== Sys2Proof/Machine/ControlCommands.lean ====
section
/-! DEFINITION. The meanings of the CONTROL kinds. The arrival of a request is an event, and every event ends with settle. -/

namespace Sys2Proof.Machine

/-- SET_TIME (R38). -/
def execSetTime (r : Request) (s : State) : Result := .next (settle (served .setTime r s))

/-- CLOSE_DAY (R44). -/
def execCloseDay (r : Request) (s : State) : Result := .next (settle (served .closeDay r s))

/-- SET_RETENTION (R126). -/
def execSetRetention (r : Request) (s : State) : Result := .next (settle (served .setRetention r s))

/-- PLACE_HOLD (R131). -/
def execPlaceHold (r : Request) (s : State) : Result := .next (settle (served .placeHold r s))

/-- RELEASE_HOLD (R132). -/
def execReleaseHold (r : Request) (s : State) : Result := .next (settle (served .releaseHold r s))

/-- LIST_HOLDS (R133). -/
def execListHolds (r : Request) (s : State) : Result := .next (settle (served .listHolds r s))

/-- SET_CONFIG (R175, R176). -/
def execSetConfig (r : Request) (s : State) : Result := .next (settle (servedOrWaiting .setConfig r s))

/-- SAVE_CONFIG (R177). -/
def execSaveConfig (r : Request) (s : State) : Result := .next (settle (servedOrWaiting .saveConfig r s))

/-- READ_STATUS (R33). -/
def execReadStatus (r : Request) (s : State) : Result := .next (settle (served .readStatus r s))

/-- READ_COUNTERS (R151). -/
def execReadCounters (r : Request) (s : State) : Result := .next (settle (served .readCounters r s))

/-- CLEAR_COUNTERS (R152). -/
def execClearCounters (r : Request) (s : State) : Result := .next (settle (served .clearCounters r s))

/-- PARTITION_INFO (R54). -/
def execPartitionInfo (r : Request) (s : State) : Result := .next (settle (served .partitionInfo r s))

/-- RESET (R180). -/
def execReset (r : Request) (s : State) : Result := .next (settle (servedOrWaiting .reset r s))

/-- LINK_RESET: once well formed, its tag, payload and context bytes are disregarded (R12, R19, R20, R28). -/
def execLinkReset (r : Request) (s : State) : Result :=
  match s.lp.link with
  | .resetting => .next (settle s)
  | .opened => .next (settle (if frameWellFormed r then linkReset s else notice Status.frameCheck [] s))

end Sys2Proof.Machine
end

