-- ==== Sys2Proof/Machine/IngestCommands.lean ====
section
/-! DEFINITION. The meanings of the INGEST kinds and of a record event. -/

namespace Sys2Proof.Machine

/-- FILE_OPEN, decided at its drain (R59, R61). -/
def execFileOpen (r : Request) (s : State) : Result := .next (settle (queued .fileOpen r s))

/-- RECORDS, checked whole at its drain and then decided one record event at a time (R60 to R62). -/
def execRecords (r : Request) (s : State) : Result := .next (settle (queued .records r s))

/-- FILE_CLOSE, decided at its drain (R74). -/
def execFileClose (r : Request) (s : State) : Result := .next (settle (queued .fileClose r s))

/-- FILE_ABORT, decided at its drain (R75). -/
def execFileAbort (r : Request) (s : State) : Result := .next (settle (queued .fileAbort r s))

/-- RECORD_EVENT: one record of the drain in progress is decided (R63 to R73). -/
def execRecordEvent (s : State) : Result := .next (settle (decideNext s))

end Sys2Proof.Machine
end

