-- ==== Sys2Proof/Machine/QueryCommands.lean ====
section
/-! DEFINITION. The meanings of the QUERY kinds. -/

namespace Sys2Proof.Machine

/-- FETCH (R85, R86). -/
def execFetch (r : Request) (s : State) : Result := .next (settle (servedOrWaiting .fetch r s))

/-- QUERY_SUBSCRIBER (R87 to R90). -/
def execQuerySubscriber (r : Request) (s : State) : Result := .next (settle (servedOrWaiting .querySubscriber r s))

/-- AMEND (R92 to R97). -/
def execAmend (r : Request) (s : State) : Result := .next (settle (servedOrWaiting .amend r s))

/-- READ_ACCOUNT (R147). -/
def execReadAccount (r : Request) (s : State) : Result := .next (settle (served .readAccount r s))

/-- AUDIT_SCAN (R153 to R156). -/
def execAuditScan (r : Request) (s : State) : Result := .next (settle (served .auditScan r s))

/-- VERIFY_DAYS (R159). -/
def execVerifyDays (r : Request) (s : State) : Result := .next (settle (served .verifyDays r s))

/-- CANCEL (R157). -/
def execCancel (r : Request) (s : State) : Result := .next (settle (served .cancel r s))

end Sys2Proof.Machine
end

