-- ==== Sys2Proof/Machine/LinkCommands.lean ====
section
/-! DEFINITION. The meanings of the link's own events: lane lock, HELLO, the sending of a frame, a frame given byte by byte, and a frame of an
unknown kind. -/

namespace Sys2Proof.Machine

/-- LANE_LOCK_LOSS: a link reset in OPEN; in RESETTING it only holds the state there (R19, R28). -/
def execLaneLockLoss (s : State) : Result :=
  let lost := s.mapPower fun p => { p with laneLock := false }
  match s.lp.link with
  | .resetting => .next (settle lost)
  | .opened => .next (settle (linkReset lost))

/-- LANE_LOCK_RETURN (R19). -/
def execLaneLockReturn (s : State) : Result := .next (settle (s.mapPower fun p => { p with laneLock := true }))

/-- HELLO, sent when the conditions of R19 hold (R19, R29). -/
def execHello (s : State) : Result := if s.helloDue then .next (settle (sendHello s)) else .next s

/-- FRAME_SEND: the next frame is sent; the OK response of a RESET request begins the warm reset (R24, R25, R180). -/
def execFrameSend (s : State) : Result :=
  match s.lp.outQueue with
  | [] => .next s
  | f :: rest => if f.startsReset then .next (beginWarmReset (sendHead f rest s)) else .next (settle (sendHead f rest s))

/-- A frame of an unknown kind code: a CONTROL request answered MALFORMED_REQUEST (R12, R20). -/
def answerUnknown (code : Nat) (r : Request) : State → State := arrive code .control r fun pool s => answerMalformed r.tag.toNat pool s

/-- A well-formed frame goes to the arrival of the kind its code names (R20). -/
def deliver (code : Nat) (r : Request) (s : State) : Result :=
  match kindOfCode code with
  | none => .next (settle (answerUnknown code r s))
  | some .setTime => execSetTime r s
  | some .closeDay => execCloseDay r s
  | some .setRetention => execSetRetention r s
  | some .placeHold => execPlaceHold r s
  | some .releaseHold => execReleaseHold r s
  | some .listHolds => execListHolds r s
  | some .setConfig => execSetConfig r s
  | some .saveConfig => execSaveConfig r s
  | some .readStatus => execReadStatus r s
  | some .readCounters => execReadCounters r s
  | some .clearCounters => execClearCounters r s
  | some .partitionInfo => execPartitionInfo r s
  | some .reset => execReset r s
  | some .linkReset => execLinkReset r s
  | some .fileOpen => execFileOpen r s
  | some .records => execRecords r s
  | some .fileClose => execFileClose r s
  | some .fileAbort => execFileAbort r s
  | some .fetch => execFetch r s
  | some .querySubscriber => execQuerySubscriber r s
  | some .amend => execAmend r s
  | some .readAccount => execReadAccount r s
  | some .auditScan => execAuditScan r s
  | some .verifyDays => execVerifyDays r s
  | some .cancel => execCancel r s

/-- FRAME_CHECK: a delimited frame byte by byte. In OPEN one that is not well formed is discarded with the notice, and a well-formed one
goes on as its kind; in RESETTING it is discarded without notice (R13, R19, R20, R27). -/
def execFrameCheck (frame : Bytes) (s : State) : Result :=
  match s.lp.link with
  | .resetting => .next (settle s)
  | .opened =>
    match readFrame frame with
    | none => .next (settle (notice Status.frameCheck [] s))
    | some (code, r) => deliver code r s

/-- UNKNOWN_KIND: a frame whose kind code is absent from the table (R12); one whose code is in the table arrives as that kind. -/
def execUnknownKind (code : Byte) (r : Request) (s : State) : Result := deliver code.toNat r s

end Sys2Proof.Machine
end

