-- ==== Sys2Proof/Machine/Dispatch.lean ====
section
/-! DEFINITION. One arm for each command. -/

namespace Sys2Proof.Machine

def exec (i : Instr) (s : State) : Host.Outcome State Fault Refusal :=
  match i with
  | .powerOn a b => Sys2Proof.Machine.execPowerOn a b s
  | .resetPinAssert => Sys2Proof.Machine.execResetPinAssert s
  | .resetPinRelease => Sys2Proof.Machine.execResetPinRelease s
  | .warmResetEnd => Sys2Proof.Machine.execWarmResetEnd s
  | .laneLockLoss => Sys2Proof.Machine.execLaneLockLoss s
  | .laneLockReturn => Sys2Proof.Machine.execLaneLockReturn s
  | .hello => Sys2Proof.Machine.execHello s
  | .frameSend => Sys2Proof.Machine.execFrameSend s
  | .frameCheck frame => Sys2Proof.Machine.execFrameCheck frame s
  | .unknownKind code r => Sys2Proof.Machine.execUnknownKind code r s
  | .setTime r => Sys2Proof.Machine.execSetTime r s
  | .closeDay r => Sys2Proof.Machine.execCloseDay r s
  | .setRetention r => Sys2Proof.Machine.execSetRetention r s
  | .placeHold r => Sys2Proof.Machine.execPlaceHold r s
  | .releaseHold r => Sys2Proof.Machine.execReleaseHold r s
  | .listHolds r => Sys2Proof.Machine.execListHolds r s
  | .setConfig r => Sys2Proof.Machine.execSetConfig r s
  | .saveConfig r => Sys2Proof.Machine.execSaveConfig r s
  | .eepromWriteCompletion fault => Sys2Proof.Machine.execEepromWriteCompletion fault s
  | .readStatus r => Sys2Proof.Machine.execReadStatus r s
  | .readCounters r => Sys2Proof.Machine.execReadCounters r s
  | .clearCounters r => Sys2Proof.Machine.execClearCounters r s
  | .partitionInfo r => Sys2Proof.Machine.execPartitionInfo r s
  | .reset r => Sys2Proof.Machine.execReset r s
  | .linkReset r => Sys2Proof.Machine.execLinkReset r s
  | .fileOpen r => Sys2Proof.Machine.execFileOpen r s
  | .records r => Sys2Proof.Machine.execRecords r s
  | .fileClose r => Sys2Proof.Machine.execFileClose r s
  | .fileAbort r => Sys2Proof.Machine.execFileAbort r s
  | .fetch r => Sys2Proof.Machine.execFetch r s
  | .querySubscriber r => Sys2Proof.Machine.execQuerySubscriber r s
  | .amend r => Sys2Proof.Machine.execAmend r s
  | .readAccount r => Sys2Proof.Machine.execReadAccount r s
  | .auditScan r => Sys2Proof.Machine.execAuditScan r s
  | .verifyDays r => Sys2Proof.Machine.execVerifyDays r s
  | .cancel r => Sys2Proof.Machine.execCancel r s
  | .recordEvent => Sys2Proof.Machine.execRecordEvent s
  | .secondEvent => Sys2Proof.Machine.execSecondEvent s
  | .quietTimerExpiry day => Sys2Proof.Machine.execQuietTimerExpiry day s
  | .fileIdleExpiry ctx => Sys2Proof.Machine.execFileIdleExpiry ctx s
  | .patrolTimerExpiry => Sys2Proof.Machine.execPatrolTimerExpiry s
  | .millisecondTick => Sys2Proof.Machine.execMillisecondTick s
  | .throttlePhaseEnd => Sys2Proof.Machine.execThrottlePhaseEnd s
  | .sortEnd => Sys2Proof.Machine.execSortEnd s
  | .writeCompletion fault => Sys2Proof.Machine.execWriteCompletion fault s
  | .decodeCompletion read => Sys2Proof.Machine.execDecodeCompletion read s
  | .readCompletion read => Sys2Proof.Machine.execReadCompletion read s
  | .sweepDecision => Sys2Proof.Machine.execSweepDecision s
  | .lossOfNodePower => Sys2Proof.Machine.execLossOfNodePower s

end Sys2Proof.Machine
end

