-- ==== Sys2Proof/Safety.lean ====
section
/-! DEFINITION. The terms the statements are written in: a state in which no block can go on, the frame of a request row, when a request is
accepted, the invariants that every step keeps, and what time, a scheduling pass and a reset leave of the tables, as the rules give it. -/

namespace Sys2Proof.Machine

/-- No block can go on with anything by itself, a waiting request that its block is ready for included. -/
def Settled (s : State) : Prop := internal Turn.placing s = none

/-- R35, R39: the rollover day is never ahead of the current day, and equals it while the clock-set flag is set. -/
def ClockInv (s : State) : Prop :=
  s.ck.rolloverDay ≤ s.currentDay ∧ (s.ck.clockSet = true → s.ck.rolloverDay = s.currentDay)

/-- The row of a request kind (R12). -/
def requestRow : Kind → Request → Instr
  | .setTime, r => .setTime r
  | .closeDay, r => .closeDay r
  | .setRetention, r => .setRetention r
  | .placeHold, r => .placeHold r
  | .releaseHold, r => .releaseHold r
  | .listHolds, r => .listHolds r
  | .setConfig, r => .setConfig r
  | .saveConfig, r => .saveConfig r
  | .readStatus, r => .readStatus r
  | .readCounters, r => .readCounters r
  | .clearCounters, r => .clearCounters r
  | .partitionInfo, r => .partitionInfo r
  | .reset, r => .reset r
  | .linkReset, r => .linkReset r
  | .fileOpen, r => .fileOpen r
  | .records, r => .records r
  | .fileClose, r => .fileClose r
  | .fileAbort, r => .fileAbort r
  | .fetch, r => .fetch r
  | .querySubscriber, r => .querySubscriber r
  | .amend, r => .amend r
  | .readAccount, r => .readAccount r
  | .auditScan, r => .auditScan r
  | .verifyDays, r => .verifyDays r
  | .cancel, r => .cancel r

/-- A request of a kind that R20 accepts, with its credit from a pool: OPEN, well formed, a credit to be had, its tag free. -/
structure Accepted (k : Kind) (r : Request) (pool : Pool) (s : State) : Prop where
  opened : s.lp.link = .opened
  wellFormed : frameWellFormed r = true
  credit : s.lp.poolFor k.cls (blockNeed k.code r.payload) = some pool
  tagFree : Tab.get s.lp.tags r.tag.toNat = none

/-- An accepted CONTROL or QUERY request that passes both checks and asks for p. -/
structure Requested (k : Kind) (r : Request) (p : Params) (pool : Pool) (s : State) : Prop extends Accepted k r pool s where
  params : checkedParams k r = some p

/-- The Link Port when a request has been accepted: its credits in use and its tag outstanding (R21, R22). -/
def acceptedAs (code : Nat) (cls : ReqClass) (r : Request) (pool : Pool) (s : State) : State :=
  (takeCredits (pool.credits (blockNeed code r.payload)) s).mapLp fun l =>
    { l with tags := Tab.put l.tags r.tag.toNat { code := code, cls := cls, pool := pool, epoch := l.epoch } }

/-- The Link Port when a request of a kind has been accepted. -/
def acceptedState (k : Kind) (r : Request) (pool : Pool) (s : State) : State := acceptedAs k.code k.cls r pool s

/-- The state in which the serving block acts: accepted, the request taken from the input frame buffer and its credit pending (R25), before
any response of the block is queued (log entry 9). -/
def takenState (k : Kind) (r : Request) (pool : Pool) (s : State) : State :=
  creditsPending (pool.credits 0) (acceptedState k r pool s)

/-- A response under a request's tag joins the output queue (R23, R24). -/
def answered (tag status : Nat) (payload : Bytes) : State → State :=
  enqueue { tag := tag, status := status, payload := payload, riders := 0, startsReset := false }

/-- A CONTROL or QUERY request that is taken and answered, with no other effect. -/
def replied (k : Kind) (r : Request) (pool : Pool) (status : Nat) (payload : Bytes) (s : State) : State :=
  answered r.tag.toNat status payload (takenState k r pool s)

/-- An INGEST request whose whole drain is one event: accepted, answered, its blocks released and its frame credit earned (R62). -/
def drained (k : Kind) (r : Request) (pool : Pool) (status : Nat) (payload : Bytes) (s : State) : State :=
  frameCreditEarned (creditsPending { Credits.zero with block := blockNeed k.code r.payload }
    (answered r.tag.toNat status payload (acceptedState k r pool s)))

/-- An INGEST request accepted into an empty Batch Queue at rest, its header and parameters good (R60 to R62). -/
structure DrainsAtOnce (k : Kind) (r : Request) (p : Params) (pool : Pool) (s : State) : Prop extends Accepted k r pool s where
  header : headerOk k r.ctx.toNat r.gen.toNat r.rsv.toNat = true
  params : readParams k r.payload = some p
  queueEmpty : s.ie.queue = []
  noDrain : s.ie.drain = none
  settled : Settled s
  active : s.active = true

/-- A structurally whole record stands at the offset of the drain in progress (R62, R63): its entry at the head of the queue, the drain, the
open file, its padded size and what it delivers. -/
structure RecordAtHand (e : BatchEntry) (dr : Drain) (f : OpenFile) (size : Nat) (s : State) : Prop where
  drain : s.ie.drain = some dr
  deciding : dr.dup = none
  head : s.ie.queue.head? = some e
  opened : s.openFile e.ctx e.gen = some f
  whole : wholeSize (e.payload.drop dr.offset) = some size

/-- The code that the record checks of 4.4 refuse a delivered record with, in the order of the table, or none (R64 to R66, R69). -/
def firstRefusal (s : State) (f : OpenFile) (d : Delivered) : Option RefusalCode :=
  let r := d.clampedRecord
  if d.mustBeZero = false ∨ d.source = 0 ∨ 4095 < d.source then some .malformed
  else if d.source ≠ f.source then some .sourceMismatch
  else if 2147483647 < d.charge then some .chargeRange
  else if s.currentDay + 1 < dayOf d.start then some .futureRecord
  else if s.expired (dayOf d.start) d.cls ∧ ¬ s.held d.key (dayOf d.start) d.cls then some .expiredOnArrival
  else if (s.lookup r.ref).isSome then none
  else if (s.part (dayOf d.start)).isNone ∧ 512 ≤ s.pc.parts.length then some .partitionFull
  else if (Tab.get s.au.accounts (accountKey d.source (dayOf d.start))).isNone ∧ 65536 ≤ s.au.accounts.length then some .accountFull
  else if s.freeSlots = 0 then some .hotFull
  else if 4294967296 ≤ s.ix.map.length then some .indexFull
  else none

/-- Every table is a map: its keys strictly rising, so that no key stands twice (R22, R41, R80, R84, R95, R101, R102, R129, R135, R143, R153). -/
def TablesKeyed (s : State) : Prop :=
  Tab.rising s.lp.tags = true ∧ Tab.rising s.pc.parts = true ∧ Tab.rising s.ix.map = true ∧ Tab.rising s.hs.slots = true ∧
  Tab.rising s.qa.contexts = true ∧ Tab.rising s.qa.inFlight = true ∧ Tab.rising s.cs.dir = true ∧ Tab.rising s.cs.bodies = true ∧
  Tab.rising s.ru.holds = true ∧ Tab.rising s.ru.queue = true ∧ Tab.rising s.au.accounts = true ∧ Tab.rising s.au.slots = true

/-- Every setting and retention value lies in its range, and the low watermark below the high one (R125, R174). -/
def SettingsInRange (s : State) : Prop :=
  let c := s.cl.settings
  c.graceDays ≤ 7 ∧ c.quietCode ≤ 15 ∧ c.activityMask ≤ 7 ∧ c.fileIdleCode ≤ 15 ∧ 64 ≤ c.repackThreshold ∧
  c.repackThreshold ≤ 65535 ∧ 10 ≤ c.repackPercent ∧ c.repackPercent ≤ 90 ∧ 1 ≤ c.lowWatermark ∧ c.lowWatermark ≤ 33554431 ∧
  c.lowWatermark < c.highWatermark ∧ c.highWatermark ≤ 67108864 ∧ (∀ k, c.priority.get k ≤ 3) ∧ c.activeCode ≤ 7 ∧ c.restCode ≤ 7 ∧
  c.patrolCode ≤ 15 ∧ c.alertMask ≤ 63 ∧ (∀ k, (s.ru.table.get k).active ≤ 3650 ∧ (s.ru.table.get k).pending ≤ 3650)

/-- What the capacities of the tables allow (R22, R34, R58, R69, R81, R84, R95, R101, R102, R129, R135, R143, R149, R153). -/
structure WithinCapacity (s : State) : Prop where
  partitions : s.pc.parts.length ≤ 512
  references : s.ix.map.length ≤ 4294967296
  hotSlots : s.hs.slots.length ≤ 67108864
  segments : ∀ e ∈ s.cs.dir, e.1 < 1048576
  accounts : s.au.accounts.length ≤ 65536
  holds : s.ru.holds.length ≤ 64
  sweeps : ∀ e ∈ s.ru.queue, (s.part e.1).isSome = true
  tags : ∀ e ∈ s.lp.tags, e.1 < 64
  queryContexts : s.qa.contexts.length ≤ 64
  amendments : s.qa.inFlight.length ≤ 16
  flights : ∀ e ∈ s.qa.inFlight, (s.queryCtx e.1).isSome = true
  scanSlots : s.au.slots.length ≤ 4
  fileContexts : s.ie.contexts.length = 32
  banks : s.au.current.length = 40 ∧ s.au.previous.length = 40
  pointers : s.wa.pointers.length = 4

/-- The Staging Buffer blocks that the Batch Queue's entries hold (R21, R61). -/
def State.stagedBlocks (s : State) : Nat := (s.ie.queue.map fun e => blockNeed e.kind.code e.payload).sum

/-- The credits in use lie within the pools of 2.3, and cover the Batch Queue's entries with the INGEST credits that wait to be sent, so that
the queue and the Staging Buffer stay within their sizes (R21, R25, R26, R28, R61). -/
structure CreditsCover (s : State) : Prop where
  pools : s.lp.inUse.control ≤ 4 ∧ s.lp.inUse.query ≤ 16 ∧ s.lp.inUse.shared ≤ 8 ∧ s.lp.inUse.frame + s.lp.withheld ≤ 32 ∧
    s.lp.inUse.block ≤ 256
  frames : s.ie.queue.length + s.lp.due.frame + (s.lp.outQueue.map (·.riders)).sum ≤ s.lp.inUse.frame
  blocks : s.stagedBlocks + s.lp.due.block ≤ s.lp.inUse.block
  resetting : s.lp.link = .resetting → s.lp.withheld = 0 ∧ ∀ f ∈ s.lp.outQueue, f.riders = 0

/-- A buffered request carries what its kind's parameter check makes of some payload (R16, R20), and a credit of no INGEST pool (R21). -/
def BufferFits (s : State) : Prop := ∀ b ∈ s.lp.buffer, b.pool ≠ .ingest ∧ ∃ payload, readParams b.kind payload = some b.params

/-- The pins, the mover and the mover-waiting flag of a partition agree with each other and with its wait queue (R50, R51, R52). -/
structure PinsAndMovers (p : Partition) : Prop where
  pins : p.pins ≤ 8
  holding : p.moverHolding = true → p.pins = 0
  waiting : p.moverWaiting = true ↔ ∃ w ∈ p.waitQueue, w = .job ∨ w = .sweep ∨ ∃ c, w = .move c

/-- The pack queue holds QUIET days and the repack queue PACKED ones, each at most once; the wait for a FREE segment slot holds QUIET days in
ascending order; a QUIET day stands in one of the two; a job has its day PACKING or REPACKING, and no sweep is in flight on such a day (R46, R47,
R49, R104, R116, R119, R121, R137, R165). -/
structure QueuesAgree (s : State) : Prop where
  pack : s.wa.packQueue.Nodup ∧ ∀ d ∈ s.wa.packQueue, (s.part d).map (·.state) = some .quiet
  repack : s.wa.repackQueue.Nodup ∧ ∀ d ∈ s.wa.repackQueue, (s.part d).map (·.state) = some .packed
  wait : s.ce.coldWait.Pairwise (· < ·) ∧ ∀ d ∈ s.ce.coldWait, (s.part d).map (·.state) = some .quiet ∧ d ∉ s.wa.packQueue
  resting : s.active = false → s.ce.coldWait = []
  quiet : s.active = true → ∀ d p, s.part d = some p → p.state = .quiet → d ∈ s.wa.packQueue ∨ d ∈ s.ce.coldWait
  job : ∀ j, s.ce.job = some j → (s.part j.day).map (·.state) = some (if j.repack then .repacking else .packing)
  sweep : ∀ w, s.ru.sweep = some w →
    (s.part w.day).map (·.state) ≠ some .packing ∧ (s.part w.day).map (·.state) ≠ some .repacking

/-- A command answers x followed by what the blocks then do by themselves, which is x as it stands where nothing is waiting. -/
def Answers (c : Instr) (s x : State) : Prop := exec c s = .next (settle x) ∧ (Settled s → exec c s = .next x)

/-! ## Settings by number (R174, R175) -/

/-- The value in force of a setting. -/
def State.setting (s : State) (n : Nat) : Nat :=
  match n with
  | 1 => s.cl.settings.graceDays | 2 => s.cl.settings.quietCode | 3 => s.cl.settings.activityMask | 4 => s.cl.settings.fileIdleCode
  | 5 => s.cl.settings.repackThreshold | 6 => s.cl.settings.repackPercent | 7 => s.cl.settings.lowWatermark
  | 8 => s.cl.settings.highWatermark | 9 => s.cl.settings.priority.query | 10 => s.cl.settings.priority.pack
  | 11 => s.cl.settings.priority.repack | 12 => s.cl.settings.priority.sweep | 13 => s.cl.settings.priority.verify
  | 14 => s.cl.settings.priority.scan | 15 => s.cl.settings.priority.patrol | 16 => s.cl.settings.activeCode
  | 17 => s.cl.settings.restCode | 18 => s.cl.settings.patrolCode | 19 => s.cl.settings.alertMask
  | 20 => s.ru.table.voice.pending | 21 => s.ru.table.message.pending | 22 => s.ru.table.data.pending
  | 23 => s.ru.table.other.pending | _ => 0

/-- The least and the greatest value of a setting, with the low watermark that comes into force with it. -/
def settingBounds (low n : Nat) : Nat × Nat :=
  match n with
  | 1 => (0, 7) | 2 => (0, 15) | 4 => (0, 15) | 5 => (64, 65535) | 6 => (10, 90) | 7 => (1, 33554431) | 8 => (low + 1, 67108864)
  | 9 => (0, 3) | 10 => (0, 3) | 11 => (0, 3) | 12 => (0, 3) | 13 => (0, 3) | 14 => (0, 3) | 15 => (0, 3)
  | 16 => (0, 7) | 17 => (0, 7) | 18 => (0, 15) | _ => (0, 3650)

/-- The value that a setting takes when a request or an image names v for it: the masks keep their low bits, another value is brought to
the nearest end of its range. -/
def settingHeld (low n v : Nat) : Nat :=
  if n = 3 then v % 8 else if n = 19 then v % 64 else max (settingBounds low n).1 (min v (settingBounds low n).2)

/-! ## What time, a scheduling pass and a reset leave of the tables -/

/-- A partition after n seconds counted by its quiet timer at an interval (0 where it is disabled), after a day close where one comes, and
after the move onward (R43, R45, R47, R48). -/
def partAfterTime (interval n : Nat) (closes pressure : Bool) (p : Partition) : Partition :=
  let runs := decide (p.state = .opened) && !p.quietExpired && decide (p.quietElapsed < interval)
  let expired := p.quietExpired || (runs && decide (interval ≤ p.quietElapsed + n))
  { p with
    quietElapsed := if runs then min (p.quietElapsed + n) interval else p.quietElapsed
    quietExpired := expired
    dayClosed := p.dayClosed || closes
    state := if p.state = .opened ∧ (p.dayClosed ∨ closes) ∧ (expired ∨ pressure) then .quiet else p.state }

/-- A partition after an activity on it, counted by the mask or not, a store or another, under pressure or not (R46, R48). -/
def partAfterActivity (counted store pressure : Bool) (p : Partition) : Partition :=
  if (p.state = .opened ∧ counted) ∨ (p.state = .quiet ∧ (counted ∨ store) ∧ pressure = false) then
    { p with state := .opened, quietElapsed := 0, quietExpired := false }
  else p

/-- The state after an activity on a day's partition: one that returns to OPEN leaves the pack queue and the wait for a FREE segment slot
(R46, R48). -/
def afterActivity (counted store : Bool) (day : Nat) (s : State) : State :=
  let returns := (s.part day).any fun p => decide (p.state = .quiet) && (counted || store) && !s.wa.pressure
  { s with
    pc := { s.pc with parts := Tab.upd s.pc.parts day (partAfterActivity counted store s.wa.pressure) }
    wa := { s.wa with packQueue := if returns then s.wa.packQueue.filter (· != day) else s.wa.packQueue }
    ce := { s.ce with coldWait := if returns then s.ce.coldWait.filter (· != day) else s.ce.coldWait } }

/-- A day's Sweep Queue entry after a pass that marks the day or not (R135). -/
def sweepQueued (marked : Bool) (q : Option SweepEntry) : Option SweepEntry :=
  if marked then some (match q with
    | none => { walk := none, restart := false }
    | some e => { e with restart := e.restart || e.walk.isSome })
  else q

/-- From s to u a scheduling pass over every partition and every class has run, at a current day and under the active retentions of u, or
none has: the expiry-due flags and the Sweep Queue (R128, R134, R135). -/
structure FullPass (ran : Bool) (today : Nat) (s u : State) : Prop where
  flags : ∀ d p q, s.part d = some p → u.part d = some q → ∀ c, q.expiryDue.get c =
    (p.expiryDue.get c || (ran && decide (0 < p.live.get c) && decide ((u.ru.table.get c).active ≠ 0) &&
      decide (d + (u.ru.table.get c).active < today) && !p.heldRemainder.get c))
  queue : ∀ d, Tab.get u.ru.queue d = sweepQueued
    (ran && (u.part d).any fun q => [CallClass.voice, .message, .data, .other].any q.expiryDue.get) (Tab.get s.ru.queue d)
  sweep : u.ru.sweep = s.ru.sweep

/-- A partition at a warm reset or a RESUME start-up (R56, R142). -/
def restedPartition (p : Partition) : Partition :=
  { p with state := (match p.state with | .packing => .quiet | .repacking => .packed | st => st),
           quietElapsed := if p.state = .opened then 0 else p.quietElapsed,
           quietExpired := if p.state = .opened then false else p.quietExpired,
           pins := 0, moverHolding := false, moverWaiting := false, waitQueue := [], expiryDue := PerClass.all false }

/-- A member's map entry points to its snapshot location (R119, R120). -/
def Member.stays (m : Member) (s : State) : Bool := decide ((s.lookup m.ref).map (·.loc) = some m.loc)

/-- From s to u the snapshot slots of the members whose map entries have moved are released (R119, R124). -/
def SlotsReleased (ms : List Member) (s u : State) : Prop :=
  ∀ k, Tab.get u.hs.slots k = if (∃ m ∈ ms, m.stays s = false ∧ m.loc = .hot k) then none else Tab.get s.hs.slots k

/-- How many snapshot slots those are. -/
def movedSlots (ms : List Member) (s : State) : Nat := ms.countP fun m => !m.stays s && m.slot.isSome

/-- From s to t a warm reset has begun: archive state, clock and settings stay, transient state goes, and the job in the context is abandoned
(R30, R56, R79, R84, R100, R124, R142, R152, R158, R161, R172, R177, R180). -/
structure WarmResetBegun (s t : State) : Prop where
  power : t.power = { s.power with warmReset := true }
  link : t.lp = { s.lp with link := .resetting, epoch := s.lp.epoch + 1, tags := [], outQueue := [], buffer := [], due := Credits.zero,
                            withheld := 0 }
  ingest : t.ie = { contexts := s.ie.contexts.map fun c => { generation := c.generation, file := none }, queue := [], drain := none }
  queries : t.qa.contexts = [] ∧ t.qa.inFlight = []
  job : t.ce.job = none ∧ t.ce.coldFull = false ∧ t.ce.coldWait = []
  sweeps : t.ru.queue = [] ∧ t.ru.sweep = none ∧ t.ru.holds = s.ru.holds ∧ t.ru.table = s.ru.table
  audit : t.au.slots = [] ∧ t.au.patrol = none ∧ t.au.cursorDay = 0 ∧ t.au.cursorPlace = 0 ∧ t.au.patrolElapsed = 0 ∧
    t.au.current = bankAdd (List.replicate 40 0) .filesAborted (s.ie.contexts.countP fun c => c.file.isSome) ∧
    t.au.previous = List.replicate 40 0 ∧ t.au.captureDay = none ∧ t.au.accounts = s.au.accounts ∧ t.au.damageFound = s.au.damageFound
  arbiter : t.wa.engine = none ∧ (∀ k, t.wa.requests.get k = []) ∧ t.wa.packQueue = [] ∧ t.wa.repackQueue = [] ∧
    t.wa.pointers = [none, none, none, none] ∧ t.wa.phase = .active ∧ t.wa.elapsed = 0 ∧ t.wa.pressure = s.wa.pressure
  kept : t.ck = s.ck ∧ t.ix = s.ix ∧ t.cl = { s.cl with saving := none }
  withoutJob : s.ce.job = none → t.hs = s.hs ∧ t.cs = s.cs ∧ ∀ d, t.part d = (s.part d).map restedPartition
  withJob : ∀ j, s.ce.job = some j → SlotsReleased j.members s t ∧
    (∀ n, t.seg n = if n ∈ j.written.map (·.1) ∨ j.writing = some n then none else s.seg n) ∧
    (∀ d, d ≠ j.day → t.part d = (s.part d).map restedPartition) ∧
    t.part j.day = (s.part j.day).map fun p => restedPartition
      { p with hotCount := p.hotCount - movedSlots j.members s, state := if j.repack then .packed else .quiet }

/-- From s to u the record of a map entry of a day has been retired at its decision event: the record, its place and its counts, and the days
that waited for the segment it frees, with nothing else (R104, R140, R145). -/
structure RetiredAt (day ref : Nat) (m : MapEntry) (s u : State) : Prop where
  entry : u.ix = { s.ix with map := Tab.del s.ix.map ref }
  hot : ∀ n, m.loc = .hot n → (∀ k, Tab.get u.hs.slots k = if k = n then none else Tab.get s.hs.slots k) ∧
    (∀ d, u.part d = (s.part d).map fun x => if d = day then
      { x with live := x.live.set m.cls (x.live.get m.cls - 1), hotCount := x.hotCount - 1 } else x) ∧
    u.cs = s.cs ∧ u.ce = s.ce ∧ u.wa = s.wa
  segment : ∀ n o e, m.loc = .segment n o → s.seg n = some e → u.hs = s.hs ∧
    (∀ k, u.seg k = if k = n then (if e.live ≤ 1 then none else some { e with live := e.live - 1 }) else s.seg k) ∧
    (∀ d, u.part d = (s.part d).map fun x => { x with
      live := if d = day then x.live.set m.cls (x.live.get m.cls - 1) else x.live
      segments := if e.live ≤ 1 ∧ d = e.day then x.segments.filter (· != n) else x.segments }) ∧
    u.ce = (if e.live ≤ 1 then { s.ce with coldFull := false, coldWait := [] } else s.ce) ∧
    (1 < e.live ∨ QueuesAgree s →
      u.wa = { s.wa with packQueue := if e.live ≤ 1 then s.wa.packQueue ++ s.ce.coldWait else s.wa.packQueue })
  arbiter : u.wa = { s.wa with packQueue := u.wa.packQueue }
  audit : u.au = { s.au with
    accounts := Tab.upd s.au.accounts (accountKey (ref / 281474976710656) day) fun a =>
      { a with retired := count64 (a.retired + 1), retiredSum := sum64 (a.retiredSum + m.charge), live := a.live - 1 }
    current := bankAdd (bankAdd s.au.current .recordsRetired 1) .chargeRetired m.charge }
  kept : u.ru = s.ru ∧ u.lp = s.lp ∧ u.ck = s.ck ∧ u.ie = s.ie ∧ u.qa = s.qa ∧ u.cl = s.cl ∧ u.power = s.power

/-- The bytes of records coded one after another from a given predecessor (R110, R112). -/
def codedAfter (day : Nat) : Option (Nat × Nat) → List CallRecord → Bytes
  | _, [] => []
  | prev, r :: rs => codeRecord day prev r ++ codedAfter day (some (r.key, r.start)) rs

/-- The fields of a record within the ranges of R1 and R4, its start in a day. -/
def RecordInRange (day : Nat) (r : CallRecord) : Prop :=
  1 ≤ r.source ∧ r.source ≤ 4095 ∧ r.sequence < 1099511627776 ∧ r.key < 281474976710656 ∧ r.start < 4294967296 ∧ r.start / 86400 = day ∧
  r.duration ≤ 604800 ∧ r.volume < 4294967296 ∧ (r.cls ≠ .data → r.volume = 0) ∧ r.charge ≤ 2147483647 ∧ r.amendCount ≤ 255 ∧
  (∀ c, r.cell = some c → c < 4294967296) ∧ ∀ c, r.partner = some c → c < 65536

/-- A part of a coded record that is a varint of a number: one to seven bytes, the lowest 7-bit group first, the top bit set in each but the
last (R109, R114). -/
def CodesNumber (part : Bytes) (v : Nat) : Prop :=
  part ≠ [] ∧ part.length ≤ 7 ∧ (∀ i b, part[i]? = some b → (b.toNat < 128 ↔ i + 1 = part.length)) ∧
  v = part.foldr (fun b high => b.toNat % 128 + 128 * high) 0

/-- A fixed part of n bytes of a coded record, most significant byte first, there where its control bit is set (R110). -/
def CodesFixed (announced : Bool) (n : Nat) (part : Bytes) (v : Option Nat) : Prop :=
  if announced then part.length = n ∧ v = some (Wire.field part 0 n) else part = [] ∧ v = none

/-- Bytes of a body that read as a record of a directory entry after a record of a given key and start, none for ordinal 0: the control byte,
its parts in the order of R110, and the checks of R114 that one record has to pass. -/
def ReadsAs (e : SegEntry) (prev : Option (Nat × Nat)) (bytes : Bytes) (r : CallRecord) : Prop :=
  ∃ (c : Byte) (dk ds source sequence duration volume charge amend cell partner : Bytes) (amended : Option Nat) (x : Nat),
    bytes = c :: (dk ++ ds ++ source ++ sequence ++ duration ++ volume ++ charge ++ amend ++ cell ++ partner) ∧
    r.cls.code = c.toNat / 2 % 4 ∧ r.late = c.getLsbD 6 ∧ r.clamped = c.getLsbD 7 ∧
    CodesNumber ds x ∧ CodesNumber source r.source ∧ CodesNumber sequence r.sequence ∧ CodesNumber duration r.duration ∧
    (if r.cls = .data then CodesNumber volume r.volume else volume = [] ∧ r.volume = 0) ∧ CodesNumber charge r.charge ∧
    CodesFixed (c.getLsbD 5) 1 amend amended ∧ r.amendCount = amended.getD 0 ∧
    CodesFixed (c.getLsbD 3) 4 cell r.cell ∧ CodesFixed (c.getLsbD 4) 2 partner r.partner ∧
    (match prev with
      | none => c.getLsbD 0 = false ∧ CodesNumber dk 0 ∧ r.key = e.firstKey ∧ r.start = e.day * 86400 + x
      | some (k, t) => if c.getLsbD 0 then dk = [] ∧ r.key = k ∧ r.start = t + x
          else k < r.key ∧ CodesNumber dk (r.key - k) ∧ r.start = e.day * 86400 + x) ∧
    1 ≤ r.source ∧ r.source ≤ 4095 ∧ r.sequence < 1099511627776 ∧ r.key < 281474976710656 ∧ r.duration ≤ 604800 ∧ r.volume < 4294967296 ∧
    r.charge ≤ 2147483647 ∧ r.start < 4294967296 ∧ r.start / 86400 = e.day ∧ e.earliest ≤ r.start ∧ r.start ≤ e.latest

/-- A body that reads as a list of records one after another, to its last byte (R114). -/
def BodyReadsAs (e : SegEntry) : Option (Nat × Nat) → Bytes → List CallRecord → Prop
  | _, body, [] => body = []
  | prev, body, r :: rs => ∃ bytes rest, body = bytes ++ rest ∧ ReadsAs e prev bytes r ∧ BodyReadsAs e (some (r.key, r.start)) rest rs

/-- A segment marked DAMAGED at the completion of its read, where it was ACTIVE (R160). -/
def damagedAt (n : Nat) (failed : Bool) (s : State) : State :=
  if failed ∧ s.segActive n = true then
    (s.mapCs fun c => { c with dir := Tab.upd c.dir n fun e => { e with state := .damaged } }).mapAu fun a =>
      { a with current := bankAdd a.current .segmentsDamaged 1, damageFound := true }
  else s

/-- Commands that begin a start-up. -/
def startsUp : Instr → Bool
  | .powerOn _ _ => true
  | .resetPinRelease => true
  | _ => false

end Sys2Proof.Machine
end

