-- ==== Sys2Proof/Certificates/Slice0/Obligations.lean ====
section
/-! DEFINITION. The statements for the provers. Each formalises rules of spec/ that its docstring cites; `replied`, `drained`, `Accepted`,
`Requested`, `Answers`, `FullPass`, `WarmResetBegun` and the invariants are those of Sys2Proof/Safety.lean. Numbers stand written out where a
rule gives them. -/

open Sys2Proof Sys2Proof.Machine Sys2Proof.Wire

/-- What State.reset holds, the invariants among it: the end of an INITIALISE start-up with the default settings (the model's choice, log
entry 4) (R30, R57, R58, R83, R101, R107, R125, R148, R152, R173, R174, 10.4 Start-up). -/
def Obligations.ResetStateAsSpecified : Prop :=
  let s := State.reset
  s.pending = [] ∧
  s.lp.link = .resetting ∧ s.lp.epoch = 0 ∧ s.lp.tags = [] ∧ s.lp.inUse = Credits.zero ∧ s.lp.withheld = 0 ∧ s.lp.due = Credits.zero ∧
  s.lp.buffer = [] ∧ s.lp.outQueue = [] ∧
  s.ck.archiveTime = 0 ∧ s.ck.rolloverDay = 0 ∧ s.ck.clockSet = false ∧ s.pc.parts = [] ∧
  s.ie.contexts = List.replicate 32 { generation := 0, file := none } ∧ s.ie.queue = [] ∧ s.ie.drain = none ∧
  s.ix.map = [] ∧ s.hs.slots = [] ∧ s.cs.dir = [] ∧ s.ce.job = none ∧ s.ce.coldFull = false ∧ s.qa.contexts = [] ∧ s.qa.inFlight = [] ∧
  (∀ c, s.ru.table.get c = match c with
    | .voice => { active := 400, pending := 400 }
    | .message => { active := 400, pending := 400 }
    | .data => { active := 180, pending := 180 }
    | .other => { active := 90, pending := 90 }) ∧
  s.ru.holds = [] ∧ s.ru.queue = [] ∧ s.ru.sweep = none ∧
  s.au.accounts = [] ∧ s.au.current = List.replicate 40 0 ∧ s.au.previous = List.replicate 40 0 ∧ s.au.captureDay = none ∧
  s.au.slots = [] ∧ s.au.cursorDay = 0 ∧ s.au.cursorPlace = 0 ∧ s.au.patrolElapsed = 0 ∧ s.au.patrol = none ∧ s.au.damageFound = false ∧
  s.wa.engine = none ∧ (∀ k, s.wa.requests.get k = []) ∧ s.wa.packQueue = [] ∧ s.wa.repackQueue = [] ∧ s.wa.pressure = false ∧
  s.wa.phase = .active ∧ s.wa.elapsed = 0 ∧
  s.cl.settings.graceDays = 2 ∧ s.cl.settings.quietCode = 8 ∧ s.cl.settings.activityMask = 3 ∧ s.cl.settings.fileIdleCode = 6 ∧
  s.cl.settings.repackThreshold = 4096 ∧ s.cl.settings.repackPercent = 50 ∧ s.cl.settings.lowWatermark = 4194304 ∧
  s.cl.settings.highWatermark = 8388608 ∧ s.cl.settings.activeCode = 5 ∧ s.cl.settings.restCode = 3 ∧ s.cl.settings.patrolCode = 3 ∧
  s.cl.settings.alertMask = 63 ∧ [JobKind.query, .pack, .repack, .sweep, .verify, .scan, .patrol].map s.cl.settings.priority.get = [0, 1, 2, 2, 2, 3, 3] ∧
  s.cl.source = .defaults ∧ s.cl.saving = none ∧
  ClockInv s ∧ TablesKeyed s ∧ WithinCapacity s ∧ CreditsCover s ∧ SettingsInRange s ∧ BufferFits s ∧ QueuesAgree s ∧ ∀ e ∈ s.pc.parts, PinsAndMovers e.2

/-- A step is exec of the command at the front of the queue; on an empty queue the block idles (the model's choice, log entry 7) (2.2
Arrival of a request frame, What each step holds). -/
def Obligations.StepRunsFrontCommand : Prop :=
  (∀ (c : Instr) (rest : List Instr) (s : State), s.pending = c :: rest → step s = exec c { s with pending := rest }) ∧
  ∀ s : State, s.pending = [] → step s = .next s

/-- Every command of the table answers a next state in every state, and leaves the queue of waiting commands alone (What each step holds). -/
def Obligations.CommandsAnswerAndKeepTheQueue : Prop :=
  ∀ (c : Instr) (s : State), ∃ t, exec c s = .next t ∧ t.pending = s.pending

/-- Every step keeps the rollover day at or below the current day, and equal to it while the clock-set flag is set (R35, R38, R39, 3.1
Archive time). -/
def Obligations.ClockInvariantKept : Prop :=
  ∀ s t : State, ClockInv s → step s = .next t → ClockInv t

/-- Every step keeps every setting and every retention value in its range, and the low watermark below the high one (R125, R126, R174,
R175, R178, 10.1 Settings). -/
def Obligations.SettingsStayInRange : Prop :=
  ∀ s t : State, SettingsInRange s → step s = .next t → SettingsInRange t

/-- Every step keeps every table a map: no key stands twice in any of them (R22, R41, R80, R95, R102, R129, R135, R143, R153). -/
def Obligations.TablesStayKeyed : Prop :=
  ∀ s t : State, TablesKeyed s → step s = .next t → TablesKeyed t

/-- Every step keeps every table, the Batch Queue, the Staging Buffer and the credits in use within their capacities, and each buffered
request fitted to its kind (R20, R21, R22, R61, R69, R84, R95, R102, R131, R135, R143, R149). -/
def Obligations.CapacitiesKept : Prop :=
  ∀ s t : State, TablesKeyed s → WithinCapacity s → CreditsCover s → BufferFits s → step s = .next t →
    WithinCapacity t ∧ CreditsCover t ∧ BufferFits t ∧ t.ie.queue.length ≤ 32 ∧ t.stagedBlocks ≤ 256 ∧ t.ru.queue.length ≤ 512 ∧
    t.cs.dir.length ≤ 1048576 ∧ t.lp.tags.length ≤ 64

/-- Only a sweep decision and a start-up take a live record out of the Reference Map (R18, R80, R81, R83, 5.1 The Reference Map). -/
def Obligations.LiveRecordsStayLive : Prop :=
  ∀ (c : Instr) (s t : State) (ref : Nat), c ≠ .sweepDecision → startsUp c = false → exec c s = .next t →
    (s.lookup ref).isSome → (t.lookup ref).isSome

/-- Only PLACE_HOLD, RELEASE_HOLD and a start-up change the holds; archive time never falls and the clock-set flag stays, but at a start-up
or power loss (R35, R37, R38, R129, R131, R132, 3.1 Archive time, 7.2 The Hold Table). -/
def Obligations.HoldsAndClockGuarded : Prop :=
  (∀ (c : Instr) (s t : State), (∀ r, c ≠ .placeHold r) → (∀ r, c ≠ .releaseHold r) → (∀ b, c ≠ .frameCheck b) →
       (∀ k r, c ≠ .unknownKind k r) → startsUp c = false → exec c s = .next t → t.ru.holds = s.ru.holds) ∧
  ∀ (c : Instr) (s t : State), startsUp c = false → exec c s = .next t →
    s.ck.archiveTime ≤ t.ck.archiveTime ∧ (c ≠ .lossOfNodePower → s.ck.clockSet = true → t.ck.clockSet = true)

/-- Every step keeps at most 8 pins on a partition, no pin where a mover holds it, and the mover-waiting flag true to its wait queue (R50,
R51, R52, R56, 3.5 Readers and movers). -/
def Obligations.PinsAndMoversKept : Prop :=
  ∀ s t : State, TablesKeyed s → (∀ e ∈ s.pc.parts, PinsAndMovers e.2) → step s = .next t → ∀ e ∈ t.pc.parts, PinsAndMovers e.2

/-- Every step keeps the pack queue, the repack queue, the wait for a FREE segment slot, the job and the sweep in agreement with the
partitions' states (R44, R46, R47, R49, R53, R104, R115, R116, R119, R121, R137, R165). -/
def Obligations.QueuesOfDaysAgree : Prop :=
  ∀ s t : State, TablesKeyed s → QueuesAgree s → step s = .next t → QueuesAgree t

/-- A request without credit, or under an outstanding tag, is discarded with its notice and has no other effect (R20, R21, R22, R25, R27,
2.3 Credits, 2.6 Link error notices). -/
def Obligations.CreditAndTagNotices : Prop :=
  ∀ (r : Request) (s : State), s.lp.link = .opened → frameWellFormed r = true → Settled s →
    (∀ k : Kind, k ≠ .linkReset →
      (s.lp.poolFor k.cls (blockNeed k.code r.payload) = none →
        exec (requestRow k r) s = .next (notice Status.noCredit (be 1 r.tag.toNat ++ be 1 k.code ++ [0, 0]) s)) ∧
      (∀ pool, s.lp.poolFor k.cls (blockNeed k.code r.payload) = some pool → (Tab.get s.lp.tags r.tag.toNat).isSome →
        exec (requestRow k r) s = .next (creditsPending (pool.credits (blockNeed k.code r.payload))
          (notice Status.tagInUse (be 1 r.tag.toNat ++ be 1 k.code ++ [0, 0]) (takeCredits (pool.credits (blockNeed k.code r.payload)) s))))) ∧
    (∀ code : Byte, kindOfCode code.toNat = none →
      (s.lp.poolFor .control 0 = none →
        exec (.unknownKind code r) s = .next (notice Status.noCredit (be 1 r.tag.toNat ++ be 1 code.toNat ++ [0, 0]) s)) ∧
      (∀ pool, s.lp.poolFor .control 0 = some pool → (Tab.get s.lp.tags r.tag.toNat).isSome →
        exec (.unknownKind code r) s = .next (creditsPending (pool.credits 0)
          (notice Status.tagInUse (be 1 r.tag.toNat ++ be 1 code.toNat ++ [0, 0]) (takeCredits (pool.credits 0) s)))))

/-- UNKNOWN_KIND, and a CONTROL or QUERY request that fails the header or parameter check, are answered MALFORMED_REQUEST (R12, R13, R16,
R20, R21, R25, 2.2 Arrival of a request frame). -/
def Obligations.MalformedRequestAnswered : Prop :=
  (∀ (k : Kind) (r : Request) (pool : Pool) (s : State), k ≠ .linkReset → k.cls ≠ .ingest → Accepted k r pool s →
    checkedParams k r = none → Answers (requestRow k r) s (replied k r pool Status.malformed [] s)) ∧
  ∀ (code : Byte) (r : Request) (pool : Pool) (s : State), kindOfCode code.toNat = none → s.lp.link = .opened →
    frameWellFormed r = true → s.lp.poolFor .control 0 = some pool → Tab.get s.lp.tags r.tag.toNat = none →
    Answers (.unknownKind code r) s (answered r.tag.toNat Status.malformed []
      (creditsPending (pool.credits 0) (acceptedAs code.toNat .control r pool s)))

/-- A good request of QA or CL whose block is not ready waits in the input frame buffer with its credit; CL then takes one at an event,
oldest first (R20, R31, R84, R177, 2.8 Request kinds). -/
def Obligations.RequestWaitsForItsBlock : Prop :=
  (∀ (k : Kind) (r : Request) (p : Params) (pool : Pool) (s : State), k.server ≠ .ready → Requested k r p pool s →
       s.ready k.server = false → Settled s →
       exec (requestRow k r) s = .next ((acceptedState k r pool s).mapLp fun l =>
         { l with buffer := l.buffer ++ [{ kind := k, tag := r.tag.toNat, epoch := l.epoch, pool := pool, params := p }] })) ∧
  ∀ (v : Saving) (fault : Bool) (s : State), s.cl.saving = some v → (fault = true ∨ 3 ≤ v.step) → Settled s → s.active = true →
    let waiting (t : State) : List BufferedRequest := t.lp.buffer.filter fun b => b.kind.server == .loader
    ∃ t, exec (.eepromWriteCompletion fault) s = .next t ∧ waiting t = (waiting s).tail

/-- FRAME_CHECK: in OPEN an ill-formed frame only queues the notice, a well-formed one is its kind's request; in RESETTING every frame is
discarded (R13, R15, R19, R20, R27, 1.4 Frames, 2.1 Link states). -/
def Obligations.FrameCheckRow : Prop :=
  (∀ s : State, s.lp.link = .opened →
    (∀ frame, readFrame frame = none → Answers (.frameCheck frame) s (enqueue
      { tag := 255, status := 0x83, payload := [], riders := 0, startsReset := false } s)) ∧
    (∀ frame code r, readFrame frame = some (code, r) →
      (∀ k, kindOfCode code = some k → exec (.frameCheck frame) s = exec (requestRow k r) s) ∧
      (kindOfCode code = none → exec (.frameCheck frame) s = exec (.unknownKind (BitVec.ofNat 8 code) r) s)) ∧
    (∀ k r, frameWellFormed r = false → Answers (requestRow k r) s (enqueue
      { tag := 255, status := 0x83, payload := [], riders := 0, startsReset := false } s))) ∧
  ∀ s : State, s.lp.link = .resetting → Settled s →
    (∀ k r, exec (requestRow k r) s = .next s) ∧ (∀ code r, exec (.unknownKind code r) s = .next s) ∧
    ∀ frame, exec (.frameCheck frame) s = .next s

/-- The link form of a record and the parameters of every kind: each field at its width, in order, and nothing else is taken (R1, R4, R10,
R11, R16, R63, R74, R92, R153, R175, 1.3 The link form of a record). -/
def Obligations.RecordAndParameterForms : Prop :=
  (∀ (x : CallRecord) (held : Bool) (rest : Bytes), x.source < 65536 → x.sequence < 281474976710656 → x.key < 281474976710656 →
    x.start < 4294967296 → x.duration < 4294967296 → x.volume < 4294967296 → x.charge < 4294967296 → x.amendCount < 256 →
    (∀ v, x.cell = some v → v < 4294967296) → (∀ v, x.partner = some v → v < 65536) →
    let b := renderRecord x held
    let length := 34 + (if x.cell.isSome then 4 else 0) + (if x.partner.isSome then 2 else 0)
    let format := field b 2 1
    let after := if x.cell.isSome then 38 else 34
    b.length = (if x.cell.isSome then 40 else 36) ∧ field b 0 2 = length ∧ format % 4 = x.cls.code ∧ format.testBit 2 = x.cell.isSome ∧
    format.testBit 3 = x.partner.isSome ∧ format.testBit 4 = x.late ∧ format.testBit 5 = x.clamped ∧ format.testBit 6 = held ∧ format < 128 ∧
    field b 3 1 = x.amendCount ∧ field b 4 2 = x.source ∧ field b 6 6 = x.sequence ∧ field b 12 6 = x.key ∧ field b 18 4 = x.start ∧
    field b 22 4 = x.duration ∧ field b 26 4 = x.volume ∧ field b 30 4 = x.charge ∧ (∀ v, x.cell = some v → field b 34 4 = v) ∧
    (∀ v, x.partner = some v → field b after 2 = v) ∧ (∀ n, length ≤ n → n < b.length → b[n]? = some 0) ∧
    wholeSize (b ++ rest) = some b.length ∧
    (x.sequence < 1099511627776 → readDelivered (b ++ rest) =
      { source := x.source, sequence := x.sequence, key := x.key, cls := x.cls, start := x.start, duration := x.duration, volume := x.volume,
        charge := x.charge, cell := x.cell, partner := x.partner,
        mustBeZero := decide (x.amendCount = 0) && !x.late && !x.clamped && !held }) ∧
    (1099511627776 ≤ x.sequence → (readDelivered (b ++ rest)).mustBeZero = false)) ∧
  (∀ (b : Bytes) (n : Nat), wholeSize b = some n ↔
    3 ≤ b.length ∧ field b 0 2 = 34 + (if (field b 2 1).testBit 2 then 4 else 0) + (if (field b 2 1).testBit 3 then 2 else 0) ∧
    n = (field b 0 2 + 3) / 4 * 4 ∧ n ≤ b.length) ∧
  ∀ (b : Bytes) (x : Params),
    let option (v : Option Nat) : Bytes := match v with | none => [0] | some n => [1] ++ be 4 n
    let within (v : Option Nat) : Prop := ∀ n, v = some n → n < 4294967296
    (readParams .setTime b = some x ↔ ∃ v, v < 4294967296 ∧ b = be 4 v ∧ x = .setTime v) ∧
    (readParams .closeDay b = some x ↔ ∃ v, v < 65536 ∧ b = be 2 v ∧ x = .closeDay v) ∧
    (readParams .setRetention b = some x ↔ ∃ v w now, v < 256 ∧ w < 65536 ∧ b = be 1 v ++ be 2 w ++ flag now ∧ x = .setRetention v w now) ∧
    (readParams .placeHold b = some x ↔ ∃ h : Hold, h.label < 4294967296 ∧ h.key < 281474976710656 ∧ h.maskBits < 256 ∧ h.firstDay < 65536 ∧
      h.lastDay < 65536 ∧ h.classMask < 16 ∧
      b = be 4 h.label ++ be 6 h.key ++ be 1 h.maskBits ++ be 2 h.firstDay ++ be 2 h.lastDay ++ be 1 h.classMask ∧ x = .placeHold h) ∧
    (readParams .releaseHold b = some x ↔ ∃ v, v < 256 ∧ b = be 1 v ∧ x = .releaseHold v) ∧
    (readParams .listHolds b = some x ↔ b = [] ∧ x = .listHolds) ∧
    (readParams .setConfig b = some x ↔ ∃ l : List (Nat × Nat), l.length < 65536 ∧ (∀ e ∈ l, e.1 < 256 ∧ e.2 < 4294967296) ∧
      b = be 2 l.length ++ l.flatMap (fun e => be 1 e.1 ++ be 4 e.2) ∧ x = .setConfig l) ∧
    (readParams .saveConfig b = some x ↔ b = [] ∧ x = .saveConfig) ∧
    (readParams .readStatus b = some x ↔ ∃ clear, b = flag clear ∧ x = .readStatus clear) ∧
    (readParams .readCounters b = some x ↔ ∃ v, v < 256 ∧ b = be 1 v ∧ x = .readCounters v) ∧
    (readParams .clearCounters b = some x ↔ b = [] ∧ x = .clearCounters) ∧
    (readParams .partitionInfo b = some x ↔ ∃ v w, v < 65536 ∧ w < 4294967296 ∧ b = be 2 v ++ be 4 w ∧ x = .partitionInfo v w) ∧
    (readParams .reset b = some x ↔ b = [] ∧ x = .reset) ∧
    (readParams .linkReset b = some x ↔ x = .linkReset) ∧
    (readParams .fileOpen b = some x ↔ ∃ v w, v < 65536 ∧ w < 4294967296 ∧ b = be 2 v ++ be 4 w ∧ x = .fileOpen v w) ∧
    (readParams .records b = some x ↔ x = .records) ∧
    (readParams .fileClose b = some x ↔ (b = [0] ∧ x = .fileClose none) ∨ ∃ (v : Nat) (w : Int), v < 18446744073709551616 ∧
      -9223372036854775808 ≤ w ∧ w < 9223372036854775808 ∧ b = [1] ++ be 8 v ++ beInt w ∧ x = .fileClose (some (v, w))) ∧
    (readParams .fileAbort b = some x ↔ b = [] ∧ x = .fileAbort) ∧
    (readParams .fetch b = some x ↔ ∃ v, v < 18446744073709551616 ∧ b = be 8 v ∧ x = .fetch v) ∧
    (readParams .querySubscriber b = some x ↔ ∃ p : SubscriberParams, p.key < 281474976710656 ∧ p.firstDay < 65536 ∧ p.lastDay < 65536 ∧
      p.classMask < 16 ∧ 1 ≤ p.limit ∧ p.limit ≤ 256 ∧
      (∀ r, p.resume = some r → r.day < 65536 ∧ r.start < 4294967296 ∧ r.ref < 18446744073709551616) ∧
      b = be 6 p.key ++ be 2 p.firstDay ++ be 2 p.lastDay ++ be 1 p.classMask ++ be 1 (p.limit - 1) ++
        (match p.resume with | none => [0] | some r => [1] ++ be 2 r.day ++ be 4 r.start ++ be 8 r.ref) ∧ x = .querySubscriber p) ∧
    (readParams .amend b = some x ↔ ∃ p : AmendParams, p.ref < 18446744073709551616 ∧ p.expected < 256 ∧ p.charge < 4294967296 ∧
      within p.duration ∧ within p.volume ∧
      b = be 8 p.ref ++ be 1 p.expected ++ be 4 p.charge ++ option p.duration ++ option p.volume ∧ x = .amend p) ∧
    (readParams .readAccount b = some x ↔ ∃ v w, v < 65536 ∧ w < 65536 ∧ b = be 2 v ++ be 2 w ∧ x = .readAccount v w) ∧
    (readParams .auditScan b = some x ↔ ∃ f : ScanFilter, f.sourceMatch < 65536 ∧ f.sourceMask < 65536 ∧ f.classMask < 16 ∧ f.firstDay < 65536 ∧
      f.lastDay < 65536 ∧ f.keyMatch < 281474976710656 ∧ f.keyMask < 281474976710656 ∧ f.flagsMatch < 16 ∧ f.flagsMask < 16 ∧
      b = be 2 f.sourceMatch ++ be 2 f.sourceMask ++ be 1 f.classMask ++ be 2 f.firstDay ++ be 2 f.lastDay ++ be 6 f.keyMatch ++
        be 6 f.keyMask ++ be 1 f.flagsMatch ++ be 1 f.flagsMask ∧ x = .auditScan f) ∧
    (readParams .verifyDays b = some x ↔ ∃ v w, v < 65536 ∧ w < 65536 ∧ b = be 2 v ++ be 2 w ∧ x = .verifyDays v w) ∧
    (readParams .cancel b = some x ↔ ∃ v, v < 256 ∧ b = be 1 v ∧ x = .cancel v)

/-- Reading a request frame back from its bytes gives its kind code, tag, context bytes and payload, for every well-formed frame (R12, R13,
R15, 1.4 Frames). -/
def Obligations.FrameRoundTrip : Prop :=
  ∀ (code : Nat) (r : Request), code < 256 → frameWellFormed r = true → readFrame (requestBytes code r) = some (code, r)

/-- HELLO opens the link when R19 and R179 let it; the RESET and lane lock pins, the warm reset among them (no effect elsewhere: log entry
6) (R19, R29, R30, R56, R124, R142, R158, R172, R179, R180, 2.7 Link reset, warm reset and HELLO, 10.5 Warm reset). -/
def Obligations.HelloAndThePins : Prop :=
  (∀ s : State,
    let due := s.active = true ∧ s.lp.link = .resetting ∧ s.power.laneLock = true ∧ s.ie.queue = [] ∧ s.power.resetPin = false
    (due → Answers .hello s (s.mapLp fun l =>
      { l with link := .opened, inUse := Credits.zero, withheld := 0, due := Credits.zero,
               wire := l.wire ++ [frameBytes 254 0x80 { control := 4, query := 16, shared := 8, frame := 32, block := 256 } []] })) ∧
    (¬ due → exec .hello s = .next s)) ∧
  (∀ s : State, Answers .laneLockReturn s (s.mapPower fun p => { p with laneLock := true })) ∧
  (∀ s : State, s.power.startUp = none → Answers .resetPinRelease s (s.mapPower fun p => { p with resetPin := false })) ∧
  (∀ s : State, ¬ (s.active = true ∧ s.power.resetPin = false) →
    exec .resetPinAssert s = .next (s.mapPower fun p => { p with resetPin := true })) ∧
  ∀ s : State, s.active = true → s.power.resetPin = false → ∃ t, exec .resetPinAssert s = .next t ∧
    WarmResetBegun (s.mapPower fun p => { p with resetPin := true }) t

/-- FRAME_SEND: the head of the output queue leaves with every pending credit; a RESET response begins the warm reset (an empty queue: log
entry 6) (R14, R23, R24, R25, R180, 2.5 Returning credits). -/
def Obligations.FrameSendSendsTheHead : Prop :=
  (∀ s : State, s.lp.outQueue = [] → exec .frameSend s = .next s) ∧
  (∀ (f : OutFrame) (rest : List OutFrame) (s : State), s.lp.outQueue = f :: rest →
    let carried : Credits := { s.lp.due with frame := s.lp.due.frame + f.riders }
    let sent := s.mapLp fun l =>
      { l with outQueue := rest, inUse := l.inUse.sub carried, due := Credits.zero,
               tags := if f.tag < 64 then Tab.del l.tags f.tag else l.tags,
               wire := l.wire ++ [frameBytes f.tag f.status carried f.payload] }
    (f.startsReset = false → Answers .frameSend s sent) ∧
    (f.startsReset = true → ∃ t, exec .frameSend s = .next t ∧ WarmResetBegun sent t))

/-- LINK_RESET and LANE_LOCK_LOSS in OPEN: the link reset, its end of scans and QUERY_SUBSCRIBERs, and the warm reset where a RESET answer
waits (R19, R28, R50, R52, R78, R91, R158, R164, R180, 2.7 Link reset, warm reset and HELLO). -/
def Obligations.LinkResetRestartsTheLink : Prop :=
  (∀ (r : Request) (s : State), s.lp.link = .opened → frameWellFormed r = true →
    let unlocked (t : State) : State := t.mapPower fun p => { p with laneLock := false }
    let restarted (l : LinkPort) : LinkPort :=
      { l with link := .resetting, epoch := l.epoch + 1, tags := [], outQueue := [], buffer := [], due := Credits.zero, withheld := 0 }
    let slotAt (n : Nat) (stage : Stage) (p : ScanSlot → Bool) : Bool := (s.scanSlot n).any fun q => decide (q.stage = stage) && p q
    let subscriberAt (c : Nat) (stage : Stage) (p : QueryContext → Bool) : Bool :=
      (s.queryCtx c).any fun q => q.isSubscriber && decide (q.stage = stage) && p q
    let ended (u : State) : Prop :=
      u.lp = restarted s.lp ∧
      (∀ n, u.scanSlot n = (s.scanSlot n).bind fun q => if q.stage = .quantum then some { q with cancelling := true } else none) ∧
      (∀ c, u.queryCtx c = (s.queryCtx c).bind fun q =>
        if q.isSubscriber = false then some q else if q.stage = .quantum then some { q with cancelling := true } else none) ∧
      (∀ c, (s.queryCtx c).any (·.isSubscriber) = false → Tab.get u.qa.inFlight c = Tab.get s.qa.inFlight c) ∧
      (∀ k, u.wa.requests.get k = (s.wa.requests.get k).filter fun w => match w with
        | .slot n => !slotAt n .grantWait fun q => decide (q.work.kind = k)
        | .query c => !(decide (k = .query) && subscriberAt c .grantWait fun _ => true)
        | _ => true) ∧
      (∀ d p, s.part d = some p → ∃ q, u.part d = some q ∧ q = { p with
        moverWaiting := q.moverWaiting
        pins := p.pins - s.au.slots.countP (fun e => decide (e.2.stage = .grantWait) && decide (e.2.visiting = d)) -
          s.qa.contexts.countP (fun e => e.2.isSubscriber && decide (e.2.stage = .grantWait) && decide (e.2.day = d))
        waitQueue := p.waitQueue.filter fun w => match w with
          | .scan n => !slotAt n .pinWait fun q => decide (q.visiting = d)
          | .query c => !subscriberAt c .pinWait fun q => decide (q.day = d)
          | _ => true }) ∧
      (∀ d, s.part d = none → u.part d = none) ∧ u.wa = { s.wa with requests := u.wa.requests } ∧
      u.au = { s.au with slots := u.au.slots } ∧ u.ck = s.ck ∧ u.ix = s.ix ∧ u.hs = s.hs ∧ u.ie = s.ie ∧ u.ce = s.ce ∧ u.cs = s.cs ∧
      u.ru = s.ru ∧ u.cl = s.cl
    (s.lp.outQueue.any (·.startsReset) = false → TablesKeyed s → (∀ e ∈ s.au.slots, e.2.epoch ≤ s.lp.epoch) →
      (∀ e ∈ s.qa.contexts, e.2.epoch ≤ s.lp.epoch) →
      (∃ u, exec (.linkReset r) s = .next (settle u) ∧ ended u ∧ u.power = s.power) ∧
      ∃ u, exec .laneLockLoss s = .next (settle u) ∧ ended u ∧ u.power = (unlocked s).power) ∧
    (s.lp.outQueue.any (·.startsReset) = false → Settled s → s.au.slots = [] → (∀ e ∈ s.qa.contexts, e.2.isSubscriber = false) →
      exec (.linkReset r) s = .next (s.mapLp restarted) ∧ exec .laneLockLoss s = .next (unlocked (s.mapLp restarted))) ∧
    (s.lp.outQueue.any (·.startsReset) = true →
      (∃ t, exec (.linkReset r) s = .next t ∧ WarmResetBegun s t) ∧ ∃ t, exec .laneLockLoss s = .next t ∧ WarmResetBegun (unlocked s) t)) ∧
  ∀ s : State, s.lp.link = .resetting → Answers .laneLockLoss s (s.mapPower fun p => { p with laneLock := false })

/-- WARM_RESET_END: queues rebuilt in day order, pressure evaluated anew, a full scheduling pass (outside a warm reset it does nothing: log
entry 6) (R48, R56, R124, R128, R134, R135, R142, R170, R172, R180, 10.5 Warm reset). -/
def Obligations.WarmResetEndRebuilds : Prop :=
  (∀ s : State, s.power.powered = true → s.power.warmReset = true → s.power.resetPin = false → TablesKeyed s →
    let free := 67108864 - s.hs.slots.length
    let pressed := if s.wa.pressure then decide (free < s.cl.settings.highWatermark) else decide (free < s.cl.settings.lowWatermark)
    let leaves (p : Partition) : Bool := decide (p.state = .opened) && p.dayClosed && (p.quietExpired || pressed)
    ∃ u, exec .warmResetEnd s = .next (settle u) ∧ u.power = { s.power with warmReset := false } ∧
      u.wa.packQueue = Tab.keysWhere s.pc.parts (fun _ p => decide (p.state = .quiet)) ++ Tab.keysWhere s.pc.parts (fun _ p => leaves p) ∧
      u.wa.repackQueue = Tab.keysWhere s.pc.parts (fun _ p => decide (p.state = .packed) && (s.hotTest p || s.sparseTest p)) ∧
      u.wa = { s.wa with pressure := pressed, packQueue := u.wa.packQueue, repackQueue := u.wa.repackQueue } ∧
      (∀ d, s.part d = none → u.part d = none) ∧
      (∀ d p, s.part d = some p → ∃ q, u.part d = some q ∧
        q = { p with state := if leaves p then .quiet else p.state, expiryDue := q.expiryDue }) ∧
      FullPass s.ck.clockSet (s.ck.archiveTime / 86400) s u ∧ u.ru.holds = s.ru.holds ∧ u.ru.table = s.ru.table ∧
      (s.lp.withheld = 0 → u.lp = s.lp) ∧ u.ck = s.ck ∧ u.ix = s.ix ∧ u.hs = s.hs ∧ u.ie = s.ie ∧ u.qa = s.qa ∧ u.ce = s.ce ∧ u.cs = s.cs ∧
      u.au = s.au ∧ u.cl = s.cl) ∧
  ∀ s : State, (s.power.warmReset = false ∨ s.power.resetPin = true) → exec .warmResetEnd s = .next s

/-- POWER_ON and a waiting start-up: settings from the image or the defaults, then INITIALISE or RESUME (log entries 6 and 38) (R30, R37,
R56, R57, R58, R107, R124, R161, R173, R174, R178, R179). -/
def Obligations.StartUpPaths : Prop :=
  (∀ (fault lost during : Bool) (s : State), s.power.powered = false → s.power.resetPin = false →
    let i := s.cl.image
    let good := fault = false ∧ i.marker = true ∧ i.format = 1 ∧ i.settings.length = 23 ∧ i.check = crc32 (be 1 1 ++ i.settings.flatMap (be 4))
    let low := settingHeld 0 7 (i.settings.getD 6 0)
    let defaults : List Nat := [2, 8, 3, 6, 4096, 50, 4194304, 8388608, 0, 1, 2, 2, 2, 3, 3, 5, 3, 3, 63, 400, 400, 180, 90]
    let fresh (value : Nat → Nat) (u : State) : Prop := u.pc.parts = [] ∧ u.ix.map = [] ∧ u.ix.signatureValid = true ∧ u.hs.slots = [] ∧
      u.cs.dir = [] ∧ u.au.accounts = [] ∧ u.ru.holds = [] ∧ u.ck.archiveTime = 0 ∧ u.ck.rolloverDay = 0 ∧ u.wa.pressure = false ∧ u.wa.packQueue = [] ∧ u.wa.repackQueue = [] ∧
      ∀ c : CallClass, u.ru.table.get c = { active := value (20 + c.code), pending := value (20 + c.code) }
    let stranded (k : Nat) (x : CallRecord) : Bool := decide ((s.lookup x.ref).map (·.loc) ≠ some (.hot k))
    let rested (d : Nat) (p : Partition) : Partition := restedPartition
      { p with hotCount := p.hotCount - s.hs.slots.countP fun e => stranded e.1 e.2 && decide (e.2.start / 86400 = d) }
    let resumed (u : State) : Prop :=
      u.ix = s.ix ∧ u.au.accounts = s.au.accounts ∧ u.ru.holds = s.ru.holds ∧ u.ru.table = s.ru.table ∧
      u.ck.archiveTime = s.ck.archiveTime ∧ u.ck.rolloverDay = s.ck.rolloverDay ∧
      (TablesKeyed s →
        (∀ n, u.seg n = (s.seg n).filter fun e => decide (e.state ≠ .writing)) ∧
        (∀ k, Tab.get u.hs.slots k = (Tab.get s.hs.slots k).filter fun x => !stranded k x) ∧
        u.wa.pressure = decide (67108864 - u.hs.slots.length < u.cl.settings.lowWatermark) ∧
        (∀ d, u.part d = (s.part d).map fun p => let q := rested d p
          { q with state := if q.state = .opened ∧ q.dayClosed ∧ u.wa.pressure then .quiet else q.state }) ∧
        u.wa.packQueue = Tab.keysWhere s.pc.parts (fun _ p => decide (p.state = .quiet ∨ p.state = .packing)) ++
          Tab.keysWhere s.pc.parts (fun _ p => decide (p.state = .opened) && p.dayClosed && u.wa.pressure) ∧
        u.wa.repackQueue = Tab.keysWhere s.pc.parts fun d p => decide (p.state = .packed ∨ p.state = .repacking) &&
          (u.part d).any fun q => u.hotTest q || u.sparseTest q)
    ∃ (value : Nat → Nat) (u : State), exec (.powerOn fault ⟨lost, during⟩) s = .next (settle u) ∧
      u.power = { s.power with powered := true, startUp := none, warmReset := false, resetPin := during } ∧
      (good → u.cl.source = .image ∧ ∀ n, 1 ≤ n → n ≤ 23 → value n = settingHeld low n (i.settings.getD (n - 1) 0)) ∧
      (¬ good → u.cl.source = .defaults ∧ ∀ n, 1 ≤ n → n ≤ 23 → value n = defaults.getD (n - 1) 0) ∧
      (∀ n, 1 ≤ n → n ≤ 19 → u.setting n = value n) ∧ u.cl = { settings := u.cl.settings, source := u.cl.source, image := s.cl.image, saving := none } ∧
      u.ck.clockSet = false ∧ u.ck.tick = s.ck.tick ∧
      u.lp = { link := .resetting, epoch := 0, tags := [], inUse := Credits.zero, withheld := 0, due := Credits.zero, buffer := [],
               outQueue := [], wire := s.lp.wire } ∧
      u.ie = { contexts := List.replicate 32 { generation := 0, file := none }, queue := [], drain := none } ∧
      u.qa = { contexts := [], inFlight := [] } ∧ u.ce = { job := none, coldFull := false, coldWait := [] } ∧
      u.ru.queue = [] ∧ u.ru.sweep = none ∧
      u.au = { accounts := u.au.accounts, current := List.replicate 40 0, previous := List.replicate 40 0, captureDay := none, slots := [],
               cursorDay := 0, cursorPlace := 0, patrolElapsed := 0, patrol := none, damageFound := false } ∧
      u.wa = { engine := none, requests := PerKind.all [], packQueue := u.wa.packQueue, repackQueue := u.wa.repackQueue,
               pointers := [none, none, none, none], phase := .active, elapsed := 0, pressure := u.wa.pressure } ∧
      (lost = true ∨ s.ix.signatureValid = false → fresh value u) ∧ (lost = false → s.ix.signatureValid = true → resumed u)) ∧
  (∀ (fault lost during : Bool) (s : State), s.power.powered = false → s.power.resetPin = true →
    exec (.powerOn fault ⟨lost, during⟩) s = .next { s with
      power := { s.power with powered := true, startUp := some { eepromFault := fault, resetDuring := during }, warmReset := false }
      ix := { s.ix with signatureValid := s.ix.signatureValid && !lost } }) ∧
  (∀ (u : StartUp) (s : State), s.power.powered = true → s.power.startUp = some u → s.power.warmReset = false →
    exec .resetPinRelease s = exec (.powerOn u.eepromFault ⟨false, u.resetDuring⟩) (s.mapPower fun p =>
      { p with powered := false, startUp := none, resetPin := false })) ∧
  ∀ (fault lost during : Bool) (s : State), s.power.powered = true → exec (.powerOn fault ⟨lost, during⟩) s = .next s

/-- LOSS_OF_NODE_POWER keeps archive tables, archive time, rollover day and image; transient state is lost (what clears when: log entries
4, 6, 27) (R18, R35, R58, R83, R101, R129, R143, R177, 3.7 Resets). -/
def Obligations.PowerLossKeepsTheArchive : Prop :=
  (∀ s : State, s.power.powered = true → ∃ t, exec .lossOfNodePower s = .next t ∧ t.power.powered = false ∧
    t.ix = s.ix ∧ t.hs = s.hs ∧ t.cs = s.cs ∧ t.pc = s.pc ∧ t.au.accounts = s.au.accounts ∧ t.ru.holds = s.ru.holds ∧ t.ru.table = s.ru.table ∧
    t.ck.archiveTime = s.ck.archiveTime ∧ t.ck.rolloverDay = s.ck.rolloverDay ∧ t.cl.image = s.cl.image ∧
    t.ie.queue = [] ∧ t.lp.buffer = [] ∧ t.lp.outQueue = [] ∧ t.qa.contexts = [] ∧ t.au.slots = [] ∧ t.ce.job = none ∧ t.cl.saving = none) ∧
  ∀ s : State, s.power.powered = false → exec .lossOfNodePower s = .next s

/-- SET_TIME: CLOCK_BACKWARD, or the time taken with at most one rollover and what it does to days, timers, retentions, sweeps and counters
(log entry 19) (R37, R38, R39, R43, R45, R47, R127, R134, R135, R150, 3.1 Archive time). -/
def Obligations.SetTimeServed : Prop :=
  ∀ (r : Request) (t : Nat) (pool : Pool) (s : State), Requested .setTime r (.setTime t) pool s →
    (t < s.ck.archiveTime → Answers (.setTime r) s (replied .setTime r pool Status.clockBackward (be 4 s.ck.archiveTime) s)) ∧
    (s.ck.archiveTime ≤ t →
      let rolls := decide (s.ck.rolloverDay < t / 86400)
      let after (d : Nat) (p : Partition) : Partition := partAfterTime (Config.intervalSeconds.getD s.cl.settings.quietCode 0)
        (if s.ck.clockSet then t - s.ck.archiveTime else 0) (rolls && decide (d + s.cl.settings.graceDays < t / 86400)) s.wa.pressure p
      ∃ u, exec (.setTime r) s = .next (settle u) ∧
        u.ck = { archiveTime := t, clockSet := true, rolloverDay := if rolls then t / 86400 else s.ck.rolloverDay, tick := s.ck.tick } ∧
        u.lp = (replied .setTime r pool Status.ok (be 4 t ++ be 1 (if rolls then 1 else 0)) s).lp ∧
        u.au = { s.au with previous := if rolls then s.au.current else s.au.previous,
                           captureDay := if rolls then some (t / 86400) else s.au.captureDay } ∧
        (∀ c, u.ru.table.get c =
          if rolls then { active := (s.ru.table.get c).pending, pending := (s.ru.table.get c).pending } else s.ru.table.get c) ∧
        (∀ d, s.part d = none → u.part d = none) ∧
        (∀ d p, s.part d = some p → ∃ q, u.part d = some q ∧ q = { after d p with expiryDue := q.expiryDue }) ∧
        (TablesKeyed s → FullPass (rolls || !s.ck.clockSet) (t / 86400) s u) ∧
        (TablesKeyed s → (∀ d p, s.part d = some p → p.state = .opened → d ∉ s.wa.packQueue) →
          u.wa.packQueue = s.wa.packQueue ++
            Tab.keysWhere s.pc.parts fun d p => decide (p.state = .opened) && decide ((after d p).state = .quiet)) ∧
        u.wa = { s.wa with packQueue := u.wa.packQueue } ∧ u.ix = s.ix ∧ u.hs = s.hs ∧ u.ru.holds = s.ru.holds ∧ u.ie = s.ie ∧ u.qa = s.qa ∧
        u.ce = s.ce ∧ u.cs = s.cs ∧ u.cl = s.cl ∧ u.power = s.power)

/-- SECOND_EVENT: archive time, timers of days, files and patrol, HOT_SLOT_SECONDS, one rollover (log entries 10, 12, 16, 19, 40; elsewhere
nothing: 6) (R35, R39, R43, R45, R76, R127, R134, R135, R150, R161, R162, 3.1 Archive time). -/
def Obligations.SecondEventAdvances : Prop :=
  (∀ s : State, s.running = true → s.ck.archiveTime < 4294967295 →
    let day := (s.ck.archiveTime + 1) / 86400
    let rolls := s.ck.clockSet && decide (s.ck.rolloverDay < day)
    let interval (code : Nat) : Nat := Config.intervalSeconds.getD code 0
    let after (d : Nat) (p : Partition) : Partition := partAfterTime (interval s.cl.settings.quietCode)
      (if s.ck.clockSet then 1 else 0) (rolls && decide (d + s.cl.settings.graceDays < day)) s.wa.pressure p
    let counts := s.au.patrol = none ∧ s.cl.settings.patrolCode ≠ 0
    let begins := counts ∧ interval s.cl.settings.patrolCode ≤ s.au.patrolElapsed + 1
    let above := s.dayFrom s.au.cursorDay 49710
    let found := if begins then (if above.isSome then above else s.dayFrom 0 49710) else none
    let idle (i : Nat) (c : FileContext) (f : OpenFile) : Nat :=
      if s.cl.settings.fileIdleCode = 0 ∨ (s.ie.queue.any fun e => e.ctx == i && e.gen == c.generation) then f.idle else f.idle + 1
    let timesOut (count : Nat) : Bool := decide (s.cl.settings.fileIdleCode ≠ 0) && decide (interval s.cl.settings.fileIdleCode ≤ count)
    let aged (i : Nat) (c : FileContext) : FileContext :=
      { c with file := c.file.bind fun f => if timesOut (idle i c f) then none else some { f with idle := idle i c f } }
    let isOpen (c : FileContext) : Bool := c.file.isSome
    ∃ u, exec .secondEvent s = .next (settle u) ∧
      u.ck = { s.ck with archiveTime := s.ck.archiveTime + 1, rolloverDay := if rolls then day else s.ck.rolloverDay } ∧
      u.ie = { s.ie with contexts := s.ie.contexts.mapIdx aged } ∧
      u.au.current = bankAdd (bankAdd s.au.current .hotSlotSeconds s.hs.slots.length) .filesTimedOut
        (s.ie.contexts.countP isOpen - u.ie.contexts.countP isOpen) ∧
      u.au.previous = (if rolls then u.au.current else s.au.previous) ∧
      u.au.captureDay = (if rolls then some day else s.au.captureDay) ∧
      u.au.patrol = (if begins then found.map fun d => { began := some d, wrapped := false, day := d, seg := 0, place := 0, stage := .pinWait }
        else s.au.patrol) ∧
      (¬ begins → u.au.patrolElapsed = if counts then s.au.patrolElapsed + 1 else s.au.patrolElapsed) ∧
      (begins → found = none → u.au.patrolElapsed = 0) ∧
      (u.au.cursorDay = if begins ∧ above = none then 0 else s.au.cursorDay) ∧
      (u.au.cursorPlace = if begins ∧ above = none then 0 else s.au.cursorPlace) ∧
      (∀ c, u.ru.table.get c =
        if rolls then { active := (s.ru.table.get c).pending, pending := (s.ru.table.get c).pending } else s.ru.table.get c) ∧
      (∀ d, s.part d = none → u.part d = none) ∧
      (∀ d p, s.part d = some p → ∃ q, u.part d = some q ∧
        q = { after d p with expiryDue := q.expiryDue, moverWaiting := q.moverWaiting, waitQueue := q.waitQueue } ∧
        q.waitQueue = if found = some d then p.waitQueue ++ [.patrol] else p.waitQueue) ∧
      (TablesKeyed s → FullPass rolls day s u) ∧
      (TablesKeyed s → (∀ d p, s.part d = some p → p.state = .opened → d ∉ s.wa.packQueue) →
        u.wa.packQueue = s.wa.packQueue ++
          Tab.keysWhere s.pc.parts fun d p => decide (p.state = .opened) && decide ((after d p).state = .quiet)) ∧
      u.wa = { s.wa with packQueue := u.wa.packQueue } ∧ u.ix = s.ix ∧ u.hs = s.hs ∧ u.au.accounts = s.au.accounts ∧
      u.au.slots = s.au.slots ∧ u.au.damageFound = s.au.damageFound ∧ u.ru.holds = s.ru.holds ∧ u.lp = s.lp ∧ u.qa = s.qa ∧ u.ce = s.ce ∧
      u.cs = s.cs ∧ u.cl = s.cl ∧ u.power = s.power) ∧
  ∀ s : State, (s.running = false ∨ 4294967295 ≤ s.ck.archiveTime) → exec .secondEvent s = .next s

/-- The timer expiry rows: a quiet, file idle or patrol timer found at its interval; the patrol's search at its pin grant (log entries 8,
12, 16, 19, 40) (R40, R45, R47, R48, R76, R161, R162, 3.2 Interval codes, 8.5 The patrol). -/
def Obligations.TimerExpiries : Prop :=
  (∀ (day : Nat) (p : Partition) (s : State), s.running = true → s.part day = some p → p.state = .opened → p.quietExpired = false →
    s.cl.settings.quietCode ≠ 0 → Config.intervalSeconds.getD s.cl.settings.quietCode 0 ≤ p.quietElapsed →
    ∃ u, exec (.quietTimerExpiry day) s = .next (settle u) ∧
      u.part day = some { p with quietExpired := true, state := if p.dayClosed then .quiet else .opened } ∧
      (p.dayClosed = true → day ∈ u.wa.packQueue) ∧ u.ix = s.ix ∧ u.lp = s.lp ∧ u.ck = s.ck ∧ u.au = s.au ∧ u.hs = s.hs ∧
      u.ie = s.ie ∧ u.qa = s.qa ∧ u.ce = s.ce ∧ u.cs = s.cs ∧ u.ru = s.ru ∧ u.cl = s.cl ∧ u.power = s.power) ∧
  (∀ (ctx : Nat) (g : Nat) (f : OpenFile) (s : State), s.ie.contexts[ctx]? = some { generation := g, file := some f } →
    s.cl.settings.fileIdleCode ≠ 0 → Config.intervalSeconds.getD s.cl.settings.fileIdleCode 0 ≤ f.idle → Settled s →
    exec (.fileIdleExpiry ctx) s = .next
      ((s.mapIe fun e => { e with contexts := e.contexts.set ctx { generation := g, file := none } }).mapAu fun a =>
        { a with current := bankAdd a.current .filesTimedOut 1 })) ∧
  (∀ s : State, s.running = true → s.au.patrol = none → s.cl.settings.patrolCode ≠ 0 →
    Config.intervalSeconds.getD s.cl.settings.patrolCode 0 ≤ s.au.patrolElapsed →
    (s.pc.parts = [] → Settled s → exec .patrolTimerExpiry s = .next (s.mapAu fun a =>
      { a with cursorDay := 0, cursorPlace := 0, patrolElapsed := 0 })) ∧
    (∀ d p, (s.dayFrom s.au.cursorDay 49710 = some d ∨ (s.dayFrom s.au.cursorDay 49710 = none ∧ s.dayFrom 0 49710 = some d)) → s.part d = some p →
      let wraps := s.dayFrom s.au.cursorDay 49710 = none
      ∃ u, exec .patrolTimerExpiry s = .next (settle u) ∧
        u.au.patrol = some { began := some d, wrapped := false, day := d, seg := 0, place := 0, stage := .pinWait } ∧
        (∃ q, u.part d = some q ∧ q.waitQueue = p.waitQueue ++ [.patrol]) ∧
        u.au.cursorDay = (if wraps then 0 else s.au.cursorDay) ∧
        u.au.cursorPlace = (if wraps then 0 else s.au.cursorPlace) ∧ u.ix = s.ix ∧ u.lp = s.lp ∧ u.ck = s.ck ∧
        u.hs = s.hs ∧ u.ie = s.ie ∧ u.qa = s.qa ∧ u.ce = s.ce ∧ u.cs = s.cs ∧ u.ru = s.ru ∧ u.wa = s.wa ∧ u.cl = s.cl ∧ u.power = s.power)) ∧
  ∀ (w : PatrolStep) (b : Nat) (s : State), s.au.patrol = some w → w.began = some b → TablesKeyed s →
    let ends (day : Nat) (x : State) : State :=
      { x with au := { x.au with patrol := none, patrolElapsed := 0, cursorDay := day, cursorPlace := 0 } }
    let asks (d : Nat) (wraps : Bool) (x : State) : State := { x with
      au := { x.au with
        patrol := some { w with wrapped := w.wrapped || wraps, day := d, stage := .pinWait }
        cursorDay := if wraps then 0 else w.day + 1, cursorPlace := 0 }
      pc := { x.pc with parts := Tab.upd x.pc.parts d fun y =>
        { y with waitQueue := y.waitQueue ++ [.patrol], moverWaiting := y.waitQueue.any Waiter.isMover } } }
    let listed (d : Nat) : Prop := d ≤ 49710 ∧ (s.part d).isSome = true
    let goesOn (x u : State) : Prop :=
      (∀ d, listed d → w.day < d → (∀ i, listed i → w.day < i → d ≤ i) → u = if w.wrapped ∧ b ≤ d then ends b x else asks d false x) ∧
      ((∀ d, listed d → d ≤ w.day) →
        (∀ d, listed d → (∀ i, listed i → d ≤ i) → u = if w.wrapped ∨ b ≤ d then ends b x else asks d true x) ∧
        ((∀ d, ¬ listed d) → u = ends 0 x))
    goesOn s (patrolReleased s) ∧
    ∀ p, s.part w.day = some p →
      let start := if w.day = s.au.cursorDay then s.au.cursorPlace else 0
      (∀ i n, start ≤ i → p.segments[i]? = some n → s.segActive n = true →
        (∀ j m, start ≤ j → j < i → p.segments[j]? = some m → s.segActive m = false) → patrolPinned s = { s with
          au := { s.au with patrol := some { w with seg := n, place := i, stage := .grantWait } }
          wa := { s.wa with requests := s.wa.requests.set .patrol (s.wa.requests.get .patrol ++ [.patrol]) } }) ∧
      ((∀ j m, start ≤ j → p.segments[j]? = some m → s.segActive m = false) →
        goesOn { s with pc := { s.pc with parts := Tab.upd s.pc.parts w.day fun y => { y with pins := y.pins - 1 } } } (patrolPinned s))

/-- MILLISECOND_TICK and THROTTLE_PHASE_END: the window counts ticks and its phase ends at its length (when they act: log entries 6, 8, 16)
(R36, R168, 9.4 Throttle windows). -/
def Obligations.ThrottleWindowRuns : Prop :=
  (∀ s : State, s.running = true →
    let rest := Config.restMillis.getD s.cl.settings.restCode 0
    let length := match s.wa.phase with | .active => Config.activeMillis.getD s.cl.settings.activeCode 0 | .rest => rest
    let next : WindowPhase := match s.wa.phase with | .active => if rest = 0 then .active else .rest | .rest => .active
    (exec .millisecondTick s = .next (settle ((s.mapCk fun k => { k with tick := k.tick + 1 }).mapWa fun w =>
      if length ≤ w.elapsed + 1 then { w with phase := next, elapsed := 0 } else { w with elapsed := w.elapsed + 1 }))) ∧
    (exec .throttlePhaseEnd s = .next (settle (s.mapWa fun w =>
      if length ≤ w.elapsed then { w with phase := next, elapsed := 0 } else w)))) ∧
  ∀ s : State, s.running = false → exec .throttlePhaseEnd s = .next s ∧
    exec .millisecondTick s = .next (if s.power.powered then s.mapCk fun k => { k with tick := k.tick + 1 } else s)

/-- CLOSE_DAY: the answers in the order of R44, and the day closed and moved onward (the state answered: log entry 20) (R37, R44, R47, R48,
3.3 The Partition Table). -/
def Obligations.CloseDayServed : Prop :=
  ∀ (r : Request) (d : Nat) (pool : Pool) (s : State), Requested .closeDay r (.closeDay d) pool s → Settled s →
    (s.ck.clockSet = false → exec (.closeDay r) s = .next (replied .closeDay r pool Status.clockUnset [] s)) ∧
    (s.ck.clockSet = true → s.ck.archiveTime / 86400 ≤ d → exec (.closeDay r) s = .next (replied .closeDay r pool Status.valueRange [] s)) ∧
    (s.ck.clockSet = true → d < s.ck.archiveTime / 86400 → s.part d = none →
      exec (.closeDay r) s = .next (replied .closeDay r pool Status.notFound [] s)) ∧
    (∀ p, s.ck.clockSet = true → d < s.ck.archiveTime / 86400 → s.part d = some p → p.dayClosed = true →
      exec (.closeDay r) s = .next (replied .closeDay r pool Status.ok (be 1 p.state.code ++ [1]) s)) ∧
    (∀ p, s.ck.clockSet = true → d < s.ck.archiveTime / 86400 → s.part d = some p → p.dayClosed = false →
      let after : PartState := if p.state = .opened ∧ (p.quietExpired = true ∨ s.wa.pressure = true) then .quiet else p.state
      ∃ u, exec (.closeDay r) s = .next (settle u) ∧ u.part d = some { p with dayClosed := true, state := after } ∧
        (p.state = .opened → after = .quiet → d ∈ u.wa.packQueue) ∧
        u.lp = (replied .closeDay r pool Status.ok (be 1 after.code ++ [0]) s).lp ∧
        u.ix = s.ix ∧ u.hs = s.hs ∧ u.au = s.au ∧ u.ru = s.ru ∧ u.ck = s.ck ∧ u.ie = s.ie ∧ u.qa = s.qa ∧ u.ce = s.ce ∧ u.cs = s.cs ∧
        u.cl = s.cl ∧ u.power = s.power)

/-- PARTITION_INFO, READ_COUNTERS and READ_ACCOUNT: their refusals, or the fields in the order of R54, R151 and R147; they change nothing
(R54, R147, R151). -/
def Obligations.ReadingKindsServed : Prop :=
  (∀ (r : Request) (d first : Nat) (pool : Pool) (s : State), Requested .partitionInfo r (.partitionInfo d first) pool s →
    let answers (status : Nat) (payload : Bytes) : Prop := Answers (.partitionInfo r) s (replied .partitionInfo r pool status payload s)
    (49710 < d → answers Status.valueRange []) ∧ (d ≤ 49710 → s.part d = none → answers Status.notFound []) ∧
    (∀ p, d ≤ 49710 → s.part d = some p →
      let listed := (p.segments.drop first).take 512
      (p.segments.length ≤ first → listed = []) ∧
      answers Status.ok (be 2 d
        ++ be 1 (match p.state with | .opened => 1 | .quiet => 2 | .packing => 3 | .packed => 4 | .repacking => 5)
        ++ flag p.dayClosed ++ be 4 p.quietElapsed ++ flag p.quietExpired
        ++ be 8 p.live.voice ++ be 8 p.live.message ++ be 8 p.live.data ++ be 8 p.live.other ++ be 8 p.hotCount
        ++ be 1 p.pins ++ flag p.moverHolding ++ flag p.moverWaiting ++ be 1 p.expiryDue.mask ++ be 1 p.heldRemainder.mask
        ++ be 1 (if d ∈ s.wa.packQueue then 1 else if d ∈ s.ce.coldWait then 2 else if d ∈ s.wa.repackQueue then 3 else 0)
        ++ flag (Tab.get s.ru.queue d).isSome ++ be 4 p.segments.length
        ++ be 2 listed.length ++ listed.flatMap (be 4)))) ∧
  (∀ (r : Request) (bank : Nat) (pool : Pool) (s : State), Requested .readCounters r (.readCounters bank) pool s →
    let answers (status : Nat) (payload : Bytes) : Prop := Answers (.readCounters r) s (replied .readCounters r pool status payload s)
    let body (b : List Nat) : Bytes := (b.take 37).flatMap (be 4) ++ (b.drop 37).flatMap (be 8)
    let day : Bytes := match s.au.captureDay with | none => [0] | some d => [1] ++ be 2 d
    (1 < bank → answers Status.valueRange []) ∧ (bank = 0 → answers Status.ok ([0] ++ body s.au.current)) ∧
    (bank = 1 → answers Status.ok (day ++ body s.au.previous)) ∧
    (s.au.current.length = 40 → ([0] ++ body s.au.current).length = 173) ∧
    (s.au.previous.length = 40 → (day ++ body s.au.previous).length = if s.au.captureDay.isSome then 175 else 173)) ∧
  ∀ (r : Request) (source day : Nat) (pool : Pool) (s : State), Requested .readAccount r (.readAccount source day) pool s →
    let answers (status : Nat) (payload : Bytes) : Prop := Answers (.readAccount r) s (replied .readAccount r pool status payload s)
    (source = 0 ∨ 4095 < source ∨ 49710 < day → answers Status.valueRange []) ∧
    (1 ≤ source → source ≤ 4095 → day ≤ 49710 →
      (Tab.get s.au.accounts (accountKey source day) = none → answers Status.notFound []) ∧
      (∀ a, Tab.get s.au.accounts (accountKey source day) = some a →
        let live := a.storedSum + a.amendDelta - a.retiredSum
        live ≥ -9223372036854775808 → live < 9223372036854775808 →
        let view := be 8 a.stored ++ be 8 a.duplicates ++ beInt a.storedSum ++ be 8 a.amends ++ beInt a.amendDelta ++ be 8 a.retired
          ++ beInt a.retiredSum ++ be 8 a.live ++ beInt live
        view.length = 72 ∧ answers Status.ok view))

/-- SET_RETENTION: the pending value, clamped; with apply-now every pending value becomes active and a full pass follows (R37, R126, R127,
R128, R134, R135, 7.1 The Retention Table, 7.3 Scheduling sweeps). -/
def Obligations.SetRetentionServed : Prop :=
  ∀ (r : Request) (cls days : Nat) (now : Bool) (pool : Pool) (s : State),
    Requested .setRetention r (.setRetention cls days now) pool s → Settled s →
    (3 < cls → exec (.setRetention r) s = .next (replied .setRetention r pool Status.valueRange [] s)) ∧
    (∀ c : CallClass, c.code = cls →
      let held := min days 3650
      let clamped : Bytes := if 3650 < days then [0, 1, 2] else [0, 0]
      let table := s.ru.table.set c { active := (s.ru.table.get c).active, pending := held }
      (now = false → exec (.setRetention r) s = .next (replied .setRetention r pool Status.ok
        (clamped ++ be 2 (s.ru.table.get c).active ++ be 2 held) (s.mapRu fun u => { u with table := table }))) ∧
      (now = true → ∃ u, exec (.setRetention r) s = .next (settle u) ∧
        u.lp = (replied .setRetention r pool Status.ok (clamped ++ be 2 held ++ be 2 held) s).lp ∧
        (∀ k, u.ru.table.get k = { active := (table.get k).pending, pending := (table.get k).pending }) ∧
        u.ru.holds = s.ru.holds ∧ u.ck = s.ck ∧ u.ix = s.ix ∧ u.au = s.au ∧ u.hs = s.hs ∧ u.ie = s.ie ∧ u.qa = s.qa ∧ u.ce = s.ce ∧
        u.cs = s.cs ∧ u.cl = s.cl ∧ u.wa = s.wa ∧ u.power = s.power ∧
        (∀ d, s.part d = none → u.part d = none) ∧
        (∀ d p, s.part d = some p → ∃ q, u.part d = some q ∧ q = { p with expiryDue := q.expiryDue }) ∧
        (TablesKeyed s → FullPass s.ck.clockSet (s.ck.archiveTime / 86400) s u)))

/-- PLACE_HOLD: VALUE_RANGE, HOLD_TABLE_FULL, or the hold under the lowest id not in use; LIST_HOLDS: every active hold in ascending id
(R129, R131, R133, 7.2 The Hold Table). -/
def Obligations.PlaceAndListHolds : Prop :=
  (∀ (r : Request) (h : Hold) (pool : Pool) (s : State), Requested .placeHold r (.placeHold h) pool s →
    let answers (status : Nat) (payload : Bytes) (t : State) : Prop := Answers (.placeHold r) s (replied .placeHold r pool status payload t)
    (47 < h.maskBits ∨ 49710 < h.lastDay ∨ h.lastDay < h.firstDay ∨ h.classMask = 0 → answers Status.valueRange [] s) ∧
    (h.maskBits ≤ 47 → h.firstDay ≤ h.lastDay → h.lastDay ≤ 49710 → h.classMask ≠ 0 →
      (64 ≤ s.ru.holds.length → answers Status.holdTableFull [] s) ∧
      (s.ru.holds.length < 64 → Tab.rising s.ru.holds = true → (∀ e ∈ s.ru.holds, 1 ≤ e.1) →
        ∃ id, 1 ≤ id ∧ Tab.get s.ru.holds id = none ∧ (∀ j, 1 ≤ j → j < id → (Tab.get s.ru.holds j).isSome) ∧
          answers Status.ok (be 1 id) (s.mapRu fun u => { u with holds := Tab.put u.holds id h }) ∧
          Tab.get (Tab.put s.ru.holds id h) id = some h ∧ ∀ j, j ≠ id → Tab.get (Tab.put s.ru.holds id h) j = Tab.get s.ru.holds j))) ∧
  ∀ (r : Request) (pool : Pool) (s : State), Requested .listHolds r .listHolds pool s →
    let element (e : Nat × Hold) : Bytes :=
      be 1 e.1 ++ be 4 e.2.label ++ be 6 e.2.key ++ be 1 e.2.maskBits ++ be 2 e.2.firstDay ++ be 2 e.2.lastDay ++ be 1 e.2.classMask
    let list := be 2 s.ru.holds.length ++ s.ru.holds.flatMap element
    Answers (.listHolds r) s (replied .listHolds r pool Status.ok list s) ∧
    (∀ e, (element e).length = 17) ∧ (s.ru.holds.length ≤ 64 → list.length ≤ 1090) ∧
    (Tab.rising s.ru.holds = true → List.Pairwise (fun a b => a.1 < b.1) s.ru.holds)

/-- RELEASE_HOLD: HOLD_NOT_FOUND, or the hold freed, the flags it covers cleared, the pass over them, and the count of days it marked
(R128, R132, R134, R135, R136, 7.2 The Hold Table). -/
def Obligations.ReleaseHoldServed : Prop :=
  ∀ (r : Request) (id : Nat) (pool : Pool) (s : State), Requested .releaseHold r (.releaseHold id) pool s →
    (Tab.get s.ru.holds id = none → Answers (.releaseHold r) s (replied .releaseHold r pool Status.holdNotFound [] s)) ∧
    (∀ h, Tab.get s.ru.holds id = some h → TablesKeyed s →
      let clears (d : Nat) (p : Partition) (c : CallClass) : Bool :=
        decide (h.firstDay ≤ d) && decide (d ≤ h.lastDay) && maskSelects h.classMask c && p.heldRemainder.get c
      let due (d : Nat) (p : Partition) (c : CallClass) : Bool := p.expiryDue.get c ||
        (s.ck.clockSet && clears d p c && decide (0 < p.live.get c) && decide ((s.ru.table.get c).active ≠ 0) &&
          decide (d + (s.ru.table.get c).active < s.ck.archiveTime / 86400))
      let anyClass (f : CallClass → Bool) : Bool := f .voice || f .message || f .data || f .other
      let marks (d : Nat) (p : Partition) : Bool := s.ck.clockSet && anyClass (clears d p) && anyClass (due d p)
      ∃ u, exec (.releaseHold r) s = .next (settle u) ∧
        u.lp = (replied .releaseHold r pool Status.ok (be 2 (s.pc.parts.countP fun e => marks e.1 e.2)) s).lp ∧
        Tab.get u.ru.holds id = none ∧ (∀ j, j ≠ id → Tab.get u.ru.holds j = Tab.get s.ru.holds j) ∧
        (∀ d, s.part d = none → u.part d = none) ∧
        (∀ d p, s.part d = some p → ∃ q, u.part d = some q ∧ q = { p with heldRemainder := q.heldRemainder, expiryDue := q.expiryDue } ∧
          (∀ c, q.heldRemainder.get c = (p.heldRemainder.get c && !clears d p c)) ∧ ∀ c, q.expiryDue.get c = due d p c) ∧
        (∀ d, Tab.get u.ru.queue d = sweepQueued ((s.part d).any (marks d)) (Tab.get s.ru.queue d)) ∧
        u.ru.sweep = s.ru.sweep ∧ u.ru.table = s.ru.table ∧ u.ck = s.ck ∧ u.ix = s.ix ∧ u.hs = s.hs ∧ u.au = s.au ∧ u.ie = s.ie ∧
        u.qa = s.qa ∧ u.ce = s.ce ∧ u.cs = s.cs ∧ u.cl = s.cl ∧ u.wa = s.wa ∧ u.power = s.power)

/-- SET_CONFIG: refused whole, or every value held to its range and in force at that event, with each owner's effect (log entries 9, 12,
19, 22, 34 and 41) (R26, R40, R48, R55, R76, R126, R161, R168, R170, R174, R175, R176). -/
def Obligations.SetConfigServed : Prop :=
  ∀ (r : Request) (els : List (Nat × Nat)) (pool : Pool) (s : State), Requested .setConfig r (.setConfig els) pool s →
    s.cl.saving = none → s.waits .loader = false →
    let bad := els.any (fun e => e.1 == 0 || decide (23 < e.1)) || decide (¬ (els.map (·.1)).Nodup)
    (bad = true → Answers (.setConfig r) s (replied .setConfig r pool Status.valueRange [] s)) ∧
    (bad = false →
      let named (n : Nat) : Option Nat := (els.find? fun e => e.1 == n).map (·.2)
      let low := match named 7 with | some v => settingHeld 0 7 v | none => s.setting 7
      let raised := decide (named 8 = none) && decide (s.setting 8 ≤ low)
      let after (n : Nat) : Nat := match named n with
        | some v => settingHeld low n v
        | none => if n = 8 ∧ raised then low + 1 else s.setting n
      let altered (n : Nat) : Bool := match named n with | some v => decide (after n ≠ v) | none => decide (n = 8) && raised
      let list := ((List.range 23).map (· + 1)).filter altered
      let changed (n : Nat) : Bool := decide (after n ≠ s.setting n)
      let interval (n : Nat) : Nat := Config.intervalSeconds.getD (after n) 0
      let free := 67108864 - s.hs.slots.length
      let pressed : Bool := if s.wa.pressure then decide (free < after 8) else decide (free < after 7)
      let now (d : Nat) (p : Partition) : Partition :=
        let closed := p.dayClosed || (changed 1 && decide (d + after 1 < s.ck.archiveTime / 86400))
        let expired := p.quietExpired ||
          (changed 2 && decide (after 2 ≠ 0) && decide (p.state = .opened) && decide (interval 2 ≤ p.quietElapsed))
        { p with dayClosed := closed, quietExpired := expired,
                 state := if p.state = .opened ∧ closed = true ∧ (expired = true ∨ pressed = true) then .quiet else p.state }
      let timesOut (f : OpenFile) : Bool := changed 4 && decide (after 4 ≠ 0) && decide (interval 4 ≤ f.idle)
      let rest := Config.restMillis.getD (after 17) 0
      let length := match s.wa.phase with | .active => Config.activeMillis.getD (after 16) 0 | .rest => rest
      let phaseEnds := (changed 16 || changed 17) && decide (length ≤ s.wa.elapsed)
      let begins := changed 18 && decide (after 18 ≠ 0) && decide (s.au.patrol = none) && decide (interval 18 ≤ s.au.patrolElapsed)
      let above := s.dayFrom s.au.cursorDay 49710
      let found : Option Nat := if begins then (if above.isSome then above else s.dayFrom 0 49710) else none
      let taken := takenState .setConfig r pool s
      let returned : State := if s.wa.pressure = true ∧ pressed = false ∧ s.lp.withheld ≠ 0 then
          (enqueue { tag := 254, status := 0, payload := [], riders := s.lp.withheld, startsReset := false } taken).mapLp fun l =>
            { l with inUse := { l.inUse with frame := l.inUse.frame + l.withheld }, withheld := 0 }
        else taken
      ∃ u, exec (.setConfig r) s = .next (settle u) ∧ (∀ n, 1 ≤ n → n ≤ 23 → u.setting n = after n) ∧
        (∀ c : CallClass, (u.ru.table.get c).active = (s.ru.table.get c).active) ∧ u.cl = { s.cl with settings := u.cl.settings } ∧
        (∀ d, s.part d = none → u.part d = none) ∧
        (∀ d p, s.part d = some p → u.part d = some { now d p with
          waitQueue := if found = some d then p.waitQueue ++ [.patrol] else p.waitQueue
          moverWaiting := if found = some d then p.waitQueue.any Waiter.isMover else p.moverWaiting }) ∧
        (TablesKeyed s → (∀ d p, s.part d = some p → p.state = .opened → d ∉ s.wa.packQueue) →
          u.wa.packQueue = s.wa.packQueue ++
            Tab.keysWhere s.pc.parts fun d p => decide (p.state = .opened) && decide ((now d p).state = .quiet)) ∧
        u.wa = { s.wa with
          pressure := pressed, packQueue := u.wa.packQueue
          phase := if phaseEnds then (match s.wa.phase with | .active => if rest = 0 then .active else .rest | .rest => .active) else s.wa.phase
          elapsed := if phaseEnds then 0 else s.wa.elapsed } ∧
        u.ie = { s.ie with contexts := s.ie.contexts.map fun c =>
          { c with file := c.file.bind fun f => if timesOut f then none else some f } } ∧
        u.au = { s.au with
          current := if changed 4 then bankAdd s.au.current .filesTimedOut (s.ie.contexts.countP fun c => c.file.any timesOut) else s.au.current
          patrol := if begins then found.map fun d => { began := some d, wrapped := false, day := d, seg := 0, place := 0, stage := .pinWait }
            else s.au.patrol
          patrolElapsed := if begins ∧ found = none then 0 else s.au.patrolElapsed
          cursorDay := if begins ∧ above = none then 0 else s.au.cursorDay
          cursorPlace := if begins ∧ above = none then 0 else s.au.cursorPlace } ∧
        u.ru = { s.ru with table := u.ru.table } ∧
        u.lp = (answered r.tag.toNat Status.ok (be 2 list.length ++ list.flatMap (be 1)) returned).lp ∧
        u.ix = s.ix ∧ u.hs = s.hs ∧ u.ck = s.ck ∧ u.qa = s.qa ∧ u.ce = s.ce ∧ u.cs = s.cs ∧ u.power = s.power)

/-- SAVE_CONFIG, RESET and EEPROM_WRITE_COMPLETION: the copy, the three steps, the answers, what a fault leaves (log entries 6, 17 and 38)
(R125, R177, R178, R180, 10.3 The configuration image, 10.5 Warm reset). -/
def Obligations.SaveAndResetServed : Prop :=
  (∀ (r : Request) (pool : Pool) (s : State), s.cl.saving = none → s.waits .loader = false →
    (Requested .saveConfig r .saveConfig pool s → Answers (.saveConfig r) s ((takenState .saveConfig r pool s).mapCl fun l =>
      { l with saving := some { step := 1, copied := (List.range 23).map fun i => s.setting (i + 1), tag := r.tag.toNat, epoch := s.lp.epoch } })) ∧
    (Requested .reset r .reset pool s → Answers (.reset r) s (enqueue
      { tag := r.tag.toNat, status := Status.ok, payload := [], riders := 0, startsReset := true } (takenState .reset r pool s)))) ∧
  (∀ (v : Saving) (s : State), s.cl.saving = some v → s.waits .loader = false → Settled s →
    let done (status : Nat) (image : ConfigImage) : State :=
      respond v.tag v.epoch status [] (s.mapCl fun c => { c with image := image, saving := none })
    (exec (.eepromWriteCompletion true) s = .next (done Status.saveFailed s.cl.image)) ∧
    (v.step = 1 → exec (.eepromWriteCompletion false) s = .next (s.mapCl fun c =>
      { c with image := { c.image with marker := false }, saving := some { v with step := 2 } })) ∧
    (v.step = 2 → exec (.eepromWriteCompletion false) s = .next (s.mapCl fun c =>
      { c with image := { c.image with format := 1, settings := v.copied, check := crc32 (be 1 1 ++ v.copied.flatMap (be 4)) },
               saving := some { v with step := 3 } })) ∧
    (v.step = 3 → exec (.eepromWriteCompletion false) s = .next (done Status.ok { s.cl.image with marker := true }))) ∧
  (∀ (v : Saving) (i : ConfigImage), v.copied.length = 23 →
    let after := ConfigImage.written { v with step := 3 } (ConfigImage.written { v with step := 2 } (ConfigImage.written { v with step := 1 } i))
    after.valid = true ∧ after.settings = v.copied) ∧
  ∀ (fault : Bool) (s : State), s.cl.saving = none → Settled s → exec (.eepromWriteCompletion fault) s = .next s

/-- READ_STATUS: the 62-byte view and the latch cleared when asked; the ALERT rule; CLEAR_COUNTERS (log entries 18 and 33) (R33, R34, R152,
2.10 Status and alert, 8.2 The Counter Bank). -/
def Obligations.ReadStatusAndClearCounters : Prop :=
  let alert (s : State) : Bool := s.running && (
    (s.cl.settings.alertMask.testBit 0 && s.wa.pressure) || (s.cl.settings.alertMask.testBit 1 && s.ce.coldFull) ||
    (s.cl.settings.alertMask.testBit 2 && decide (480 ≤ s.pc.parts.length)) ||
    (s.cl.settings.alertMask.testBit 3 && decide (61440 ≤ s.au.accounts.length)) ||
    (s.cl.settings.alertMask.testBit 4 && s.au.damageFound) || (s.cl.settings.alertMask.testBit 5 && !s.ck.clockSet))
  (∀ s : State, s.alertPin = alert s) ∧
  ∀ (r : Request) (pool : Pool) (s : State),
    (∀ clear, Requested .readStatus r (.readStatus clear) pool s →
      let inState (st : PartState) : Nat := s.pc.parts.countP fun e => decide (e.2.state = st)
      let segments (st : SegState) : Nat := s.cs.dir.countP fun e => decide (e.2.state = st)
      let conditions := (if s.wa.pressure then 1 else 0) + (if s.ce.coldFull then 2 else 0) + (if 480 ≤ s.pc.parts.length then 4 else 0)
        + (if 61440 ≤ s.au.accounts.length then 8 else 0) + (if s.au.damageFound then 16 else 0) + (if s.ck.clockSet then 0 else 32)
      let view := be 4 s.ck.archiveTime ++ flag s.ck.clockSet ++ be 4 (512 - s.pc.parts.length) ++ be 4 (inState .opened)
        ++ be 4 (inState .quiet) ++ be 4 (inState .packing) ++ be 4 (inState .packed) ++ be 4 (inState .repacking)
        ++ be 4 (67108864 - s.hs.slots.length) ++ be 8 s.ix.map.length ++ be 4 s.au.accounts.length
        ++ be 4 (segments .active) ++ be 4 (segments .writing) ++ be 4 (segments .damaged) ++ be 1 s.ru.holds.length
        ++ be 1 (s.ie.contexts.countP fun c => c.file.isSome) ++ be 1 conditions ++ flag (alert s)
        ++ be 1 (match s.cl.source with | .image => 0 | .defaults => 1)
      view.length = 62 ∧ Answers (.readStatus r) s (replied .readStatus r pool Status.ok view
        (s.mapAu fun a => { a with damageFound := a.damageFound && !clear }))) ∧
    (Requested .clearCounters r .clearCounters pool s → Answers (.clearCounters r) s
      (replied .clearCounters r pool Status.ok [] (s.mapAu fun a => { a with current := List.replicate 40 0 })))

/-- What ends an event serves the head of a wait queue exactly when it can proceed, and leaves clock, power, image, holds, link state and
sent frames alone (R31, R50, R51, R52, R62, R137, R167, R170, What each step holds). -/
def Obligations.WhatAnEventLeadsToKeeps : Prop :=
  (∀ s : State, TablesKeyed s →
    let mover (w : Waiter) : Prop := w = .job ∨ w = .sweep ∨ ∃ c, w = .move c
    let proceeds (d : Nat) (w : Waiter) : Prop := ∃ p rest, s.part d = some p ∧ p.waitQueue = w :: rest ∧ p.moverHolding = false ∧
      ((¬ mover w ∧ p.pins < 8) ∨ (mover w ∧ p.pins = 0))
    let left (p : Partition) : Partition := { p with waitQueue := p.waitQueue.tail, moverWaiting := p.waitQueue.tail.any Waiter.isMover }
    let granted (d : Nat) (f : Partition → Partition) : State :=
      { s with pc := { s.pc with parts := Tab.upd s.pc.parts d fun p => f (left p) } }
    let acts (w : Waiter) (t : State) : State := match w with
      | .query c => queryPinned c t | .ingest => ingestPinned t | .scan i => scanPinned i t | .patrol => patrolPinned t
      | .job => switchOver t | .move c => moveAdmitted c t | .sweep => sweepAdmitted t
    (serveWaiters s = none ↔ ∀ d w, ¬ proceeds d w) ∧ (Settled s → ∀ d w, ¬ proceeds d w) ∧
    (∀ d w, proceeds d w → (∀ i v, i < d → ¬ proceeds i v) →
      (¬ mover w → serveWaiters s = some (acts w (granted d fun p => { p with pins := p.pins + 1 }))) ∧
      (mover w → serveWaiters s = some (acts w (granted d fun p => { p with moverHolding := true })))) ∧
    ∀ t, serveWaiters s = some t → internal Turn.completing s = some (Turn.completing, t) ∧
      (grantEngine s = none → internal Turn.placing s = some (Turn.placing, t))) ∧
  ∀ s : State, (Settled s → settle s = s ∧ settleCompletion s = s) ∧
    ∀ t : State, t = settle s ∨ t = settleCompletion s →
      t.ck = s.ck ∧ t.power = s.power ∧ t.pending = s.pending ∧ t.cl.image = s.cl.image ∧ t.ru.holds = s.ru.holds ∧
      (∀ c, (t.ru.table.get c).active = (s.ru.table.get c).active) ∧
      t.lp.link = s.lp.link ∧ t.lp.epoch = s.lp.epoch ∧ t.lp.wire = s.lp.wire ∧
      (s.lp.buffer = [] → t.cl = s.cl ∧ t.ru.table = s.ru.table)

/-- FILE_OPEN, FILE_CLOSE and FILE_ABORT decided at their drain, with their answers, contexts and counters (R58, R59, R60, R61, R62, R74,
R75, 4.1 File contexts, 4.7 Closing a file). -/
def Obligations.FileKindsDrained : Prop :=
  (∀ (k : Kind) (r : Request) (pool : Pool) (s : State), k.cls = .ingest → Accepted k r pool s → s.ie.queue = [] → s.ie.drain = none →
    Settled s → s.active = true → (headerOk k r.ctx.toNat r.gen.toNat r.rsv.toNat = false ∨ readParams k r.payload = none) → k ≠ .records →
    exec (requestRow k r) s = .next (drained k r pool Status.malformed [] s)) ∧
  (∀ (r : Request) (source file : Nat) (pool : Pool) (s : State), DrainsAtOnce .fileOpen r (.fileOpen source file) pool s →
    (source = 0 ∨ 4095 < source → exec (.fileOpen r) s = .next (drained .fileOpen r pool Status.valueRange [] s)) ∧
    (1 ≤ source → source ≤ 4095 →
      (∀ (i g : Nat) (f : OpenFile), s.ie.contexts[i]? = some { generation := g, file := some f } → f.source = source → f.file = file →
        (∀ j g' f', j < i → s.ie.contexts[j]? = some { generation := g', file := some f' } → ¬ (f'.source = source ∧ f'.file = file)) →
        exec (.fileOpen r) s = .next (drained .fileOpen r pool Status.fileAlreadyOpen (be 1 i ++ be 1 g) s)) ∧
      ((∀ c ∈ s.ie.contexts, ∀ f, c.file = some f → ¬ (f.source = source ∧ f.file = file)) →
        ((∀ c ∈ s.ie.contexts, c.file.isSome) → exec (.fileOpen r) s = .next (drained .fileOpen r pool Status.contextFull [] s)) ∧
        (∀ (i g : Nat), s.ie.contexts[i]? = some { generation := g, file := none } →
          (∀ j c, j < i → s.ie.contexts[j]? = some c → c.file.isSome) →
          let fresh : OpenFile :=
            { source := source, file := file, received := 0, stored := 0, duplicates := 0, refused := 0, chargeSum := 0, idle := 0 }
          exec (.fileOpen r) s = .next (drained .fileOpen r pool Status.ok (be 1 i ++ be 1 ((g + 1) % 256))
            (s.mapIe fun e => { e with contexts := e.contexts.set i { generation := (g + 1) % 256, file := some fresh } })))))) ∧
  ∀ (r : Request) (pool : Pool) (s : State),
    let stale := ∀ f, s.ie.contexts[r.ctx.toNat]? ≠ some { generation := r.gen.toNat, file := some f }
    let closes (outcome : Nat) (counter : Counter) (f : OpenFile) (k : Kind) : State :=
      drained k r pool Status.ok (be 1 outcome ++ be 8 f.received ++ be 8 f.stored ++ be 8 f.duplicates ++ be 8 f.refused ++ beInt f.chargeSum)
        ((s.mapIe fun e => { e with contexts := e.contexts.set r.ctx.toNat { generation := r.gen.toNat, file := none } }).mapAu fun a =>
          { a with current := bankAdd a.current counter 1 })
    (∀ trailer, DrainsAtOnce .fileClose r (.fileClose trailer) pool s →
      (stale → exec (.fileClose r) s = .next (drained .fileClose r pool Status.staleContext [] s)) ∧
      (∀ f, s.ie.contexts[r.ctx.toNat]? = some { generation := r.gen.toNat, file := some f } →
        (trailer = none → exec (.fileClose r) s = .next (closes 4 .filesUndeclared f .fileClose)) ∧
        (∀ count sum, trailer = some (count, sum) →
          (f.received < count → exec (.fileClose r) s = .next (closes 1 .filesShort f .fileClose)) ∧
          (count < f.received → exec (.fileClose r) s = .next (closes 2 .filesOver f .fileClose)) ∧
          (f.received = count → f.chargeSum ≠ sum → exec (.fileClose r) s = .next (closes 3 .filesSumMismatch f .fileClose)) ∧
          (f.received = count → f.chargeSum = sum → exec (.fileClose r) s = .next (closes 0 .filesMatched f .fileClose))))) ∧
    (DrainsAtOnce .fileAbort r .fileAbort pool s →
      (stale → exec (.fileAbort r) s = .next (drained .fileAbort r pool Status.staleContext [] s)) ∧
      (∀ f, s.ie.contexts[r.ctx.toNat]? = some { generation := r.gen.toNat, file := some f } →
        exec (.fileAbort r) s = .next (closes 5 .filesAborted f .fileAbort)))

/-- RECORDS: MALFORMED_REQUEST, STALE_CONTEXT, CLOCK_UNSET, an empty batch, or the drain begun; behind others it joins the queue (R60, R61,
R62, R73, R76, 4.2 The Batch Queue and the Staging Buffer). -/
def Obligations.RecordsDrainBegins : Prop :=
  (∀ (r : Request) (pool : Pool) (s : State), DrainsAtOnce .records r .records pool s →
    ((∀ f, s.ie.contexts[r.ctx.toNat]? ≠ some { generation := r.gen.toNat, file := some f }) →
      exec (.records r) s = .next (drained .records r pool Status.staleContext [] s)) ∧
    (∀ f, s.ie.contexts[r.ctx.toNat]? = some { generation := r.gen.toNat, file := some f } →
      let restarted := s.mapIe fun e =>
        { e with contexts := e.contexts.set r.ctx.toNat { generation := r.gen.toNat, file := some { f with idle := 0 } } }
      (s.ck.clockSet = false → exec (.records r) s = .next (drained .records r pool Status.clockUnset [] restarted)) ∧
      (s.ck.clockSet = true → r.payload = [] →
        exec (.records r) s = .next (drained .records r pool Status.ok (List.replicate 10 0) restarted)) ∧
      (s.ck.clockSet = true → r.payload ≠ [] →
        exec (.records r) s = .next ((acceptedState .records r pool restarted).mapIe fun e =>
          { e with queue := [batchEntry .records r s.lp.epoch],
                   drain := some { offset := 0, position := 0, received := 0, stored := 0, duplicates := 0, conflicts := 0, refused := 0,
                                   late := 0, clamped := 0, entries := [], dup := none } })))) ∧
  (∀ (r : Request) (pool : Pool) (s : State), Accepted .records r pool s → headerOk .records r.ctx.toNat r.gen.toNat r.rsv.toNat = false →
    s.ie.queue = [] → s.ie.drain = none → Settled s → s.active = true →
    ((∀ f, s.ie.contexts[r.ctx.toNat]? ≠ some { generation := r.gen.toNat, file := some f }) →
      exec (.records r) s = .next (drained .records r pool Status.malformed [] s)) ∧
    (∀ f, s.ie.contexts[r.ctx.toNat]? = some { generation := r.gen.toNat, file := some f } →
      exec (.records r) s = .next (drained .records r pool Status.malformed [] (s.mapIe fun e =>
        { e with contexts := e.contexts.set r.ctx.toNat { generation := r.gen.toNat, file := some { f with idle := 0 } } })))) ∧
  ∀ (k : Kind) (r : Request) (pool : Pool) (s : State), k.cls = .ingest → Accepted k r pool s → s.ie.queue ≠ [] → Settled s →
    let queued := (acceptedState k r pool s).mapIe fun e => { e with queue := e.queue ++ [batchEntry k r s.lp.epoch] }
    ((k ≠ .records ∨ ∀ f, s.ie.contexts[r.ctx.toNat]? ≠ some { generation := r.gen.toNat, file := some f }) →
      exec (requestRow k r) s = .next queued) ∧
    (k = .records → ∀ f, s.ie.contexts[r.ctx.toNat]? = some { generation := r.gen.toNat, file := some f } →
      exec (.records r) s = .next (queued.mapIe fun e =>
        { e with contexts := e.contexts.set r.ctx.toNat { generation := r.gen.toNat, file := some { f with idle := 0 } } }))

/-- RECORD_EVENT: a record that fails a check is received and refused with the code of the first check it fails; the end of the drain (R17,
R26, R62, R63, R64, R65, R66, R69, R71, R73, 4.4 The record checks). -/
def Obligations.RecordEventRefuses : Prop :=
  ∀ (e : BatchEntry) (dr : Drain) (f : OpenFile) (s : State),
    let tallied (code : RefusalCode) (charge offset position : Nat) : State :=
      (s.mapIe fun q =>
        { q with
          contexts := q.contexts.set e.ctx
            { generation := e.gen,
              file := some { f with received := count64 (f.received + 1), refused := count64 (f.refused + 1), chargeSum := sum64 (f.chargeSum + charge) } },
          drain := some { dr with
            offset := offset, position := position, received := dr.received + 1, refused := dr.refused + 1,
            entries := if dr.entries.length < 64 then dr.entries ++ [(dr.position, code.value)] else dr.entries } }).mapAu fun a =>
        { a with current := bankAdd (bankAdd a.current .recordsReceived 1) code.counter 1 }
    (∀ size code, RecordAtHand e dr f size s → firstRefusal s f (readDelivered (e.payload.drop dr.offset)) = some code →
      let u := tallied code (readDelivered (e.payload.drop dr.offset)).charge (dr.offset + size) (dr.position + 1)
      exec .recordEvent s = .next (settle u) ∧ (dr.offset + size < e.payload.length → Settled s → exec .recordEvent s = .next u)) ∧
    (s.ie.drain = some dr → dr.dup = none → s.ie.queue.head? = some e → s.openFile e.ctx e.gen = some f →
      wholeSize (e.payload.drop dr.offset) = none →
      exec .recordEvent s = .next (settle (tallied .batchTruncated 0 e.payload.length dr.position))) ∧
    (∀ rest, s.ie.drain = some dr → dr.dup = none → s.ie.queue = e :: rest →
      let payload := be 1 dr.received ++ be 1 dr.stored ++ be 1 dr.duplicates ++ be 1 dr.conflicts ++ be 1 dr.refused ++ be 1 dr.late ++
        be 1 dr.clamped ++ flag (decide (64 < dr.refused)) ++ be 2 dr.entries.length ++ dr.entries.flatMap fun x => be 2 x.1 ++ be 1 x.2 ++ be 1 0
      (Settled s → dr.offset < e.payload.length) ∧ (dr.offset < e.payload.length → drainEnds s = none) ∧
      (e.payload.length ≤ dr.offset → drainEnds s = some
        { frameCreditEarned (creditsPending { Credits.zero with block := blockNeed e.kind.code e.payload }
            (respond e.tag e.epoch Status.ok payload s)) with
          ie := { s.ie with queue := rest, drain := none } }))

/-- RECORD_EVENT: the commit of a record that passes every check, with the activity on its day (R4, R7, R42, R46, R48, R70, R71, R80, R121,
R136, R144, R145). -/
def Obligations.RecordEventStores : Prop :=
  ∀ (e : BatchEntry) (dr : Drain) (f : OpenFile) (size : Nat) (s : State), RecordAtHand e dr f size s →
    Tab.rising s.hs.slots = true →
    let d := readDelivered (e.payload.drop dr.offset)
    let day := d.start / 86400
    firstRefusal s f d = none → s.lookup (refOf d.source d.sequence) = none →
    let late := match s.part day with | some p => p.dayClosed | none => decide (day + s.cl.settings.graceDays < s.ck.archiveTime / 86400)
    let volume := if d.cls = .data then d.volume else 0
    let clamped := decide (604800 < d.duration) || decide (volume ≠ d.volume)
    let x : CallRecord :=
      { source := d.source, sequence := d.sequence, key := d.key, cls := d.cls, start := d.start, duration := min d.duration 604800,
        volume := volume, charge := d.charge, cell := d.cell, partner := d.partner, amendCount := 0, late := late, clamped := clamped }
    let account := (Tab.get s.au.accounts (accountKey d.source day)).getD
      { stored := 0, duplicates := 0, storedSum := 0, amends := 0, amendDelta := 0, retired := 0, retiredSum := 0, live := 0 }
    let fresh : Partition :=
      { state := .opened, dayClosed := late, quietElapsed := 0, quietExpired := false, live := PerClass.all 0, hotCount := 0, segments := [],
        pins := 0, moverHolding := false, moverWaiting := false, waitQueue := [], expiryDue := PerClass.all false,
        heldRemainder := PerClass.all false }
    let p := (s.part day).getD fresh
    let a := partAfterActivity (s.cl.settings.activityMask.testBit 0) true s.wa.pressure p
    let returns := decide (p.state = .quiet) && !s.wa.pressure
    let closes := decide (a.state = .opened) && late && (a.quietExpired || s.wa.pressure)
    ∃ u slot, exec .recordEvent s = .next (settle u) ∧
      Tab.get s.hs.slots slot = none ∧ u.hs.slots = Tab.put s.hs.slots slot x ∧
      u.ix.map = Tab.put s.ix.map (refOf d.source d.sequence)
        { key := d.key, day := day, cls := d.cls, late := late, clamped := clamped, amendCount := 0, charge := d.charge, loc := .hot slot } ∧
      u.part day = some { a with
        live := a.live.set d.cls (a.live.get d.cls + 1), hotCount := a.hotCount + 1, heldRemainder := a.heldRemainder.set d.cls false,
        state := if closes then .quiet else a.state } ∧
      (∀ i, i ≠ day → u.part i = (s.part i).map (partAfterTime 0 0 false s.wa.pressure)) ∧
      (if returns then s.wa.packQueue.filter (· != day) else s.wa.packQueue) <+: u.wa.packQueue ∧ (closes = true → day ∈ u.wa.packQueue) ∧
      u.ce = { s.ce with coldWait := if returns then s.ce.coldWait.filter (· != day) else s.ce.coldWait } ∧
      u.wa = { s.wa with packQueue := u.wa.packQueue, repackQueue :=
        if a.state = .packed ∧ s.cl.settings.repackThreshold ≤ a.hotCount + 1 ∧ day ∉ s.wa.repackQueue then s.wa.repackQueue ++ [day]
        else s.wa.repackQueue } ∧
      (∀ k, k ≠ accountKey d.source day → Tab.get u.au.accounts k = Tab.get s.au.accounts k) ∧
      Tab.get u.au.accounts (accountKey d.source day) = some { account with
        stored := count64 (account.stored + 1), live := count64 (account.live + 1), storedSum := sum64 (account.storedSum + d.charge) } ∧
      u.au.current = (let b := bankAdd (bankAdd s.au.current .recordsReceived 1) .recordsStored 1
        let b := if late then bankAdd b .storedLate 1 else b
        let b := if clamped then bankAdd b .storedClamped 1 else b
        bankAdd (bankAdd b (bucketCounter (min d.duration 604800)) 1) .chargeStored d.charge) ∧
      u.ie.contexts = s.ie.contexts.set e.ctx { generation := e.gen, file := some { f with
        received := count64 (f.received + 1), stored := count64 (f.stored + 1), chargeSum := sum64 (f.chargeSum + d.charge) } } ∧
      u.ie.queue = s.ie.queue ∧ u.ie.drain = some { dr with
        offset := dr.offset + size, position := dr.position + 1, received := dr.received + 1, stored := dr.stored + 1,
        late := if late then dr.late + 1 else dr.late, clamped := if clamped then dr.clamped + 1 else dr.clamped } ∧
      u.lp = s.lp ∧ u.ru = s.ru ∧ u.ck = s.ck ∧ u.cs = s.cs ∧ u.qa = s.qa ∧ u.cl = s.cl ∧ u.power = s.power

/-- A record whose reference is live is a duplicate: compared at once with a hot copy, else after a pin with the slot, a decoded copy or
the map entry (R50, R52, R67, R68, R71, R73, R106, R145, R160, 4.4 The record checks). -/
def Obligations.RecordEventDuplicates : Prop :=
  (∀ (e : BatchEntry) (dr : Drain) (f : OpenFile) (size : Nat) (s : State), RecordAtHand e dr f size s →
    let d := readDelivered (e.payload.drop dr.offset)
    d.mustBeZero = true → 1 ≤ d.source → d.source ≤ 4095 → d.source = f.source → d.charge ≤ 2147483647 →
      exec .recordEvent s = .next (settle (decideFromDay e size d.clampedRecord s))) ∧
  (∀ (e : BatchEntry) (dr : Drain) (f : OpenFile) (size : Nat) (m : MapEntry) (s : State), RecordAtHand e dr f size s →
       let d := readDelivered (e.payload.drop dr.offset)
       firstRefusal s f d = none → s.lookup (refOf d.source d.sequence) = some m →
       (∀ n x, m.loc = .hot n → Tab.get s.hs.slots n = some x →
         let duration := min d.duration 604800
         let volume := if d.cls = .data then d.volume else 0
         let conflict := decide (d.key ≠ x.key) || decide (d.start ≠ x.start) || decide (d.cls ≠ x.cls) || decide (d.cell ≠ x.cell) ||
           decide (d.partner ≠ x.partner) || (decide (x.amendCount = 0) &&
             (decide (duration ≠ x.duration) || decide (volume ≠ x.volume) || decide (d.charge ≠ x.charge)))
         let u := (s.mapIe fun q =>
           { q with
             contexts := q.contexts.set e.ctx { generation := e.gen, file := some { f with
               received := count64 (f.received + 1), duplicates := count64 (f.duplicates + 1), chargeSum := sum64 (f.chargeSum + d.charge) } },
             drain := some { dr with
               offset := dr.offset + size, position := dr.position + 1, received := dr.received + 1, duplicates := dr.duplicates + 1,
               conflicts := if conflict then dr.conflicts + 1 else dr.conflicts } }).mapAu fun a =>
           { a with
             current := (let b := bankAdd (bankAdd a.current .recordsReceived 1) .duplicates 1
               if conflict then bankAdd b .duplicateConflicts 1 else b),
             accounts := Tab.upd a.accounts (accountKey d.source m.day) fun c => { c with duplicates := count64 (c.duplicates + 1) } }
         exec .recordEvent s = .next (settle u) ∧ (dr.offset + size < e.payload.length → Settled s → exec .recordEvent s = .next u)) ∧
       (∀ n o p, m.loc = .segment n o → s.part m.day = some p →
         let waits : PendingDuplicate :=
           { record := d.clampedRecord, delivered := d.charge, size := size, day := m.day, seg := n, ord := o, stage := .pinWait }
         ∃ u, exec .recordEvent s = .next (settle u) ∧ u.ie = { s.ie with drain := some { dr with dup := some waits } } ∧
           (∃ q, u.part m.day = some q ∧ q.waitQueue = p.waitQueue ++ [.ingest] ∧ q.live = p.live ∧ q.pins = p.pins) ∧
           u.au = s.au ∧ u.ix = s.ix ∧ u.hs = s.hs ∧ u.lp = s.lp ∧ u.ck = s.ck ∧ u.qa = s.qa ∧ u.ce = s.ce ∧
           u.cs = s.cs ∧ u.ru = s.ru ∧ u.wa = s.wa ∧ u.cl = s.cl)) ∧
  ∀ (e : BatchEntry) (dr : Drain) (f : OpenFile) (d : PendingDuplicate) (s : State),
    s.ie.drain = some dr → dr.dup = some d → s.ie.queue.head? = some e → s.openFile e.ctx e.gen = some f →
    let x := d.record
    let unpinned (t : State) : State :=
      { t with pc := { t.pc with parts := Tab.upd t.pc.parts d.day fun q => { q with pins := q.pins - 1 } } }
    let decides (t : State) : State := { t with ie := { s.ie with drain := some { dr with dup := none } } }
    let counted (conflict : Bool) (t : State) : State := ((unpinned t).mapIe fun q =>
      { q with
        contexts := q.contexts.set e.ctx { generation := e.gen, file := some { f with
          received := count64 (f.received + 1), duplicates := count64 (f.duplicates + 1), chargeSum := sum64 (f.chargeSum + d.delivered) } },
        drain := some { dr with
          offset := dr.offset + d.size, position := dr.position + 1, received := dr.received + 1, duplicates := dr.duplicates + 1,
          conflicts := if conflict then dr.conflicts + 1 else dr.conflicts, dup := none } }).mapAu fun a =>
      { a with
        current := (let b := bankAdd (bankAdd a.current .recordsReceived 1) .duplicates 1
          if conflict then bankAdd b .duplicateConflicts 1 else b),
        accounts := Tab.upd a.accounts (accountKey x.source d.day) fun c => { c with duplicates := count64 (c.duplicates + 1) } }
    let differs (y : CallRecord) : Bool :=
      decide (x.key ≠ y.key) || decide (x.start ≠ y.start) || decide (x.cls ≠ y.cls) || decide (x.cell ≠ y.cell) ||
        decide (x.partner ≠ y.partner) || (decide (y.amendCount = 0) &&
          (decide (x.duration ≠ y.duration) || decide (x.volume ≠ y.volume) || decide (x.charge ≠ y.charge)))
    let entryDiffers (m : MapEntry) : Bool := decide (x.key ≠ m.key) || decide (x.start / 86400 ≠ m.day) || decide (x.cls ≠ m.cls) ||
      (decide (m.amendCount = 0) && decide (x.charge ≠ m.charge))
    ingestReleased s = decideFromDay e d.size x (decides s) ∧
    (s.lookup (refOf x.source x.sequence) = none → ingestPinned s = decideFromDay e d.size x (unpinned (decides s))) ∧
    (∀ m, s.lookup (refOf x.source x.sequence) = some m →
      (∀ n y, m.loc = .hot n → Tab.get s.hs.slots n = some y → ingestPinned s = counted (differs y) s) ∧
      (∀ n o, m.loc = .segment n o → s.segActive n = false → ingestPinned s = counted (entryDiffers m) s) ∧
      (∀ n o, m.loc = .segment n o → s.segActive n = true → ingestPinned s =
        (s.mapIe fun q => { q with drain := some { dr with dup := some { d with seg := n, ord := o, stage := .grantWait } } }).mapWa fun w =>
          { w with requests := w.requests.set .query (w.requests.get .query ++ [.ingest]) })) ∧
    ∀ (k : JobKind) (n : Nat) (read : ReadResult), s.wa.engine = some { kind := k, who := .ingest, quantum := .decode, seg := n } →
      let idle (t : State) : State := { t with wa := { s.wa with engine := none } }
      (∀ rs y, s.decoded n read = some rs → rs[d.ord]? = some y →
        exec (.decodeCompletion read) s = .next (settleCompletion (counted (differs y) (idle s)))) ∧
      (∀ m, s.decoded n read = none → s.lookup (refOf x.source x.sequence) = some m →
        exec (.decodeCompletion read) s = .next (settleCompletion (counted (entryDiffers m) (idle (damagedAt n true s)))))

/-- FETCH: its refusals, the hot record at once, a context that waits for its pin, what it does at the pin grant or with no records (log
entry 39) (R9, R10, R46, R48, R50, R52, R84, R85, R86, R149, R164, 5.3 FETCH). -/
def Obligations.FetchServed : Prop :=
  (∀ (r : Request) (ref : Nat) (pool : Pool) (s : State), Requested .fetch r (.fetch ref) pool s → s.qa.contexts.length < 64 →
    s.waits .queryUnit = false → Settled s →
    let inRange := 1 ≤ ref / 281474976710656 ∧ ref / 281474976710656 ≤ 4095 ∧ ref % 281474976710656 < 1099511627776
    (¬ inRange → exec (.fetch r) s = .next (replied .fetch r pool Status.valueRange [] s)) ∧
    (inRange →
      (s.lookup ref = none → exec (.fetch r) s = .next (replied .fetch r pool Status.notFound [] s)) ∧
      (∀ m, s.lookup ref = some m →
        (∀ n o, m.loc = .segment n o → s.segActive n = false →
          exec (.fetch r) s = .next (replied .fetch r pool Status.unreadable [] s)) ∧
        (∀ n x p, m.loc = .hot n → Tab.get s.hs.slots n = some x → s.part m.day = some p → p.waitQueue = [] → p.moverHolding = false →
          p.moverWaiting = false → p.pins < 8 → s.active = true → TablesKeyed s →
          (∀ c, Tab.get s.qa.contexts c = none → Tab.get s.qa.inFlight c = none) →
          exec (.fetch r) s = .next (replied .fetch r pool Status.ok (renderRecord x (s.held x.key (x.start / 86400) x.cls))
            ((afterActivity (s.cl.settings.activityMask.testBit 2) false m.day s).mapAu fun a =>
              { a with current := bankAdd a.current .queriesServed 1 }))) ∧
        (∀ p, (∃ n o, m.loc = .segment n o ∧ s.segActive n = true) ∨ (∃ n, m.loc = .hot n) → s.part m.day = some p →
          Tab.rising s.qa.contexts = true →
          ∃ u c, exec (.fetch r) s = .next (settle u) ∧
            (p.waitQueue ≠ [] ∨ p.moverHolding = true ∨ 8 ≤ p.pins → exec (.fetch r) s = .next u) ∧ Tab.get s.qa.contexts c = none ∧
            (∀ i, i ≠ c → u.queryCtx i = s.queryCtx i) ∧ u.qa.inFlight = s.qa.inFlight ∧ (∀ d, d ≠ m.day → u.part d = s.part d) ∧
            u.queryCtx c = some { tag := r.tag.toNat, epoch := s.lp.epoch, stage := .pinWait, cancelling := false, day := m.day, seg := 0,
                                  ord := 0, work := .fetch ref } ∧
            (∃ q, u.part m.day = some q ∧ q.waitQueue = p.waitQueue ++ [.query c] ∧ q.pins = p.pins) ∧
            u.lp = (takenState .fetch r pool s).lp ∧ u.ix = s.ix ∧ u.hs = s.hs ∧ u.au = s.au ∧ u.ck = s.ck ∧ u.ie = s.ie ∧ u.ce = s.ce ∧
            u.cs = s.cs ∧ u.ru = s.ru ∧ u.wa = s.wa ∧ u.cl = s.cl)))) ∧
  ∀ (c : Nat) (q : QueryContext) (ref : Nat) (s : State), s.queryCtx c = some q → q.work = .fetch ref → q.epoch = s.lp.epoch → TablesKeyed s →
    let unpinned : State := { s with pc := { s.pc with parts := Tab.upd s.pc.parts q.day fun y => { y with pins := y.pins - 1 } } }
    let ended (status : Nat) (payload : Bytes) (x : State) : State := answered q.tag status payload
      { x with qa := { x.qa with contexts := Tab.del s.qa.contexts c, inFlight := Tab.del s.qa.inFlight c } }
    queryReleased c s = ended Status.notFound [] s ∧ (s.lookup ref = none → queryPinned c s = ended Status.notFound [] unpinned) ∧
    ∀ m, s.lookup ref = some m →
      (∀ n x, m.loc = .hot n → Tab.get s.hs.slots n = some x →
        queryPinned c s = ended Status.ok (renderRecord x (s.held x.key (x.start / 86400) x.cls))
          ((afterActivity (s.cl.settings.activityMask.testBit 2) false q.day unpinned).mapAu fun a =>
            { a with current := bankAdd a.current .queriesServed 1 })) ∧
      (∀ n o, m.loc = .segment n o → s.segActive n = false → queryPinned c s = ended Status.unreadable [] unpinned) ∧
      (∀ n o, m.loc = .segment n o → s.segActive n = true → queryPinned c s =
        { s with
          qa := { s.qa with contexts := Tab.upd s.qa.contexts c fun x => { x with stage := .grantWait, seg := n, ord := o } },
          wa := { s.wa with requests := s.wa.requests.set .query (s.wa.requests.get .query ++ [.query c]) } })

/-- QUERY_SUBSCRIBER: VALUE_RANGE, an empty range answered at once, or a context that asks for a pin on the first day (R84, R87, R88, R90,
5.4 QUERY_SUBSCRIBER). -/
def Obligations.QuerySubscriberServed : Prop :=
  ∀ (r : Request) (p : SubscriberParams) (pool : Pool) (s : State), Requested .querySubscriber r (.querySubscriber p) pool s →
    s.qa.contexts.length < 64 → s.waits .queryUnit = false → Settled s →
    let bad := 49710 < p.lastDay ∨ p.lastDay < p.firstDay ∨ p.classMask = 0 ∨ ∃ x, p.resume = some x ∧ (x.day < p.firstDay ∨ p.lastDay < x.day)
    let first := match p.resume with | some x => x.day | none => p.firstDay
    (bad → exec (.querySubscriber r) s = .next (replied .querySubscriber r pool Status.valueRange [] s)) ∧
    (¬ bad → TablesKeyed s →
      ((∀ c, Tab.get s.qa.contexts c = none → Tab.get s.qa.inFlight c = none) → (∀ d q, s.part d = some q → ¬ (first ≤ d ∧ d ≤ p.lastDay)) →
        exec (.querySubscriber r) s = .next (replied .querySubscriber r pool Status.ok (List.replicate 12 0)
          (s.mapAu fun a => { a with current := bankAdd a.current .queriesServed 1 }))) ∧
      (∀ d t, s.part d = some t → first ≤ d → d ≤ p.lastDay → (∀ d' q, s.part d' = some q → first ≤ d' → d ≤ d') →
        ∃ u c, exec (.querySubscriber r) s = .next (settle u) ∧
          (t.waitQueue ≠ [] ∨ t.moverHolding = true ∨ 8 ≤ t.pins → exec (.querySubscriber r) s = .next u) ∧ Tab.get s.qa.contexts c = none ∧
          (∀ i, i ≠ c → u.queryCtx i = s.queryCtx i) ∧ u.qa.inFlight = s.qa.inFlight ∧ (∀ i, i ≠ d → u.part i = s.part i) ∧
          u.queryCtx c = some { tag := r.tag.toNat, epoch := s.lp.epoch, stage := .pinWait, cancelling := false, day := d, seg := 0, ord := 0,
                                work := .subscriber p { toRead := [], candidates := [], dayUnreadable := 0, list := [], unreadable := 0 } } ∧
          (∃ q, u.part d = some q ∧ q.waitQueue = t.waitQueue ++ [.query c] ∧ q.pins = t.pins) ∧
          u.lp = (takenState .querySubscriber r pool s).lp ∧ u.ix = s.ix ∧ u.hs = s.hs ∧ u.au = s.au ∧ u.ck = s.ck ∧ u.ie = s.ie ∧ u.ce = s.ce ∧
          u.cs = s.cs ∧ u.ru = s.ru ∧ u.wa = s.wa ∧ u.cl = s.cl))

/-- QUERY_SUBSCRIBER reads a day under its pin, segment by segment, and at the day's end pages the matches, goes on to the next day or
answers (R46, R82, R84, R87, R88, R89, R90, R160, R164, 5.4 QUERY_SUBSCRIBER). -/
def Obligations.SubscriberReads : Prop :=
  ∀ (c : Nat) (q : QueryContext) (p : SubscriberParams) (g : SubscriberProgress) (t : Partition) (s : State), s.queryCtx c = some q →
    q.work = .subscriber p g → q.epoch = s.lp.epoch → s.part q.day = some t → TablesKeyed s →
    let wanted (e : MapEntry) : Bool := decide (e.day = q.day) && decide (e.key = p.key) && p.classMask.testBit e.cls.code
    let hits : List MapEntry := (s.ix.map.filter fun e => wanted e.2).map (·.2)
    let lies (e : MapEntry) (n : Nat) : Bool := match e.loc with | .segment i _ => decide (i = n) | .hot _ => false
    let read (x : CallRecord) : CallRecord × Bool := (x, s.held x.key (x.start / 86400) x.cls)
    let chosen := t.segments.filter fun n => (s.seg n).any fun e => decide (e.firstKey ≤ p.key) && decide (p.key ≤ e.lastKey)
    let atGrant : SubscriberProgress := { g with
      toRead := chosen.filter s.segActive
      candidates := hits.filterMap fun e => match e.loc with | .hot n => (Tab.get s.hs.slots n).map read | .segment _ _ => none
      dayUnreadable := hits.countP fun e => (chosen.filter s.segDamaged).any (lies e) }
    let asks (n : Nat) (h : SubscriberProgress) (x u : State) : Prop :=
      u.queryCtx c = some { q with stage := .grantWait, seg := n, work := .subscriber p h } ∧ (∀ i, i ≠ c → u.queryCtx i = s.queryCtx i) ∧
      u.wa = { x.wa with requests := s.wa.requests.set .query (s.wa.requests.get .query ++ [.query c]) } ∧ u.pc = x.pc ∧ u.lp = s.lp ∧
      u.ix = s.ix ∧ u.hs = s.hs ∧ u.au = x.au ∧ u.cs = x.cs ∧ u.ce = x.ce ∧ u.ie = s.ie ∧ u.ru = s.ru ∧ u.cl = s.cl ∧ u.ck = s.ck
    let answer (more : Bool) (list : List (CallRecord × Bool)) (lost : Nat) (x : State) : State :=
      answered q.tag Status.ok (flag more ++ (match list.getLast? with
          | none => [0]
          | some (r, _) => [1] ++ be 2 (r.start / 86400) ++ be 4 r.start ++ be 8 (r.source * 281474976710656 + r.sequence)) ++
          be 8 (count64 lost) ++ be 2 list.length ++ list.flatMap fun e => renderRecord e.1 e.2)
        { x with qa := { x.qa with contexts := Tab.del s.qa.contexts c, inFlight := Tab.del s.qa.inFlight c },
                 au := { x.au with current := bankAdd x.au.current .queriesServed 1 } }
    let rested (list : List (CallRecord × Bool)) (lost : Nat) : SubscriberProgress :=
      { toRead := [], candidates := [], dayUnreadable := 0, list := list, unreadable := lost }
    let later (d : Nat) : Prop := q.day < d ∧ d ≤ p.lastDay ∧ (s.part d).isSome
    let goesOn (list : List (CallRecord × Bool)) (lost : Nat) (x u : State) : Prop :=
      ((∀ d, ¬ later d) → u = answer false list lost x) ∧
      (∀ d y, later d → (∀ i, later i → d ≤ i) → s.part d = some y →
        u.queryCtx c = some { q with stage := .pinWait, day := d, work := .subscriber p (rested list lost) } ∧
        (∃ z, u.part d = some z ∧ z.waitQueue = y.waitQueue ++ [.query c] ∧ z.pins = y.pins) ∧ (∀ i, i ≠ d → u.part i = x.part i) ∧
        (∀ i, i ≠ c → u.queryCtx i = s.queryCtx i) ∧ u.lp = s.lp ∧ u.ix = s.ix ∧ u.hs = s.hs ∧ u.au = s.au ∧ u.cs = s.cs ∧ u.ce = s.ce ∧
        u.ie = s.ie ∧ u.ru = s.ru ∧ u.wa = s.wa ∧ u.cl = s.cl ∧ u.ck = s.ck)
    (let x := afterActivity (s.cl.settings.activityMask.testBit 2) false q.day s
     (∀ n l, atGrant.toRead = n :: l → asks n atGrant x (queryPinned c s)) ∧
     (atGrant.toRead = [] → queryPinned c s = subscriberDayEnd c q p atGrant x)) ∧
    (∀ (k : JobKind) (r : ReadResult), s.wa.engine = some { kind := k, who := .query c, quantum := .decode, seg := q.seg } → q.cancelling = false →
      let rs := s.decoded q.seg r
      let idle : State := { damagedAt q.seg rs.isNone s with wa := { s.wa with engine := none } }
      let found (l : List CallRecord) : List CallRecord := (l.zipIdx.filter fun e =>
        decide ((s.lookup (e.1.source * 281474976710656 + e.1.sequence)).map (·.loc) = some (.segment q.seg e.2)) &&
        decide (e.1.key = p.key) && p.classMask.testBit e.1.cls.code).map (·.1)
      let after : SubscriberProgress := { g with
        toRead := g.toRead.tail
        candidates := g.candidates ++ (found (rs.getD [])).map read
        dayUnreadable := if rs.isNone then g.dayUnreadable + hits.countP (fun e => lies e q.seg) else g.dayUnreadable }
      ∃ u, exec (.decodeCompletion r) s = .next (settleCompletion u) ∧
        (∀ n l, after.toRead = n :: l → asks n after idle u) ∧ (after.toRead = [] → u = subscriberDayEnd c q p after idle)) ∧
    goesOn g.list g.unreadable s (queryReleased c s) ∧
    ∀ (h : SubscriberProgress),
      let le (a b : Position) : Bool := decide (a.day < b.day) || (decide (a.day = b.day) && (decide (a.start < b.start) ||
        (decide (a.start = b.start) && decide (a.ref ≤ b.ref))))
      let place (e : CallRecord × Bool) : Position :=
        { day := e.1.start / 86400, start := e.1.start, ref := e.1.source * 281474976710656 + e.1.sequence }
      let bytes (l : List (CallRecord × Bool)) : Nat := 26 + (l.map fun e => if e.1.cell.isSome then 40 else 36).sum
      let x : State := { s with pc := { s.pc with parts := Tab.upd s.pc.parts q.day fun y => { y with pins := y.pins - 1 } } }
      let u := subscriberDayEnd c q p h s
      ∃ (sorted : List (CallRecord × Bool)) (n : Nat), sorted.Perm h.candidates ∧ sorted.Pairwise (fun a b => le (place a) (place b) = true) ∧
        let fresh := sorted.filter fun e => match p.resume with | none => true | some r => !le (place e) r
        let list := h.list ++ fresh.take n
        let lost := if fresh = [] ∧ p.resume.any (fun r => decide (r.day = q.day)) then h.unreadable else h.unreadable + h.dayUnreadable
        n ≤ fresh.length ∧ (∀ i, i < n → h.list.length + i < p.limit ∧ bytes (h.list ++ fresh.take (i + 1)) ≤ 8192) ∧
        (n < fresh.length → (p.limit ≤ list.length ∨ 8192 < bytes (h.list ++ fresh.take (n + 1))) ∧ u = answer true list h.unreadable x) ∧
        (n = fresh.length → p.limit ≤ list.length →
          ((∃ d, later d) → u = answer true list lost x) ∧ ((∀ d, ¬ later d) → u = answer false list lost x)) ∧
        (n = fresh.length → list.length < p.limit → goesOn list lost x u)

/-- AMEND: its answers in the order of R93, the amendment in place, and the start of a moving one (R8, R46, R48, R81, R92, R93, R94, R95,
R145, R149, 5.5 AMEND). -/
def Obligations.AmendServed : Prop :=
  ∀ (r : Request) (p : AmendParams) (pool : Pool) (s : State), Requested .amend r (.amend p) pool s → s.qa.contexts.length < 64 →
    s.waits .queryUnit = false → Settled s →
    let inRange := 1 ≤ p.ref / 281474976710656 ∧ p.ref / 281474976710656 ≤ 4095 ∧ p.ref % 281474976710656 < 1099511627776 ∧ p.charge ≤ 2147483647
    let busy := (∃ e ∈ s.qa.inFlight, e.2.params.ref = p.ref) ∨ 16 ≤ s.qa.inFlight.length
    (¬ inRange → exec (.amend r) s = .next (replied .amend r pool Status.valueRange [] s)) ∧
    (inRange → busy → exec (.amend r) s = .next (replied .amend r pool Status.amendBusy [] s)) ∧
    (inRange → ¬ busy →
      (s.lookup p.ref = none → exec (.amend r) s = .next (replied .amend r pool Status.notFound [] s)) ∧
      (∀ m, s.lookup p.ref = some m →
        (m.amendCount ≠ p.expected → exec (.amend r) s = .next (replied .amend r pool Status.amendConflict (be 1 m.amendCount)
          (s.mapAu fun a => { a with current := bankAdd a.current .amendConflicts 1 }))) ∧
        (m.amendCount = p.expected → m.amendCount = 255 → exec (.amend r) s = .next (replied .amend r pool Status.amendLimit [] s)) ∧
        (m.amendCount = p.expected → m.amendCount ≠ 255 →
          (∀ n o, m.loc = .segment n o → s.segActive n = false →
            exec (.amend r) s = .next (replied .amend r pool Status.unreadable [] s)) ∧
          (∀ n x t, m.loc = .hot n → Tab.get s.hs.slots n = some x → s.part m.day = some t → t.state ≠ .packing → t.state ≠ .repacking →
            TablesKeyed s →
            let active := afterActivity (s.cl.settings.activityMask.testBit 1) false (x.start / 86400) s
            let volume := p.volume.map fun v => if x.cls = .data then v else 0
            let altered := p.duration.any (fun d => decide (604800 < d)) || decide (volume ≠ p.volume)
            let y := { x with
              charge := p.charge, duration := (p.duration.map fun d => min d 604800).getD x.duration, volume := volume.getD x.volume,
              amendCount := x.amendCount + 1, clamped := x.clamped || altered }
            ∃ u, exec (.amend r) s = .next (settle u) ∧ u.hs.slots = Tab.put s.hs.slots n y ∧
              u.ix.map = Tab.put s.ix.map p.ref { key := y.key, day := y.start / 86400, cls := y.cls, late := y.late, clamped := y.clamped,
                                                  amendCount := y.amendCount, charge := y.charge, loc := .hot n } ∧
              u.au.accounts = Tab.upd s.au.accounts (accountKey x.source (x.start / 86400)) (fun a =>
                { a with amends := count64 (a.amends + 1), amendDelta := sum64 (a.amendDelta + ((p.charge : Int) - x.charge)) }) ∧
              u.au.current = bankAdd s.au.current .amendsApplied 1 ∧
              u.lp = (replied .amend r pool Status.ok (be 1 (x.amendCount + 1) ++ [0] ++ flag (x.clamped || altered)) s).lp ∧
              u.pc = active.pc ∧ u.wa = active.wa ∧ u.ce = active.ce ∧ u.qa = s.qa ∧ u.ck = s.ck ∧ u.ru = s.ru ∧ u.cs = s.cs ∧ u.ie = s.ie ∧
              u.cl = s.cl ∧ u.power = s.power) ∧
          (∀ t, s.part m.day = some t → Tab.rising s.qa.contexts = true →
            ((∃ n o, m.loc = .segment n o ∧ s.segActive n = true) ∨
              (∃ n x, m.loc = .hot n ∧ Tab.get s.hs.slots n = some x ∧ (t.state = .packing ∨ t.state = .repacking))) →
            ∃ u c, exec (.amend r) s = .next (settle u) ∧ Tab.get s.qa.contexts c = none ∧
              u.queryCtx c = some { tag := r.tag.toNat, epoch := s.lp.epoch, stage := .pinWait, cancelling := false, day := m.day, seg := 0, ord := 0,
                                    work := .amend p } ∧
              Tab.get u.qa.inFlight c = some { params := p, day := m.day, loc := m.loc, copy := none, phase := .pinWait } ∧
              (∃ q, u.part m.day = some q ∧ q.waitQueue = t.waitQueue ++ [.query c] ∧ q.pins = t.pins) ∧
              u.lp = (takenState .amend r pool s).lp ∧ u.ix = s.ix ∧ u.hs = s.hs ∧ u.au = s.au ∧ u.ck = s.ck ∧ u.ie = s.ie ∧ u.ce = s.ce ∧
              u.cs = s.cs ∧ u.ru = s.ru ∧ u.wa = s.wa ∧ u.cl = s.cl))))

/-- A moving amendment: its second look at the pin grant, its decode, its admission as a mover, and the move (log entry 39) (R46, R81, R92,
R95, R96, R97, R98, R99, R104, R145, R149, R160). -/
def Obligations.MovingAmendment : Prop :=
  ∀ (c : Nat) (q : QueryContext) (p : AmendParams) (f : AmendFlight) (t : Partition) (s : State), s.queryCtx c = some q → q.work = .amend p →
    q.epoch = s.lp.epoch → Tab.get s.qa.inFlight c = some f → s.part q.day = some t →
    let pins (x : State) : State := { x with pc := { x.pc with parts := Tab.upd x.pc.parts q.day fun y => { y with pins := y.pins - 1 } } }
    let leaves (x : State) : State := { x with pc := { x.pc with parts := Tab.upd x.pc.parts q.day fun y => { y with moverHolding := false } } }
    let conflict (x : State) : State := { x with au := { x.au with current := bankAdd x.au.current .amendConflicts 1 } }
    let ended (status : Nat) (payload : Bytes) (x : State) : State := answered q.tag status payload
      { x with qa := { x.qa with contexts := Tab.del s.qa.contexts c, inFlight := Tab.del s.qa.inFlight c } }
    let version (x : CallRecord) : CallRecord :=
      let volume := p.volume.map fun v => if x.cls = .data then v else 0
      { x with
        charge := p.charge, duration := (p.duration.map fun d => min d 604800).getD x.duration, volume := volume.getD x.volume,
        amendCount := x.amendCount + 1,
        clamped := x.clamped || p.duration.any (fun d => decide (604800 < d)) || decide (volume ≠ p.volume) }
    let entry (y : CallRecord) (n : Nat) : MapEntry :=
      { key := y.key, day := y.start / 86400, cls := y.cls, late := y.late, clamped := y.clamped, amendCount := y.amendCount,
        charge := y.charge, loc := .hot n }
    let tallied (x : CallRecord) (a : AuditUnit) : AuditUnit :=
      { a with current := bankAdd a.current .amendsApplied 1, accounts := Tab.upd a.accounts (accountKey x.source (x.start / 86400)) fun b =>
        { b with amends := count64 (b.amends + 1), amendDelta := sum64 (b.amendDelta + ((p.charge : Int) - x.charge)) } }
    let active : Partition → Partition := partAfterActivity (s.cl.settings.activityMask.testBit 1) false s.wa.pressure
    let asksMover (loc : Location) (x : CallRecord) (u : State) : Prop :=
      u.qa = { s.qa with inFlight := Tab.upd s.qa.inFlight c fun g => { g with loc := loc, copy := some x, phase := .moverWait } } ∧
      u.part q.day = some { t with pins := t.pins - 1, waitQueue := t.waitQueue ++ [.move c], moverWaiting := true } ∧
      (∀ d, d ≠ q.day → u.part d = s.part d) ∧ u.lp = s.lp ∧ u.ix = s.ix ∧ u.hs = s.hs ∧ u.ie = s.ie ∧ u.ce = s.ce ∧ u.ru = s.ru ∧
      u.cl = s.cl ∧ u.ck = s.ck
    queryReleased c s = ended Status.notFound [] s ∧
    (s.lookup p.ref = none → queryPinned c s = ended Status.notFound [] (pins s) ∧ moveAdmitted c s = ended Status.notFound [] (leaves s)) ∧
    (∀ m, s.lookup p.ref = some m →
      (m.amendCount ≠ p.expected → queryPinned c s = ended Status.amendConflict (be 1 m.amendCount) (conflict (pins s))) ∧
      (m.amendCount = p.expected →
        (∀ n o, m.loc = .segment n o → s.segActive n = false → queryPinned c s = ended Status.unreadable [] (pins s)) ∧
        (∀ n o, m.loc = .segment n o → s.segActive n = true → ∃ u, queryPinned c s = u ∧
          u.queryCtx c = some { q with stage := .grantWait, seg := n, ord := o } ∧ (∀ i, i ≠ c → u.queryCtx i = s.queryCtx i) ∧
          u.qa.inFlight = Tab.upd s.qa.inFlight c (fun g => { g with loc := m.loc, phase := .reading }) ∧
          u.wa = { s.wa with requests := s.wa.requests.set .query (s.wa.requests.get .query ++ [.query c]) } ∧ u.pc = s.pc ∧ u.lp = s.lp ∧
          u.ix = s.ix ∧ u.hs = s.hs ∧ u.au = s.au ∧ u.cs = s.cs ∧ u.ce = s.ce ∧ u.ie = s.ie ∧ u.ru = s.ru ∧ u.cl = s.cl ∧ u.ck = s.ck) ∧
        (∀ n x, m.loc = .hot n → Tab.get s.hs.slots n = some x → t.state = .packing ∨ t.state = .repacking →
          asksMover m.loc x (queryPinned c s) ∧ (queryPinned c s).wa = s.wa ∧ (queryPinned c s).au = s.au ∧ (queryPinned c s).cs = s.cs) ∧
        (∀ n x, m.loc = .hot n → Tab.get s.hs.slots n = some x → t.state ≠ .packing → t.state ≠ .repacking → ∃ u y, queryPinned c s = u ∧
          u.hs.slots = Tab.put s.hs.slots n (version x) ∧ u.ix.map = Tab.put s.ix.map p.ref (entry (version x) n) ∧ u.au = tallied x s.au ∧
          u.lp = (answered q.tag Status.ok (be 1 (x.amendCount + 1) ++ [0] ++ flag (version x).clamped) s).lp ∧
          u.qa = (ended Status.ok [] s).qa ∧ u.part q.day = some y ∧ y.pins = t.pins - 1 ∧
          (x.start / 86400 = q.day → y = { active t with pins := t.pins - 1 }) ∧ u.cs = s.cs ∧ u.ie = s.ie ∧ u.ru = s.ru ∧ u.cl = s.cl ∧
          u.ck = s.ck)) ∧
      (m.amendCount ≠ p.expected ∨ m.loc ≠ f.loc →
        moveAdmitted c s = ended Status.amendConflict (be 1 m.amendCount) (conflict (leaves s))) ∧
      (∀ x, m.amendCount = p.expected → m.loc = f.loc → f.copy = some x →
        (67108864 ≤ s.hs.slots.length → moveAdmitted c s = ended Status.notReady [] (leaves s)) ∧
        (s.hs.slots.length < 67108864 → TablesKeyed s → x.start / 86400 = q.day →
          (∀ n, f.loc = .hot n → (Tab.get s.hs.slots n).isSome) →
          (∀ n o, f.loc = .segment n o → ∃ e, s.seg n = some e ∧ e.day = q.day) →
          let kept : Bool := s.ce.job.any fun j => decide (j.day = q.day) && j.members.any fun b => decide (b.loc = f.loc)
          let left (n : Nat) : Bool := match f.loc with | .segment i _ => decide (i = n) | .hot _ => false
          let freed (n : Nat) : Bool := left n && (s.seg n).any fun e => decide (e.live ≤ 1)
          let gone : Bool := match f.loc with | .segment n _ => freed n | .hot _ => false
          let leaves' (l : List Nat) : List Nat := if t.state = .quiet ∧ (active t).state = .opened then l.filter (· != q.day) else l
          ∃ u k y, moveAdmitted c s = u ∧ Tab.get s.hs.slots k = none ∧
            (∀ i, Tab.get u.hs.slots i =
              if i = k then some (version x) else if f.loc = .hot i ∧ kept = false then none else Tab.get s.hs.slots i) ∧
            u.ix.map = Tab.put s.ix.map p.ref (entry (version x) k) ∧ u.au = tallied x s.au ∧
            (∀ n, u.seg n = if freed n then none else if left n then (s.seg n).map (fun e => { e with live := e.live - 1 }) else s.seg n) ∧
            u.ce = { s.ce with coldFull := s.ce.coldFull && !gone, coldWait := leaves' (if gone then [] else s.ce.coldWait) } ∧
            (gone = false ∨ QueuesAgree s → u.wa.packQueue = leaves' (if gone then s.wa.packQueue ++ s.ce.coldWait else s.wa.packQueue)) ∧
            u.wa = { s.wa with packQueue := u.wa.packQueue, repackQueue := u.wa.repackQueue } ∧ (∀ d, d ≠ q.day → u.part d = s.part d) ∧
            u.lp = (answered q.tag Status.ok (be 1 (x.amendCount + 1) ++ [1] ++ flag (version x).clamped) s).lp ∧
            u.qa = (ended Status.ok [] s).qa ∧
            u.part q.day = some y ∧ y.moverHolding = false ∧ y.live = t.live ∧ y.segments = t.segments.filter (fun n => !freed n) ∧
            y.hotCount = (match f.loc with | .hot _ => if kept then t.hotCount + 1 else t.hotCount | .segment _ _ => t.hotCount + 1) ∧
            (let listed := y.segments.filterMap fun n => (u.seg n).filter fun e => decide (e.state = .active)
             u.wa.repackQueue = if t.state = .packed ∧ q.day ∉ s.wa.repackQueue ∧ (s.cl.settings.repackThreshold ≤ y.hotCount ∨
                 100 * (listed.map (·.live)).sum < s.cl.settings.repackPercent * (listed.map (·.records)).sum)
               then s.wa.repackQueue ++ [q.day] else s.wa.repackQueue) ∧
            y.state = (active t).state ∧ y.quietElapsed = (active t).quietElapsed ∧ y.quietExpired = (active t).quietExpired ∧
            (t.state = .quiet → (active t).state = .opened → q.day ∉ u.wa.packQueue ∧ q.day ∉ u.ce.coldWait) ∧
            u.ie = s.ie ∧ u.ru = s.ru ∧ u.cl = s.cl ∧ u.ck = s.ck))) ∧
    (∀ (k : JobKind) (read : ReadResult), s.wa.engine = some { kind := k, who := .query c, quantum := .decode, seg := q.seg } →
      let idle (x : State) : State := { x with wa := { s.wa with engine := none } }
      (∀ rs x, s.decoded q.seg read = some rs → rs[q.ord]? = some x → ∃ u, exec (.decodeCompletion read) s = .next (settleCompletion u) ∧
        asksMover (.segment q.seg q.ord) x u ∧ u.wa = { s.wa with engine := none } ∧ u.au = s.au ∧ u.cs = s.cs) ∧
      (s.decoded q.seg read = none → exec (.decodeCompletion read) s =
        .next (settleCompletion (ended Status.unreadable [] (pins (idle (damagedAt q.seg true s)))))))

/-- AUDIT_SCAN and VERIFY_DAYS: VALUE_RANGE, SCAN_BUSY, an empty range answered at once, or a slot that asks for its first pin (R153, R155,
R156, R159, 8.3 Scan slots and AUDIT_SCAN, 8.4 Verification and damage). -/
def Obligations.ScansTaken : Prop :=
  ∀ (r : Request) (pool : Pool) (s : State), Settled s → TablesKeyed s →
    let onFirstDay (k : Kind) (first last : Nat) (work : ScanWork) (row : Instr) (none : Bytes) : Prop :=
      ((∀ d q, s.part d = some q → ¬ (first ≤ d ∧ d ≤ last)) → exec row s = .next (replied k r pool Status.ok none s)) ∧
      (∀ d t, s.part d = some t → first ≤ d → d ≤ last → (∀ d' q, s.part d' = some q → first ≤ d' → d ≤ d') →
        ∃ u n, exec row s = .next (settle u) ∧ Tab.get s.au.slots n = .none ∧
          u.scanSlot n = some { tag := r.tag.toNat, epoch := s.lp.epoch, stage := .pinWait, cancelling := false, visiting := d, toRead := [],
                                work := work } ∧
          (∃ q, u.part d = some q ∧ q.waitQueue = t.waitQueue ++ [.scan n] ∧ q.pins = t.pins) ∧
          u.lp = (takenState k r pool s).lp ∧ u.ix = s.ix ∧ u.hs = s.hs ∧ u.au.accounts = s.au.accounts ∧ u.au.current = s.au.current ∧
          u.ck = s.ck ∧ u.ie = s.ie ∧ u.qa = s.qa ∧ u.ce = s.ce ∧ u.cs = s.cs ∧ u.ru = s.ru ∧ u.wa = s.wa ∧ u.cl = s.cl)
    (∀ f : ScanFilter, Requested .auditScan r (.auditScan f) pool s →
      let bad := 4095 < f.sourceMatch ∨ 4095 < f.sourceMask ∨ f.classMask = 0 ∨ 49710 < f.lastDay ∨ f.lastDay < f.firstDay ∨
        f.flagsMatch &&& f.flagsMask ≠ f.flagsMatch
      (bad → exec (.auditScan r) s = .next (replied .auditScan r pool Status.valueRange [] s)) ∧
      (¬ bad → 4 ≤ s.au.slots.length → exec (.auditScan r) s = .next (replied .auditScan r pool Status.scanBusy [] s)) ∧
      (¬ bad → s.au.slots.length < 4 →
        onFirstDay .auditScan f.firstDay f.lastDay
          (.scan f { visited := 0, matched := 0, durationSum := 0, volumeSum := 0, chargeSum := 0, buckets := [0, 0, 0, 0, 0, 0],
                     unreadable := 0, earliest := none, latest := none }) (.auditScan r) (List.replicate 94 0))) ∧
    (∀ first last : Nat, Requested .verifyDays r (.verifyDays first last) pool s →
      (49710 < last ∨ last < first → exec (.verifyDays r) s = .next (replied .verifyDays r pool Status.valueRange [] s)) ∧
      (last ≤ 49710 → first ≤ last → 4 ≤ s.au.slots.length →
        exec (.verifyDays r) s = .next (replied .verifyDays r pool Status.scanBusy [] s)) ∧
      (last ≤ 49710 → first ≤ last → s.au.slots.length < 4 →
        onFirstDay .verifyDays first last (.verify first last { visited := 0, checked := 0, newlyDamaged := 0, alreadyDamaged := 0 })
          (.verifyDays r) (List.replicate 16 0)))

/-- AUDIT_SCAN and VERIFY_DAYS visit a day: the filter, what a match adds, the segments read in turn, the visit's end and the answer (R82,
R153, R154, R155, R156, R159, R160, R164, 8.3 Scan slots and AUDIT_SCAN, 8.4 Verification and damage). -/
def Obligations.ScanVisits : Prop :=
  ∀ (i : Nat) (q : ScanSlot) (t : Partition) (s : State), s.scanSlot i = some q → s.part q.visiting = some t → q.epoch = s.lp.epoch →
    TablesKeyed s →
    let time (v : Option Nat) : Bytes := match v with | none => [0] | some x => [1] ++ be 4 x
    let payload (w : ScanWork) : Bytes := match w with
      | .scan _ r => be 4 r.visited ++ be 8 r.matched ++ beInt r.durationSum ++ beInt r.volumeSum ++ beInt r.chargeSum ++
          r.buckets.flatMap (be 8) ++ be 8 r.unreadable ++ time r.earliest ++ time r.latest
      | .verify _ _ r => be 4 r.visited ++ be 4 r.checked ++ be 4 r.newlyDamaged ++ be 4 r.alreadyDamaged
    let last (w : ScanWork) : Nat := match w with | .scan f _ => f.lastDay | .verify _ b _ => b
    let counted (w : ScanWork) : ScanWork := match w with
      | .scan f r => .scan f { r with visited := r.visited + 1 }
      | .verify a b r => .verify a b { r with visited := r.visited + 1 }
    let pins (x : State) : State := { x with pc := { x.pc with parts := Tab.upd x.pc.parts q.visiting fun y => { y with pins := y.pins - 1 } } }
    let asks (w : ScanWork) (left : List Nat) (x u : State) : Prop :=
      let k : JobKind := match w with | .scan _ _ => .scan | .verify _ _ _ => .verify
      u.scanSlot i = some { q with stage := .grantWait, toRead := left, work := w } ∧ (∀ n, n ≠ i → u.scanSlot n = s.scanSlot n) ∧
      u.wa = { x.wa with requests := s.wa.requests.set k (s.wa.requests.get k ++ [.slot i]) } ∧ u.au = { x.au with slots := u.au.slots } ∧
      u.pc = s.pc ∧ u.lp = s.lp ∧ u.ix = s.ix ∧ u.hs = s.hs ∧
      u.cs = x.cs ∧ u.qa = s.qa ∧ u.ce = s.ce ∧ u.ie = s.ie ∧ u.ru = s.ru ∧ u.cl = s.cl ∧ u.ck = s.ck
    let goesOn (w : ScanWork) (x u : State) : Prop :=
      let later (d : Nat) : Prop := q.visiting < d ∧ d ≤ last w ∧ (s.part d).isSome
      ((∀ d, ¬ later d) → u = answered q.tag Status.ok (payload w) { x with au := { x.au with slots := Tab.del s.au.slots i } }) ∧
      (∀ d y, later d → (∀ n, later n → d ≤ n) → s.part d = some y →
        u.scanSlot i = some { q with stage := .pinWait, visiting := d, toRead := [], work := w } ∧
        (∃ z, u.part d = some z ∧ z.waitQueue = y.waitQueue ++ [.scan i] ∧ z.pins = y.pins) ∧ (∀ n, n ≠ d → u.part n = x.part n) ∧
        (∀ n, n ≠ i → u.scanSlot n = s.scanSlot n) ∧ u.au = { x.au with slots := u.au.slots } ∧
        u.lp = s.lp ∧ u.ix = s.ix ∧ u.hs = s.hs ∧ u.cs = x.cs ∧ u.qa = s.qa ∧ u.ce = s.ce ∧ u.ie = s.ie ∧ u.ru = s.ru ∧ u.wa = x.wa ∧
        u.cl = s.cl ∧ u.ck = s.ck)
    let proceeds (w : ScanWork) (left : List Nat) (x u : State) : Prop :=
      (left ≠ [] → asks w left x u) ∧ (left = [] → goesOn (counted w) (pins x) u)
    let active := t.segments.filter s.segActive
    let lies (e : MapEntry) (n : Nat) : Bool := match e.loc with | .segment k _ => decide (k = n) | .hot _ => false
    let idle (n : Nat) (failed : Bool) : State := { damagedAt n failed s with wa := { s.wa with engine := none } }
    goesOn q.work s (scanReleased i s) ∧
    (∀ (f : ScanFilter) (r : ScanResult), q.work = .scan f r → f.flagsMask < 16 →
      let bit (n : Nat) (b : Bool) : Bool := !f.flagsMask.testBit n || f.flagsMatch.testBit n == b
      let passes (e : Nat × MapEntry) : Bool :=
        (e.1 / 281474976710656) &&& f.sourceMask == f.sourceMatch &&& f.sourceMask && f.classMask.testBit e.2.cls.code &&
        decide (f.firstDay ≤ e.2.day) && decide (e.2.day ≤ f.lastDay) && e.2.key &&& f.keyMask == f.keyMatch &&& f.keyMask &&
        bit 0 (decide (0 < e.2.amendCount)) && bit 1 e.2.late && bit 2 e.2.clamped && bit 3 (s.held e.2.key e.2.day e.2.cls)
      let found : List MapEntry := (s.ix.map.filter fun e => decide (e.2.day = q.visiting) && passes e).map (·.2)
      let bucket (d : Nat) : Nat :=
        if d = 0 then 0 else if d < 60 then 1 else if d < 300 then 2 else if d < 1800 then 3 else if d < 3600 then 4 else 5
      let add (v : ScanResult) (x : CallRecord) : ScanResult := { v with
        matched := count64 (v.matched + 1), durationSum := sum64 (v.durationSum + x.duration), volumeSum := sum64 (v.volumeSum + x.volume),
        chargeSum := sum64 (v.chargeSum + x.charge), buckets := v.buckets.modify (bucket x.duration) (fun n => count64 (n + 1)),
        earliest := some ((v.earliest.map fun a => min a x.start).getD x.start), latest := some ((v.latest.map fun a => max a x.start).getD x.start) }
      let missed (v : ScanResult) (n : Nat) : ScanResult := { v with unreadable := count64 (v.unreadable + n) }
      proceeds (.scan f (missed
        ((found.filterMap fun e => match e.loc with | .hot n => Tab.get s.hs.slots n | .segment _ _ => none).foldl add r)
        (found.countP fun e => match e.loc with | .segment n _ => s.segDamaged n | .hot _ => false))) active s (scanPinned i s) ∧
      ∀ (k : JobKind) (n : Nat) (rest : List Nat) (read : ReadResult), q.cancelling = false → q.toRead = n :: rest →
        s.wa.engine = some { kind := k, who := .slot i, quantum := .decode, seg := n } →
        let rs := s.decoded n read
        let matched (l : List CallRecord) : List CallRecord := (l.zipIdx.filter fun e =>
          let ref := e.1.source * 281474976710656 + e.1.sequence
          (s.lookup ref).any fun m => decide (m.loc = .segment n e.2) && passes (ref, m)).map (·.1)
        ∃ u, exec (.decodeCompletion read) s = .next (settleCompletion u) ∧
          proceeds (.scan f (match rs with | some l => (matched l).foldl add r | none => missed r (found.countP fun e => lies e n)))
            rest (idle n rs.isNone) u) ∧
    (∀ (a b : Nat) (r : VerifyResult), q.work = .verify a b r →
      proceeds (.verify a b { r with alreadyDamaged := r.alreadyDamaged + (t.segments.filter s.segDamaged).length }) active s (scanPinned i s) ∧
      ∀ (k : JobKind) (n : Nat) (rest : List Nat) (read : ReadResult), q.cancelling = false → q.toRead = n :: rest →
        s.wa.engine = some { kind := k, who := .slot i, quantum := .check, seg := n } →
        let failed := !s.checkPasses n read
        ∃ u, exec (.readCompletion read) s = .next (settleCompletion u) ∧
          proceeds (.verify a b { r with checked := r.checked + 1, newlyDamaged := r.newlyDamaged + (if failed then 1 else 0) })
            rest (idle n failed) u)

/-- CANCEL: VALUE_RANGE, NOT_FOUND, or OK with the request ended at its next boundary, at once or at its completion (two answers: log entry
20) (R91, R157, R158, R160, 8.3 Scan slots and AUDIT_SCAN). -/
def Obligations.CancelServed : Prop :=
  (∀ (r : Request) (tag : Nat) (pool : Pool) (s : State), Requested .cancel r (.cancel tag) pool s → Settled s →
       let ours (t e : Nat) : Bool := t == tag && e == s.lp.epoch
       let ok := replied .cancel r pool Status.ok [] s
       (63 < tag → exec (.cancel r) s = .next (replied .cancel r pool Status.valueRange [] s)) ∧
       (tag ≤ 63 → (∀ e ∈ s.au.slots, ours e.2.tag e.2.epoch = false) →
         ((∀ e ∈ s.qa.contexts, e.2.isSubscriber = true → ours e.2.tag e.2.epoch = false) →
           exec (.cancel r) s = .next (replied .cancel r pool Status.notFound [] s)) ∧
         (∀ c q, Tab.first s.qa.contexts (fun _ x => x.isSubscriber && x.tag == tag && x.epoch == s.lp.epoch) = some (c, q) →
           let freed (t : State) : State :=
             (answered tag Status.cancelled [] t).mapQa fun u => { contexts := Tab.del u.contexts c, inFlight := Tab.del u.inFlight c }
           exec (.cancel r) s = .next (settle (match q.stage with
             | .pinWait => freed (leaveQueue q.day (.query c) ok)
             | .grantWait => freed (releasePin q.day (withdrawRequest .query (.query c) ok))
             | .quantum => ok.mapQa fun u => { u with contexts := Tab.upd u.contexts c fun x => { x with cancelling := true } })))) ∧
       (tag ≤ 63 → ∀ n q, Tab.first s.au.slots (fun _ x => x.tag == tag && x.epoch == s.lp.epoch) = some (n, q) →
         let freed (t : State) : State := (answered tag Status.cancelled [] t).mapAu fun a => { a with slots := Tab.del a.slots n }
         exec (.cancel r) s = .next (settle (match q.stage with
           | .pinWait => freed (leaveQueue q.visiting (.scan n) ok)
           | .grantWait => freed (releasePin q.visiting (withdrawRequest q.work.kind (.slot n) ok))
           | .quantum => ok.mapAu fun a => { a with slots := Tab.upd a.slots n fun x => { x with cancelling := true } })))) ∧
  (∀ (c : Nat) (q : QueryContext) (p : SubscriberParams) (g : SubscriberProgress) (k : JobKind) (n : Nat) (read : ReadResult) (s : State),
    s.wa.engine = some { kind := k, who := .query c, quantum := .decode, seg := n } → s.queryCtx c = some q →
    q.work = .subscriber p g → q.cancelling = true →
    let s' := damagedAt n (s.decoded n read).isNone s
    ∃ u, exec (.decodeCompletion read) s = .next (settleCompletion u) ∧ u.queryCtx c = none ∧ (∀ i, i ≠ c → u.queryCtx i = s.queryCtx i) ∧
      u.lp = (if q.epoch = s.lp.epoch then answered q.tag Status.cancelled [] s else s).lp ∧
      u.pc = { s.pc with parts := Tab.upd s.pc.parts q.day fun x => { x with pins := x.pins - 1 } } ∧ u.wa = { s.wa with engine := none } ∧
      u.cs = s'.cs ∧ u.au = s'.au ∧ u.ix = s.ix ∧ u.hs = s.hs ∧ u.ie = s.ie ∧ u.ce = s.ce ∧ u.ru = s.ru ∧ u.cl = s.cl ∧ u.ck = s.ck) ∧
  ∀ (i : Nat) (q : ScanSlot) (k : JobKind) (quantum : Quantum) (n : Nat) (read : ReadResult) (s : State),
    s.wa.engine = some { kind := k, who := .slot i, quantum := quantum, seg := n } → s.scanSlot i = some q → q.cancelling = true →
    (match q.work with | .scan _ _ => quantum = .decode | .verify _ _ _ => quantum = .check) →
    let failed := if quantum = .decode then (s.decoded n read).isNone else !s.checkPasses n read
    let s' := damagedAt n failed s
    ∃ u, exec (if quantum = .decode then .decodeCompletion read else .readCompletion read) s = .next (settleCompletion u) ∧
      u.au = { s'.au with slots := Tab.del s.au.slots i } ∧
      u.lp = (if q.epoch = s.lp.epoch then answered q.tag Status.cancelled [] s else s).lp ∧
      u.pc = { s.pc with parts := Tab.upd s.pc.parts q.visiting fun x => { x with pins := x.pins - 1 } } ∧
      u.wa = { s.wa with engine := none } ∧ u.cs = s'.cs ∧ u.ix = s.ix ∧ u.hs = s.hs ∧ u.ie = s.ie ∧ u.qa = s.qa ∧ u.ce = s.ce ∧
      u.ru = s.ru ∧ u.cl = s.cl ∧ u.ck = s.ck

/-- SORT_END and WRITE_COMPLETION: the job goes on, asks as mover after its last segment, or fails at a write fault (engine IDLE: log entry
6) (R105, R116, R117, R119, R123, R163, 6.5 The pack job, 6.6 The repack job). -/
def Obligations.SortAndWriteCompletions : Prop :=
  (∀ (j : Job) (g : Grant) (s : State), s.ce.job = some j → s.wa.engine = some g →
    let kind : JobKind := if j.repack then .repack else .pack
    let asks (job : Job) (t : State) : State :=
      (t.mapCe fun c => { c with job := some job }).mapWa fun w =>
        { w with engine := none, requests := w.requests.set kind (w.requests.get kind ++ [.job]) }
    (g.quantum = .sort → exec .sortEnd s = .next (settleCompletion (asks j s))) ∧
    (g.quantum = .write → ∀ n, j.writing = some n →
      let stored := s.mapCs fun c => { c with bodies := Tab.put c.bodies n j.body }
      let job := { j with
        written := j.written ++ [(n, j.run)], rest := j.rest.drop j.run.length, run := [], body := [], writing := none }
      (j.rest.drop j.run.length ≠ [] → exec (.writeCompletion false) s = .next (settleCompletion (asks job stored))) ∧
      (j.rest.drop j.run.length = [] → exec (.writeCompletion false) s = .next (settleCompletion (joinQueue j.day .job
        ((stored.mapWa fun w => { w with engine := none }).mapCe fun c => { c with job := some { job with phase := .switchWait } })))) ∧
      (∀ p, s.part j.day = some p → ∃ u, exec (.writeCompletion true) s = .next (settleCompletion u) ∧ u.wa.engine = none ∧ u.ce.job = none ∧
        u.ce.coldFull = s.ce.coldFull ∧ u.ix = s.ix ∧ u.au.current = bankAdd s.au.current .packFailures 1 ∧
        Tab.get u.cs.dir n = none ∧ (∀ w ∈ j.written, Tab.get u.cs.dir w.1 = none) ∧
        (∀ k, k ≠ n → (∀ w ∈ j.written, k ≠ w.1) → Tab.get u.cs.dir k = Tab.get s.cs.dir k) ∧
        SlotsReleased j.members s u ∧ (∃ q, u.part j.day = some q ∧ q.state = (if j.repack then .packed else .quiet) ∧
          q.hotCount = p.hotCount - movedSlots j.members s ∧ q.live = p.live ∧ q.segments = p.segments) ∧
        (j.repack = false → j.day ∈ u.wa.packQueue) ∧ u.lp = s.lp ∧ u.ck = s.ck ∧ u.ie = s.ie ∧ u.qa = s.qa ∧ u.ru = s.ru ∧
        u.cl = s.cl))) ∧
  ∀ (fault : Bool) (s : State), s.wa.engine = none → Settled s →
    exec .sortEnd s = .next s ∧ exec (.writeCompletion fault) s = .next s

/-- The switch-over of a pack or repack job: entries still at their snapshot locations move to the new segments, what they leave is
released (R41, R81, R104, R113, R120, R123, 6.5 The pack job, 6.6 The repack job). -/
def Obligations.SwitchOverMoves : Prop :=
  ∀ (j : Job) (p : Partition) (s : State), s.ce.job = some j → s.part j.day = some p → (j.written.map (·.1)).Nodup →
    (∀ w ∈ j.written, (s.seg w.1).isSome) → ((j.written.flatMap (·.2)).map (·.ref)).Nodup →
    let members := j.written.flatMap (·.2)
    let gone (k : Nat) : Nat := members.countP fun m => m.stays s && m.inSegment k
    let freed (k : Nat) : Prop := ∃ e, s.seg k = some e ∧ 0 < gone k ∧ e.live ≤ gone k
    (∀ k, 0 < gone k → k ∉ j.written.map (·.1) ∧ ∀ e, s.seg k = some e → e.day = j.day) →
    let moved (ms : List Member) : Nat := ms.countP fun m => m.stays s
    let t := switchOver s
    (∀ w ∈ j.written, ∀ (i : Nat) (m : Member), w.2[i]? = some m → t.lookup m.ref =
      if m.stays s then (s.lookup m.ref).map fun x => { x with loc := .segment w.1 i } else s.lookup m.ref) ∧
    (∀ ref, (∀ m ∈ members, m.ref ≠ ref) → t.lookup ref = s.lookup ref) ∧
    (∀ k, Tab.get t.hs.slots k = if (∃ m ∈ members, m.loc = .hot k) then none else Tab.get s.hs.slots k) ∧
    (∀ w ∈ j.written, t.seg w.1 =
      if moved w.2 = 0 then none else (s.seg w.1).map fun e => { e with state := .active, live := moved w.2 }) ∧
    (∀ k, k ∉ j.written.map (·.1) → t.seg k = (s.seg k).bind fun e =>
      if 0 < gone k ∧ e.live ≤ gone k then none else some { e with live := e.live - gone k }) ∧
    t.au = { s.au with current := (j.written.filter fun w => moved w.2 ≠ 0).foldl (fun b _ => bankAdd b .segmentsWritten 1) s.au.current } ∧
    (∃ q, t.part j.day = some q ∧
      q = { p with state := .packed, moverHolding := false, hotCount := q.hotCount, segments := q.segments } ∧
      q.hotCount = t.ix.map.countP (fun e => decide (e.2.day = j.day) && match e.2.loc with | .hot _ => true | .segment _ _ => false) ∧
      (∀ n, n ∈ q.segments ↔ (n ∈ p.segments ∧ ¬ freed n) ∨ ∃ w ∈ j.written, w.1 = n ∧ moved w.2 ≠ 0) ∧
      let key (n : Nat) : Nat := match s.seg n with | some e => e.firstKey | none => 0
      let arrived := p.segments.filter (fun n => (t.seg n).isSome || (s.seg n).isNone) ++ (j.written.filter fun w => moved w.2 ≠ 0).map (·.1)
      (p.segments.Pairwise (fun a b => key a ≤ key b) → (∀ w ∈ j.written, w.1 ∉ p.segments) →
        q.segments.Pairwise (fun a b => key a ≤ key b) ∧
        ∀ k, q.segments.filter (fun n => key n = k) = arrived.filter (fun n => key n = k))) ∧
    (∀ d, d ≠ j.day → t.part d = s.part d) ∧
    ((∃ k, freed k) → t.ce = { s.ce with job := none, coldFull := false, coldWait := [] } ∧
      (QueuesAgree s → t.wa.packQueue = s.wa.packQueue ++ s.ce.coldWait)) ∧
    ((¬ ∃ k, freed k) → t.ce = { s.ce with job := none } ∧ t.wa = s.wa) ∧ t.wa = { s.wa with packQueue := t.wa.packQueue } ∧
    t.lp = s.lp ∧ t.ck = s.ck ∧ t.ru = s.ru ∧ t.ie = s.ie ∧ t.qa = s.qa ∧ t.cl = s.cl ∧ t.power = s.power

/-- The first REPACK grant takes the snapshot and asks for the decodes of its old segments; each decode fills or drops its members (R108,
R121, R122, R137, R160, R163, 6.6 The repack job). -/
def Obligations.RepackJob : Prop :=
  let lies (m : Member) (n : Nat) : Bool := match m.loc with | .segment k _ => decide (k = n) | .hot _ => false
  let inOrder (l : List Member) : Prop := l.Pairwise fun a b => ∀ x y, a.copy = some x → b.copy = some y → recordLe x y = true
  (∀ (lvl d : Nat) (rest : List Nat) (p : Partition) (s : State), s.wa.engine = none → s.decision = some (lvl, .repack) →
    s.wa.requests.get .repack = [] → s.ce.job = none → s.wa.repackQueue = d :: rest → (∀ w, s.ru.sweep = some w → w.day ≠ d) →
    s.part d = some p →
    let active := p.segments.filter s.segActive
    let taken (m : MapEntry) : Bool := decide (m.day = d) && match m.loc with | .hot _ => true | .segment n _ => decide (n ∈ active)
    let members : List Member := (s.ix.map.filter fun e => taken e.2).map fun e =>
      { ref := e.1, loc := e.2.loc, copy := match e.2.loc with | .hot n => Tab.get s.hs.slots n | .segment _ _ => none }
    (∀ m ∈ members, ∀ n, m.loc = .hot n → m.copy.isSome) →
    let holding := active.filter fun n => members.any fun m => lies m n
    let job : Job := { repack := true, day := d, phase := .decoding, members := members, rest := [], run := [], body := [], writing := none,
                       written := [], toDecode := holding }
    ∃ t, grantEngine s = some t ∧ t.wa = { s.wa with
        pointers := s.wa.pointers.set lvl (some .repack), repackQueue := rest.filter (· != d),
        requests := s.wa.requests.set .repack (if members = [] then [] else [.job]) } ∧
      t.part d = some { p with state := if members = [] then .packed else .repacking } ∧ (∀ i, i ≠ d → t.part i = s.part i) ∧
      (members = [] → t.ce = s.ce) ∧ (holding ≠ [] → t.ce = { s.ce with job := some job }) ∧
      (members ≠ [] → holding = [] → ∃ sorted, sorted.Perm members ∧ inOrder sorted ∧
        t.ce = { s.ce with job := some { job with phase := .encoding, rest := sorted } }) ∧
      t.ix = s.ix ∧ t.hs = s.hs ∧ t.cs = s.cs ∧ t.au = s.au ∧ t.lp = s.lp ∧ t.ru = s.ru ∧ t.ie = s.ie ∧ t.qa = s.qa ∧ t.cl = s.cl ∧
      t.ck = s.ck) ∧
  ∀ (j : Job) (n : Nat) (rest : List Nat) (p : Partition) (read : ReadResult) (s : State), s.ce.job = some j → j.repack = true →
    j.toDecode = n :: rest → s.wa.engine = some { kind := .repack, who := .job, quantum := .decode, seg := n } → s.part j.day = some p →
    let rs := s.decoded n read
    let s' := damagedAt n rs.isNone s
    let members := j.members.filterMap fun m => match m.loc with
      | .hot _ => some m
      | .segment k o => if k = n then (rs.bind fun l => l[o]?).map fun r => { m with copy := some r } else some m
    let left := members.filter fun m => m.copy.isSome
    let asks := { s.wa with engine := none, requests := s.wa.requests.set .repack (s.wa.requests.get .repack ++ [.job]) }
    let done (sorted : List Member) : Job := { j with phase := .encoding, members := left, rest := sorted, toDecode := [] }
    ∃ u, exec (.decodeCompletion read) s = .next (settleCompletion u) ∧
      (rest ≠ [] → u.ce = { s.ce with job := some { j with members := members, toDecode := rest } } ∧ u.wa = asks ∧ u.pc = s.pc) ∧
      (rest = [] → left ≠ [] → ∃ sorted, sorted.Perm left ∧ inOrder sorted ∧ u.ce = { s.ce with job := some (done sorted) } ∧ u.wa = asks ∧ u.pc = s.pc) ∧
      (rest = [] → left = [] → u.ce = { s.ce with job := none } ∧ u.wa = { s.wa with engine := none } ∧
        u.part j.day = some { p with state := .packed } ∧ ∀ i, i ≠ j.day → u.part i = s.part i) ∧
      u.cs = s'.cs ∧ u.au = s'.au ∧ u.ix = s.ix ∧ u.hs = s.hs ∧ u.lp = s.lp ∧ u.ru = s.ru ∧ u.ie = s.ie ∧ u.qa = s.qa ∧ u.cl = s.cl ∧
      u.ck = s.ck

/-- DECODE_COMPLETION and READ_COMPLETION: a FETCH's answer, a check's count, an ACTIVE segment marked DAMAGED (log entries 6 and 39) (R46,
R86, R106, R159, R160, R161, R162, R163, 6.3 The cold store). -/
def Obligations.DecodeAndCheckCompletions : Prop :=
  (∀ (read : ReadResult) (n : Nat) (k : JobKind) (s : State),
    let marked (a : AuditUnit) : AuditUnit := { a with current := bankAdd a.current .segmentsDamaged 1, damageFound := true }
    (∀ c q ref p, s.wa.engine = some { kind := k, who := .query c, quantum := .decode, seg := n } → s.queryCtx c = some q → q.work = .fetch ref →
      q.epoch = s.lp.epoch → s.part q.day = some p →
      (∀ rs x, s.decoded n read = some rs → rs[q.ord]? = some x → TablesKeyed s →
        let active := afterActivity (s.cl.settings.activityMask.testBit 2) false q.day s
        ∃ u, exec (.decodeCompletion read) s = .next (settleCompletion u) ∧ u.wa = { active.wa with engine := none } ∧ u.queryCtx c = none ∧
          u.lp = (answered q.tag Status.ok (renderRecord x (s.held x.key (x.start / 86400) x.cls)) s).lp ∧
          u.part q.day = (active.part q.day).map (fun x => { x with pins := p.pins - 1 }) ∧ (∀ d, d ≠ q.day → u.part d = s.part d) ∧
          u.au = { s.au with current := bankAdd s.au.current .queriesServed 1 } ∧ u.ce = active.ce ∧
          u.ix = s.ix ∧ u.cs = s.cs ∧ u.hs = s.hs ∧ u.ie = s.ie ∧ u.ru = s.ru ∧ u.cl = s.cl ∧ u.ck = s.ck) ∧
      (s.decoded n read = none → s.segActive n = true →
        ∃ u, exec (.decodeCompletion read) s = .next (settleCompletion u) ∧ u.wa = { s.wa with engine := none } ∧ u.queryCtx c = none ∧
          u.lp = (answered q.tag Status.unreadable [] s).lp ∧ u.part q.day = some { p with pins := p.pins - 1 } ∧ u.au = marked s.au ∧
          u.seg n = (s.seg n).map (fun e => { e with state := .damaged }) ∧ (∀ m, m ≠ n → u.seg m = s.seg m) ∧ u.ix = s.ix ∧
          u.hs = s.hs ∧ u.ie = s.ie ∧ u.ce = s.ce ∧ u.ru = s.ru ∧ u.cl = s.cl ∧ u.ck = s.ck)) ∧
    (∀ i q a b v next rest, s.wa.engine = some { kind := k, who := .slot i, quantum := .check, seg := n } → s.scanSlot i = some q →
      q.work = .verify a b v → q.cancelling = false → q.toRead = n :: next :: rest → s.segActive n = true →
      let passed := s.checkPasses n read
      let counted := { v with checked := v.checked + 1, newlyDamaged := if passed then v.newlyDamaged else v.newlyDamaged + 1 }
      ∃ u, exec (.readCompletion read) s = .next (settleCompletion u) ∧
        u.scanSlot i = some { q with stage := .grantWait, toRead := next :: rest, work := .verify a b counted } ∧
        u.wa = { s.wa with engine := none, requests := s.wa.requests.set .verify (s.wa.requests.get .verify ++ [.slot i]) } ∧
        u.au.current = (if passed then s.au else marked s.au).current ∧ u.au.damageFound = (s.au.damageFound || !passed) ∧
        u.seg n = (if passed then s.seg n else (s.seg n).map fun e => { e with state := .damaged }) ∧ u.ix = s.ix ∧ u.lp = s.lp ∧
        u.pc = s.pc ∧ u.hs = s.hs ∧ u.ie = s.ie ∧ u.qa = s.qa ∧ u.ce = s.ce ∧ u.ru = s.ru ∧ u.cl = s.cl ∧ u.ck = s.ck) ∧
    (∀ w p, s.wa.engine = some { kind := k, who := .patrol, quantum := .check, seg := n } → s.au.patrol = some w → s.part w.day = some p →
      let s' := damagedAt n (!s.checkPasses n read) s
      ∃ u, exec (.readCompletion read) s = .next (settleCompletion u) ∧ u.wa = { s.wa with engine := none } ∧
        u.au = { s'.au with patrol := none, patrolElapsed := 0, cursorDay := w.day, cursorPlace := w.place + 1 } ∧
        u.part w.day = some { p with pins := p.pins - 1 } ∧ u.ix = s.ix ∧ u.cs = s'.cs ∧ u.lp = s.lp ∧ u.hs = s.hs ∧ u.ie = s.ie ∧ u.qa = s.qa ∧
        u.ce = s.ce ∧ u.ru = s.ru ∧ u.cl = s.cl ∧ u.ck = s.ck)) ∧
  ∀ (read : ReadResult) (s : State), s.wa.engine = none → Settled s →
    exec (.decodeCompletion read) s = .next s ∧ exec (.readCompletion read) s = .next s

/-- SWEEP_DECISION: passed by, kept or retired, the 4,096th entry the quantum's last; how a sweep starts and is withdrawn (engine IDLE: log
entry 6) (R51, R104, R128, R130, R135, R136, R137, R138, R139, R140, R145, 7.4 The sweep). -/
def Obligations.SweepDecisionDecides : Prop :=
  (∀ (g : Grant) (w : Sweep) (qe : SweepEntry) (ref : Nat) (m : MapEntry) (p : Partition) (s : State),
    s.wa.engine = some g → g.quantum = .sweep → s.ru.sweep = some w → Tab.get s.ru.queue w.day = some qe →
    s.nextEntry w.day qe.walk = some (ref, m) → (∃ e ∈ s.ix.map, e.2.day = w.day ∧ ref < e.1) → s.part w.day = some p → TablesKeyed s →
    let retention := (s.ru.table.get m.cls).active
    let expired := decide (retention ≠ 0) && decide (w.day + retention < s.ck.archiveTime / 86400)
    let held := s.ru.holds.any fun e => e.2.covers m.key w.day m.cls
    let walked (r : RetentionUnit) : RetentionUnit :=
      { r with queue := Tab.upd r.queue w.day fun q => { q with walk := some ref }, sweep := some { w with decided := w.decided + 1 } }
    let goesOn (x : State) : State :=
      if w.decided < 4095 then { x with ru := walked x.ru }
      else { x with
        ru := { walked x.ru with sweep := none }
        pc := { x.pc with parts := Tab.upd x.pc.parts w.day fun y => { y with moverHolding := false } }
        wa := { x.wa with engine := none } }
    (p.expiryDue.get m.cls = false ∨ expired = false →
      exec .sweepDecision s = .next (settleCompletion (goesOn s))) ∧
    (p.expiryDue.get m.cls = true → expired = true → held = true →
      exec .sweepDecision s = .next (settleCompletion (goesOn { s with
        pc := { s.pc with parts := Tab.upd s.pc.parts w.day fun x => { x with heldRemainder := x.heldRemainder.set m.cls true } }
        au := { s.au with current := bankAdd s.au.current .heldSkips 1 } }))) ∧
    (p.expiryDue.get m.cls = true → expired = true → held = false →
      let fewer (d : Nat) (x : Partition) : PerClass Nat := if d = w.day then x.live.set m.cls (x.live.get m.cls - 1) else x.live
      ∃ u, exec .sweepDecision s = .next (settleCompletion (goesOn u)) ∧ u.ru = s.ru ∧
        u.ix = { s.ix with map := Tab.del s.ix.map ref } ∧ u.lookup ref = none ∧ (∀ x, x ≠ ref → u.lookup x = s.lookup x) ∧
        (∀ n, m.loc = .hot n → (∀ k, Tab.get u.hs.slots k = if k = n then none else Tab.get s.hs.slots k) ∧
          (∀ d, u.part d = (s.part d).map fun x => { x with
            live := fewer d x, hotCount := if d = w.day then x.hotCount - 1 else x.hotCount }) ∧
          u.cs = s.cs ∧ u.ce = s.ce ∧ u.wa = s.wa) ∧
        (∀ n o e, m.loc = .segment n o → s.seg n = some e → u.hs = s.hs ∧
          (∀ k, u.seg k = if k = n then (if e.live ≤ 1 then none else some { e with live := e.live - 1 }) else s.seg k) ∧
          (∀ d, u.part d = (s.part d).map fun x => { x with
            live := fewer d x, segments := if e.live ≤ 1 ∧ d = e.day then x.segments.filter (· != n) else x.segments }) ∧
          u.ce = (if e.live ≤ 1 then { s.ce with coldFull := false, coldWait := [] } else s.ce) ∧
          (1 < e.live ∨ QueuesAgree s → u.wa = { s.wa with
            packQueue := if e.live ≤ 1 then s.wa.packQueue ++ s.ce.coldWait else s.wa.packQueue })) ∧
        u.wa = { s.wa with packQueue := u.wa.packQueue } ∧
        u.au = { s.au with
          accounts := Tab.upd s.au.accounts (accountKey (ref / 281474976710656) w.day) fun a =>
            { a with retired := count64 (a.retired + 1), retiredSum := sum64 (a.retiredSum + m.charge), live := a.live - 1 }
          current := bankAdd (bankAdd s.au.current .recordsRetired 1) .chargeRetired m.charge } ∧
        u.lp = s.lp ∧ u.ck = s.ck ∧ u.ie = s.ie ∧ u.qa = s.qa ∧ u.cl = s.cl ∧ u.power = s.power)) ∧
  (∀ s : State, s.wa.engine = none → Settled s → exec .sweepDecision s = .next s) ∧
  ∀ s : State, TablesKeyed s →
    let eligible (d : Nat) : Prop := (Tab.get s.ru.queue d).isSome = true ∧ ∃ p, s.part d = some p ∧ p.state ≠ .packing ∧ p.state ≠ .repacking
    (startSweep s = none ↔ s.ru.sweep ≠ none ∨ ∀ d, ¬ eligible d) ∧ (Settled s → s.ru.sweep = none → ∀ d, ¬ eligible d) ∧
    (∀ d, s.ru.sweep = none → eligible d → (∀ i, i < d → ¬ eligible i) → startSweep s = some { s with
      ru := { s.ru with sweep := some { day := d, stage := .waiting, decided := 0 } }
      pc := { s.pc with parts := Tab.upd s.pc.parts d fun p => { p with waitQueue := p.waitQueue ++ [.sweep], moverWaiting := true } } }) ∧
    ∀ w, s.ru.sweep = some w →
      sweepAdmitted s = { s with
        ru := { s.ru with sweep := some { w with stage := .admitted } }
        wa := { s.wa with requests := s.wa.requests.set .sweep (s.wa.requests.get .sweep ++ [.sweep]) } } ∧
      ∀ lvl k p, s.wa.engine = none → s.decision = some (lvl, k) → s.wa.requests.get k = [] → s.ce.job = none → s.part w.day = some p →
        (k = .pack ∧ s.wa.packQueue.head? = some w.day) ∨ (k = .repack ∧ s.wa.repackQueue.head? = some w.day) →
        ∃ t state, grantEngine s = some t ∧ t.ru = { s.ru with sweep := none } ∧ (k = .pack → state = .packing) ∧
          (k = .repack → state = .repacking ∨ state = .packed) ∧
          (w.stage = .waiting → t.part w.day = some { p with
            state := state, waitQueue := p.waitQueue.filter (· != .sweep), moverWaiting := p.waitQueue.any fun v => v.isMover && v != .sweep } ∧
            t.wa.requests.get .sweep = s.wa.requests.get .sweep) ∧
          (w.stage = .admitted → t.part w.day = some { p with state := state, moverHolding := false } ∧
            t.wa.requests.get .sweep = (s.wa.requests.get .sweep).filter (· != .sweep))

/-- The end of a sweep walk: its last entry passed by, held or retired; the day then kept, tested for repack, or freed; a restart (log
entries 28 and 37) (R52, R53, R104, R121, R128, R137, R139, R140, R141, R145, R146, 7.4 The sweep). -/
def Obligations.WalkEnds : Prop :=
  ∀ (g : Grant) (w : Sweep) (qe : SweepEntry) (ref : Nat) (m : MapEntry) (p : Partition) (s : State), s.wa.engine = some g →
    g.quantum = .sweep → s.ru.sweep = some w → Tab.get s.ru.queue w.day = some qe → TablesKeyed s → w.day < 65536 →
    s.nextEntry w.day qe.walk = some (ref, m) → (∀ e ∈ s.ix.map, e.2.day = w.day → e.1 ≤ ref) → s.part w.day = some p →
    let retention := (s.ru.table.get m.cls).active
    let due := p.expiryDue.get m.cls = true ∧ retention ≠ 0 ∧ w.day + retention < s.ck.archiveTime / 86400
    let held := s.ru.holds.any fun e => e.2.covers m.key w.day m.cls
    let remains (x : State) (y : Partition) (u : State) : Prop :=
      let kept : Partition := { y with moverHolding := false }
      let old := (y.segments.filter x.segActive).filterMap x.seg
      let sparse := y.state = .packed ∧ 100 * (old.map (·.live)).sum < s.cl.settings.repackPercent * (old.map (·.records)).sum
      u.part w.day = some (if qe.restart then kept else { kept with expiryDue := PerClass.all false }) ∧
      (∀ d, d ≠ w.day → u.part d = x.part d) ∧
      Tab.get u.ru.queue w.day = (if qe.restart then some { walk := none, restart := false } else none) ∧
      (∀ d, d ≠ w.day → Tab.get u.ru.queue d = Tab.get s.ru.queue d) ∧ u.ru = { s.ru with queue := u.ru.queue, sweep := none } ∧
      u.wa = { x.wa with engine := none, repackQueue :=
        if sparse ∧ w.day ∉ x.wa.repackQueue then x.wa.repackQueue ++ [w.day] else x.wa.repackQueue } ∧
      u.au = x.au ∧ u.ix = x.ix ∧ u.hs = x.hs ∧ u.cs = x.cs ∧ u.ce = x.ce ∧ u.lp = s.lp ∧ u.ck = s.ck ∧ u.ie = s.ie ∧ u.qa = s.qa ∧
      u.cl = s.cl ∧ u.power = s.power
    (¬ due → 0 < p.live.total → ∃ u, exec .sweepDecision s = .next (settleCompletion u) ∧ remains s p u) ∧
    (due → held = true → 0 < p.live.total → ∃ u, exec .sweepDecision s = .next (settleCompletion u) ∧
      remains { s with au := { s.au with current := bankAdd s.au.current .heldSkips 1 } }
        { p with heldRemainder := p.heldRemainder.set m.cls true } u) ∧
    (due → held = false → 0 < p.live.get m.cls → 1 < p.live.total → ∃ x y u, RetiredAt w.day ref m s x ∧ x.part w.day = some y ∧
      exec .sweepDecision s = .next (settleCompletion u) ∧ remains x y u) ∧
    (due → held = false → (∀ e ∈ s.ix.map, e.2.day = w.day → e.1 = ref) → p.live.get m.cls = 1 → p.live.total = 1 →
      let frees : Bool := match m.loc with | .segment n _ => (s.seg n).any fun e => decide (e.live ≤ 1) | .hot _ => false
      ∃ u, exec .sweepDecision s = .next (settleCompletion (p.waitQueue.foldl waiterReleased u)) ∧ u.part w.day = none ∧
        u.lookup ref = none ∧
        (∀ x, x ≠ ref → u.lookup x = s.lookup x) ∧
        (∀ n, m.loc = .hot n → u.cs = s.cs ∧ ∀ k, Tab.get u.hs.slots k = if k = n then none else Tab.get s.hs.slots k) ∧
        (∀ n o e, m.loc = .segment n o → s.seg n = some e → u.hs = s.hs ∧
          u.seg n = (if e.live ≤ 1 then none else some { e with live := e.live - 1 }) ∧ ∀ k, k ≠ n → u.seg k = s.seg k) ∧
        (∀ source, Tab.get u.au.accounts (source * 65536 + w.day) = none) ∧
        (∀ source day, day < 65536 → day ≠ w.day →
          Tab.get u.au.accounts (source * 65536 + day) = Tab.get s.au.accounts (source * 65536 + day)) ∧
        u.au.current = bankAdd (bankAdd s.au.current .recordsRetired 1) .chargeRetired m.charge ∧
        w.day ∉ u.wa.packQueue ∧ w.day ∉ u.wa.repackQueue ∧ w.day ∉ u.ce.coldWait ∧
        u.ce = { s.ce with coldFull := s.ce.coldFull && !frees, coldWait := if frees then [] else s.ce.coldWait.filter (· != w.day) } ∧
        u.wa = { s.wa with engine := none, packQueue := u.wa.packQueue, repackQueue := s.wa.repackQueue.filter (· != w.day) } ∧
        (frees = false ∨ QueuesAgree s → u.wa.packQueue =
          (if frees then s.wa.packQueue ++ s.ce.coldWait else s.wa.packQueue).filter (· != w.day)) ∧
        Tab.get u.ru.queue w.day = none ∧
        (∀ d, d ≠ w.day → Tab.get u.ru.queue d = Tab.get s.ru.queue d) ∧ u.ru.sweep = none ∧ u.lp = s.lp ∧
        ((∀ n o e, m.loc = .segment n o → s.seg n = some e → e.day = w.day) → ∀ d, d ≠ w.day → u.part d = s.part d) ∧
        u.ru.holds = s.ru.holds ∧ u.ru.table = s.ru.table ∧ u.ck = s.ck ∧ u.ie = s.ie ∧ u.qa = s.qa ∧ u.cl = s.cl ∧ u.power = s.power)

/-- A number's varint and its length (R109), its reading back (R114), and a coded record's bytes, parts and length (R110, R111) (R109,
R110, R111, R114, 6.4 Segment coding). -/
def Obligations.VarintAndRecordCoding : Prop :=
  ((∀ v : Nat, v < 562949953421312 →
       (varint v).length = (if v < 128 then 1 else if v < 16384 then 2 else if v < 2097152 then 3 else if v < 268435456 then 4
         else if v < 34359738368 then 5 else if v < 4398046511104 then 6 else 7) ∧
       (∀ i b, (varint v)[i]? = some b → b.toNat % 128 = v / 128 ^ i % 128 ∧ (b.toNat < 128 ↔ i + 1 = (varint v).length)) ∧
       ∀ rest : Bytes, readVarint 7 (varint v ++ rest) = some (v, rest)) ∧
     (varint 0).length = 1 ∧ varint 3600 = [0x90, 0x1C]) ∧
  ∀ (day : Nat) (prev : Option (Nat × Nat)) (r : CallRecord), RecordInRange day r →
    (∀ k t, prev = some (k, t) → t / 86400 = day ∧ (k < r.key ∨ (k = r.key ∧ t ≤ r.start))) →
    let len (v : Nat) : Nat := if v < 128 then 1 else if v < 16384 then 2 else if v < 2097152 then 3 else if v < 268435456 then 4
      else if v < 34359738368 then 5 else if v < 4398046511104 then 6 else 7
    let same := prev.any fun e => e.1 == r.key
    let key := match prev with | none => 0 | some (k, _) => r.key - k
    let start := match prev with | some (_, t) => if same then r.start - t else r.start - day * 86400 | none => r.start - day * 86400
    let coded := codeRecord day prev r
    (∃ c : Byte, coded = c :: ((if same then [] else varint key) ++ varint start ++ varint r.source ++ varint r.sequence ++
        varint r.duration ++ (if r.cls = .data then varint r.volume else []) ++ varint r.charge ++
        (if r.amendCount = 0 then [] else be 1 r.amendCount) ++ (match r.cell with | some x => be 4 x | none => []) ++
        (match r.partner with | some x => be 2 x | none => [])) ∧
      c.getLsbD 0 = same ∧ c.toNat / 2 % 4 = r.cls.code ∧ c.getLsbD 3 = r.cell.isSome ∧ c.getLsbD 4 = r.partner.isSome ∧
      c.getLsbD 5 = decide (0 < r.amendCount) ∧ c.getLsbD 6 = r.late ∧ c.getLsbD 7 = r.clamped) ∧
    coded.length = 1 + (if same then 0 else len key) + len start + len r.source + len r.sequence + len r.duration +
      (if r.cls = .data then len r.volume else 0) + len r.charge + (if 0 < r.amendCount then 1 else 0) +
      (if r.cell.isSome then 4 else 0) + (if r.partner.isSome then 2 else 0) ∧
    6 ≤ coded.length ∧ coded.length ≤ 39 ∧ (prev = none → 7 ≤ coded.length ∧ coded.length ≤ 33)

/-- A body is its records coded one after another, closed by R112, and decodes to exactly those; what the decode and the check of any body
give (R106, R108, R109, R110, R111, R112, R113, R114, R159, 6.4 Segment coding). -/
def Obligations.SegmentRoundTrip : Prop :=
  (∀ (day : Nat) (ms : List Member) (rs : List CallRecord), ms.map (·.copy) = rs.map some → List.Pairwise (fun a b => recordLe a b = true) rs →
      (∀ r ∈ rs, RecordInRange day r) →
      let cut := cutRun day ms [] [] 0 none
      let run := cut.1.filterMap (·.copy)
      cut.1 ++ cut.2.2 = ms ∧ (ms ≠ [] → cut.1 ≠ []) ∧ cut.2.1 = codedAfter day none run ∧ cut.2.1.length ≤ 524288 ∧ cut.1.length ≤ 65535 ∧
      (∀ m r rest, cut.2.2 = m :: rest → m.copy = some r → 65535 ≤ cut.1.length ∨
        524288 < cut.2.1.length + (codeRecord day (run.getLast?.map fun x => (x.key, x.start)) r).length) ∧
      decodeBody (segmentEntry day cut.1 cut.2.1) cut.2.1 = some run) ∧
  (∀ (e : SegEntry) (body : Bytes) (rs : List CallRecord), decodeBody e body = some rs ↔
    crc32 body = e.check ∧ rs.length = e.records ∧ (∀ r, rs.getLast? = some r → r.key = e.lastKey) ∧ BodyReadsAs e none body rs) ∧
  ∀ (n : Nat) (s : State), (s.seg n = none → ∀ read, s.decoded n read = none ∧ s.checkPasses n read = false) ∧
    ∀ e, s.seg n = some e → s.decoded n .fault = none ∧ s.checkPasses n .fault = false ∧
      (∀ body, s.decoded n (.altered body) = decodeBody e body ∧ (s.checkPasses n (.altered body) = true ↔ crc32 body = e.check)) ∧
      ∀ body, Tab.get s.cs.bodies n = some body →
        s.decoded n .stored = decodeBody e body ∧ (s.checkPasses n .stored = true ↔ crc32 body = e.check)

/-- A hold matches by quotient, day and class; HELD says that an active hold matches; the block it covers (R130). -/
def Obligations.HoldMatch : Prop :=
  (∀ (h : Hold) (key day : Nat) (c : CallClass),
    (h.covers key day c = true ↔ key / 2 ^ h.maskBits = h.key / 2 ^ h.maskBits ∧ h.firstDay ≤ day ∧ day ≤ h.lastDay ∧
      h.classMask.testBit (match c with | .voice => 0 | .message => 1 | .data => 2 | .other => 3) = true) ∧
    (h.firstDay ≤ day → day ≤ h.lastDay → maskSelects h.classMask c = true →
      (h.covers key day c = true ↔ h.key / 2 ^ h.maskBits * 2 ^ h.maskBits ≤ key ∧ key < h.key / 2 ^ h.maskBits * 2 ^ h.maskBits + 2 ^ h.maskBits) ∧
      (h.maskBits = 0 → (h.covers key day c = true ↔ key = h.key)) ∧
      (h.key = 447700123456 → h.maskBits = 8 → (h.covers key day c = true ↔ 447700123392 ≤ key ∧ key ≤ 447700123647)))) ∧
  447700123456 / 2 ^ 8 = 1748828607 ∧ 447700123999 / 2 ^ 8 = 1748828609 ∧
  ∀ (s : State) (key day : Nat) (c : CallClass), s.held key day c = true ↔ ∃ e ∈ s.ru.holds, e.2.covers key day c = true

/-- The grant decision takes the highest level with a grantable request, round robin within it; what an evaluation of pressure does, and
when (log entry 35) (R26, R48, R165, R166, R167, R169, R170, R171, 9.3 Priority and grant order, 9.5 The pressure state). -/
def Obligations.GrantOrderAndPressure : Prop :=
  (∀ s : State,
    let level (k : JobKind) : Nat := if s.wa.pressure = true ∧ (k = .pack ∨ k = .repack) then 0 else s.cl.settings.priority.get k
    let waits (k : JobKind) : Prop := s.wa.requests.get k ≠ [] ∨ (s.ce.job = none ∧ ((k = .pack ∧ s.wa.packQueue ≠ []) ∨ (k = .repack ∧ s.wa.repackQueue ≠ [])))
    let grantable (lvl : Nat) (k : JobKind) : Prop := level k = lvl ∧ waits k ∧ (lvl = 0 ∨ s.wa.phase = .active)
    let order : List JobKind := [.query, .pack, .repack, .sweep, .verify, .scan, .patrol]
    let after (lvl : Nat) : List JobKind := match s.wa.pointers.getD lvl none with
      | none => order
      | some k => order.drop (order.idxOf k + 1) ++ order.take (order.idxOf k + 1)
    (∀ lvl k, s.decision = some (lvl, k) → lvl ≤ 3 ∧ grantable lvl k ∧ (∀ higher k', higher < lvl → ¬ grantable higher k') ∧
      ∃ before behind, after lvl = before ++ k :: behind ∧ ∀ k' ∈ before, ¬ grantable lvl k') ∧
    (s.decision = none → ∀ lvl k, lvl ≤ 3 → ¬ grantable lvl k)) ∧
  ∀ s : State,
    let free := 67108864 - s.hs.slots.length
    (s.wa.pressure = false → ((evalPressure s).wa.pressure = true ↔ free < s.cl.settings.lowWatermark)) ∧
    (s.wa.pressure = true → ((evalPressure s).wa.pressure = false ↔ s.cl.settings.highWatermark ≤ free)) ∧
    (s.wa.pressure = false → free < s.cl.settings.lowWatermark →
      let closes (p : Partition) : Bool := decide (p.state = .opened) && p.dayClosed
      (∀ d, (evalPressure s).part d = (s.part d).map fun p => if closes p then { p with state := .quiet } else p) ∧
      ((∀ d p, s.part d = some p → p.state = .opened → d ∉ s.wa.packQueue) → TablesKeyed s →
        (evalPressure s).wa.packQueue = s.wa.packQueue ++ Tab.keysWhere s.pc.parts fun _ p => closes p) ∧
      evalPressure s = { s with pc := (evalPressure s).pc, wa := { s.wa with pressure := true, packQueue := (evalPressure s).wa.packQueue } }) ∧
    (s.wa.pressure = true → s.cl.settings.highWatermark ≤ free → evalPressure s = { s with
      wa := { s.wa with pressure := false }
      lp := if s.lp.withheld = 0 then s.lp else { s.lp with
        outQueue := s.lp.outQueue ++ [{ tag := 254, status := 0, payload := [], riders := s.lp.withheld, startsReset := false }]
        inUse := { s.lp.inUse with frame := s.lp.inUse.frame + s.lp.withheld }, withheld := 0 } }) ∧
    ((evalPressure s).wa.pressure = s.wa.pressure → evalPressure s = s) ∧
    (Settled s → (s.wa.pressure = false → s.cl.settings.lowWatermark ≤ free) ∧ (s.wa.pressure = true → free < s.cl.settings.highWatermark)) ∧
    ((evalPressure s).wa.pressure ≠ s.wa.pressure → serveWaiters s = none → startSweep s = none → takeWaiting .queryUnit s = none →
      takeWaiting .loader s = none → internal Turn.completing s = some (Turn.completing, evalPressure s) ∧
        (grantEngine s = none → internal Turn.placing s = some (Turn.placing, evalPressure s)))

/-- A grant: the head request of the kind decided on leaves its queue, its level's pointer moves, and the quantum runs or completes at once
(log entry 26) (R106, R113, R116, R117, R119, R122, R138, R159, R162, R163, R165, R167). -/
def Obligations.GrantTaken : Prop :=
  (∀ (lvl : Nat) (k : JobKind) (s : State), s.wa.engine = none → s.decision = some (lvl, k) →
    let queue := s.wa.requests.get k
    let granted : WorkArbiter := { s.wa with pointers := s.wa.pointers.set lvl (some k), requests := s.wa.requests.set k queue.tail }
    let started (d : Nat) (members sorted : List Member) : Job :=
      { repack := false, day := d, phase := .encoding, members := members, rest := sorted, run := [], body := [], writing := none,
        written := [], toDecode := [] }
    let busy (who : Requester) (quantum : Quantum) (n : Nat) : WorkArbiter :=
      { granted with engine := some { kind := k, who := who, quantum := quantum, seg := n } }
    (∀ c rest q, k = .query → queue = .query c :: rest → s.queryCtx c = some q → s.segActive q.seg = true → grantEngine s = some
      ((s.mapQa fun u => { u with contexts := Tab.upd u.contexts c fun x => { x with stage := .quantum } }).mapWa fun _ => busy (.query c) .decode q.seg)) ∧
    (∀ rest d p, k = .query → queue = .ingest :: rest → s.ie.drain = some d → d.dup = some p → s.segActive p.seg = true → grantEngine s = some
      ((s.mapIe fun e => { e with drain := some { d with dup := some { p with stage := .quantum } } }).mapWa fun _ => busy .ingest .decode p.seg)) ∧
    (∀ i rest q n l, k = .scan ∨ k = .verify → queue = .slot i :: rest → s.scanSlot i = some q → q.toRead = n :: l → s.segActive n = true →
      grantEngine s = some ((s.mapAu fun a => { a with slots := Tab.upd a.slots i fun x => { x with stage := .quantum } }).mapWa fun _ =>
        busy (.slot i) (if k = .scan then .decode else .check) n)) ∧
    (∀ w rest p, k = .patrol → queue = w :: rest → s.au.patrol = some p → s.segActive p.seg = true → grantEngine s = some
      ((s.mapAu fun a => { a with patrol := some { p with stage := .quantum } }).mapWa fun _ => busy .patrol .check p.seg)) ∧
    (∀ who rest n, queue = who :: rest → s.segActive n = false →
      (k = .query ∧ ∃ c q, who = .query c ∧ s.queryCtx c = some q ∧ q.seg = n) ∨
        (k = .query ∧ who = .ingest ∧ ∃ d p, s.ie.drain = some d ∧ d.dup = some p ∧ p.seg = n) ∨
        (k = .scan ∧ ∃ i q l, who = .slot i ∧ s.scanSlot i = some q ∧ q.toRead = n :: l) →
      ∃ t, grantEngine s = some t ∧ t.wa.engine = none ∧ t.cs = s.cs ∧ t.au.damageFound = s.au.damageFound ∧
        exec (.decodeCompletion .fault) { s with wa := busy who .decode n } = .next (settleCompletion t)) ∧
    (∀ c rest q, k = .query → queue = .query c :: rest → s.queryCtx c = some q → s.segActive q.seg = false → q.epoch = s.lp.epoch →
      (∃ ref, q.work = .fetch ref) ∨ (∃ p, q.work = .amend p) → grantEngine s = some (answered q.tag Status.unreadable [] { s with
        wa := granted
        pc := { s.pc with parts := Tab.upd s.pc.parts q.day fun y => { y with pins := y.pins - 1 } }
        qa := { s.qa with contexts := Tab.del s.qa.contexts c, inFlight := Tab.del s.qa.inFlight c } })) ∧
    (∀ i rest q a b v n l, k = .verify → queue = .slot i :: rest → s.scanSlot i = some q → q.work = .verify a b v → q.cancelling = false →
      q.toRead = n :: l → s.segActive n = false →
      let found : ScanWork := .verify a b { v with alreadyDamaged := v.alreadyDamaged + 1 }
      (l ≠ [] → grantEngine s = some { s with
        wa := { granted with requests := granted.requests.set .verify (rest ++ [.slot i]) }
        au := { s.au with slots := Tab.upd s.au.slots i fun x => { x with stage := .grantWait, toRead := l, work := found } } }) ∧
      (l = [] → grantEngine s = some (scanNext i q (.verify a b { v with visited := v.visited + 1, alreadyDamaged := v.alreadyDamaged + 1 })
        (q.visiting + 1) { s with
          wa := granted
          pc := { s.pc with parts := Tab.upd s.pc.parts q.visiting fun y => { y with pins := y.pins - 1 } } }))) ∧
    (∀ w rest p, k = .patrol → queue = w :: rest → s.au.patrol = some p → s.segActive p.seg = false → grantEngine s = some { s with
      wa := granted
      pc := { s.pc with parts := Tab.upd s.pc.parts p.day fun y => { y with pins := y.pins - 1 } }
      au := { s.au with patrol := none, patrolElapsed := 0, cursorDay := p.day, cursorPlace := p.place + 1 } }) ∧
    (∀ w rest v, k = .sweep → queue = w :: rest → s.ru.sweep = some v → grantEngine s = some
      ((s.mapRu fun r => { r with sweep := some { v with stage := .running, decided := 0 } }).mapWa fun _ => busy w .sweep 0)) ∧
    (∀ d rest p, k = .pack → queue = [] → s.ce.job = none → s.wa.packQueue = d :: rest → (∀ w, s.ru.sweep = some w → w.day ≠ d) →
      s.part d = some p → ∃ (t : State) (sorted : List Member),
        let members : List Member := (s.ix.map.filter fun e => decide (e.2.day = d)).map fun e =>
          { ref := e.1, loc := e.2.loc, copy := match e.2.loc with | .hot n => Tab.get s.hs.slots n | .segment _ _ => none }
        grantEngine s = some t ∧ t.wa = { busy .job .sort 0 with packQueue := rest.filter (· != d) } ∧
        sorted.Perm (members.filter fun m => m.copy.isSome) ∧
        sorted.Pairwise (fun a b => ∀ x y, a.copy = some x → b.copy = some y → recordLe x y = true) ∧
        t.ce = { s.ce with coldWait := s.ce.coldWait.filter (· != d), job := some (started d members sorted) } ∧
        t.part d = some { p with state := .packing } ∧ (∀ i, i ≠ d → t.part i = s.part i) ∧ t.ix = s.ix ∧ t.hs = s.hs ∧ t.cs = s.cs ∧
        t.au = s.au ∧ t.lp = s.lp ∧ t.ru = s.ru ∧ t.ie = s.ie ∧ t.qa = s.qa ∧ t.cl = s.cl ∧ t.ck = s.ck) ∧
    (∀ w rest j n l p, k = .repack → queue = w :: rest → s.ce.job = some j → j.repack = true → j.phase = .decoding → j.toDecode = n :: l →
      s.part j.day = some p →
      let left := j.members.filter fun m => match m.loc with | .hot _ => true | .segment i _ => decide (i ≠ n)
      let copied := left.filter fun m => m.copy.isSome
      let asks : WorkArbiter := { granted with requests := granted.requests.set .repack (rest ++ [.job]) }
      (s.segActive n = true → grantEngine s = some { s with wa := busy .job .decode n }) ∧
      (s.segActive n = false →
        (l ≠ [] → grantEngine s = some { s with
          wa := asks, ce := { s.ce with job := some { j with members := left, toDecode := l } } }) ∧
        (l = [] → copied ≠ [] → ∃ sorted : List Member, sorted.Perm copied ∧
          sorted.Pairwise (fun a b => ∀ x y, a.copy = some x → b.copy = some y → recordLe x y = true) ∧ grantEngine s = some { s with
            wa := asks
            ce := { s.ce with job := some { j with phase := .encoding, members := copied, rest := sorted, toDecode := [] } } }) ∧
        (l = [] → copied = [] → grantEngine s = some { s with
          wa := granted, ce := { s.ce with job := none }
          pc := { s.pc with parts := Tab.upd s.pc.parts j.day fun y => { y with state := .packed } } }))) ∧
    (∀ w rest j, k = (if j.repack then .repack else .pack) → queue = w :: rest → s.ce.job = some j → j.phase = .encoding → TablesKeyed s →
      let cut := cutRun j.day j.rest [] [] 0 none
      let copies := cut.1.filterMap (·.copy)
      (∀ n, n < 1048576 → s.seg n = none → (∀ i, i < n → (s.seg i).isSome) → ∃ (t : State) (e : SegEntry), grantEngine s = some t ∧
        t.wa = busy .job .write n ∧ t.ce = { s.ce with job := some { j with run := cut.1, body := cut.2.1, writing := some n } } ∧
        t.seg n = some e ∧ e = segmentEntry j.day cut.1 cut.2.1 ∧ e.state = .writing ∧ e.day = j.day ∧ e.records = copies.length ∧
        (∀ x, copies.head? = some x → e.firstKey = x.key) ∧ (∀ x, copies.getLast? = some x → e.lastKey = x.key) ∧
        (∀ x ∈ copies, e.earliest ≤ x.start ∧ x.start ≤ e.latest) ∧
        (copies ≠ [] → (∃ x ∈ copies, x.start = e.earliest) ∧ ∃ x ∈ copies, x.start = e.latest) ∧
        e.length = cut.2.1.length ∧ e.check = crc32 cut.2.1 ∧ (∀ i, i ≠ n → t.seg i = s.seg i) ∧ t.pc = s.pc ∧ t.ix = s.ix ∧ t.hs = s.hs ∧
        t.au = s.au ∧ t.lp = s.lp ∧ t.ru = s.ru ∧ t.ie = s.ie ∧ t.qa = s.qa ∧ t.cl = s.cl ∧ t.ck = s.ck) ∧
      (∀ p, (∀ n, n < 1048576 → (s.seg n).isSome) → s.part j.day = some p → ∃ (t : State) (q : Partition), grantEngine s = some t ∧
        t.wa.engine = none ∧ t.ce.job = none ∧ t.ce.coldFull = true ∧ (j.day ∈ t.ce.coldWait ↔ j.repack = false ∨ j.day ∈ s.ce.coldWait) ∧
        t.au = { s.au with current := bankAdd s.au.current .packFailures 1 } ∧ SlotsReleased j.members s t ∧
        (∀ n, t.seg n = if n ∈ j.written.map (·.1) ∨ j.writing = some n then none else s.seg n) ∧ t.part j.day = some q ∧
        q.state = (if j.repack then .packed else .quiet) ∧ q.hotCount = p.hotCount - movedSlots j.members s ∧ q.live = p.live ∧
        q.segments = p.segments ∧ t.ix = s.ix ∧ t.ru = s.ru ∧ t.ie = s.ie ∧ t.qa = s.qa ∧ t.cl = s.cl ∧ t.ck = s.ck))) ∧
  ∀ s : State, (s.wa.engine ≠ none ∨ s.decision = none) → grantEngine s = none
end

