-- ==== Sys2Proof/Laws/Tab.lean ====
section
/-! SUPPORT. The laws of a table: read after write, and that every operation keeps the canonical form (keys strictly rising). -/

namespace Sys2Proof.Tab

variable {α : Type}

@[simp] theorem get_nil (k : Nat) : get ([] : Tab α) k = none := rfl

theorem get_cons (e : Nat × α) (t : Tab α) (k : Nat) : get (e :: t) k = if k = e.1 then some e.2 else get t k := rfl

/-- Reading the key just written. -/
@[simp] theorem get_put_self (t : Tab α) (k : Nat) (v : α) : get (put t k v) k = some v := by
  induction t with
  | nil => simp [put, get]
  | cons e t ih =>
    obtain ⟨j, w⟩ := e
    simp only [put]
    split
    · simp [get]
    · split
      · simp [get]
      · rename_i h _
        simp [get, h, ih]

/-- A write leaves every other key alone. -/
theorem get_put_ne (t : Tab α) {k m : Nat} (v : α) (h : m ≠ k) : get (put t k v) m = get t m := by
  induction t with
  | nil => simp [put, get, h]
  | cons e t ih =>
    obtain ⟨j, w⟩ := e
    simp only [put]
    split
    · rename_i hk
      subst hk
      simp [get, h]
    · split
      · simp [get, h]
      · simp [get, ih]

/-- A removed key has no entry. -/
@[simp] theorem get_del_self (t : Tab α) (k : Nat) : get (del t k) k = none := by
  induction t with
  | nil => rfl
  | cons e t ih =>
    obtain ⟨j, w⟩ := e
    by_cases h : j = k
    · subst h
      simpa [del] using ih
    · have h' : k ≠ j := fun x => h x.symm
      simpa [del, h, get, h'] using ih

/-- A removal leaves every other key alone. -/
theorem get_del_ne (t : Tab α) {k m : Nat} (h : m ≠ k) : get (del t k) m = get t m := by
  induction t with
  | nil => rfl
  | cons e t ih =>
    obtain ⟨j, w⟩ := e
    by_cases hj : j = k
    · subst hj
      simpa [del, get, h] using ih
    · have : del ((j, w) :: t) k = (j, w) :: del t k := by simp [del, hj]
      rw [this]
      simp [get, ih]

/-- A change of one entry, read at any key. -/
theorem get_upd (t : Tab α) (k m : Nat) (f : α → α) :
    get (upd t k f) m = if m = k then (get t m).map f else get t m := by
  induction t with
  | nil => simp [upd]
  | cons e t ih =>
    obtain ⟨j, w⟩ := e
    have : upd ((j, w) :: t) k f = (if j = k then (j, f w) else (j, w)) :: upd t k f := rfl
    rw [this]
    by_cases hj : j = k <;> by_cases hm : m = j
    · subst hm; subst hj; simp [get]
    · subst hj; simp [get, hm, ih]
    · subst hm; simp [get, hj]
    · simp [get, hj, hm, ih]

/-- A change of every entry, read at any key. -/
theorem get_mapAll (t : Tab α) (f : Nat → α → α) (k : Nat) : get (mapAll t f) k = (get t k).map (f k) := by
  induction t with
  | nil => rfl
  | cons e t ih =>
    obtain ⟨j, w⟩ := e
    by_cases h : k = j
    · subst h; simp [mapAll, get]
    · have : mapAll ((j, w) :: t) f = (j, f j w) :: mapAll t f := rfl
      rw [this]
      simp [get, h, ih]

/-! ## The canonical form -/

/-- An entry that reads back stands in the table. -/
theorem mem_of_get {t : Tab α} {k : Nat} {v : α} (h : get t k = some v) : (k, v) ∈ t := by
  induction t with
  | nil => cases h
  | cons e t ih =>
    rw [get_cons] at h
    split at h
    · rename_i hk
      cases h
      subst hk
      exact List.mem_cons_self
    · exact List.mem_cons_of_mem _ (ih h)

/-- A head below every later key, in a table in canonical form. -/
theorem rising_cons {e : Nat × α} {t : Tab α} : rising (e :: t) = true ↔ (∀ x ∈ t, e.1 < x.1) ∧ rising t = true := by
  induction t generalizing e with
  | nil => simp [rising]
  | cons x t ih =>
    obtain ⟨j, w⟩ := e
    obtain ⟨k, v⟩ := x
    have hr : rising ((j, w) :: (k, v) :: t) = (decide (j < k) && rising ((k, v) :: t)) := by
      cases t <;> rfl
    rw [hr, Bool.and_eq_true, decide_eq_true_eq]
    constructor
    · rintro ⟨h1, h2⟩
      refine ⟨?_, h2⟩
      intro y hy
      rcases List.mem_cons.1 hy with rfl | hy
      · exact h1
      · exact Nat.lt_trans h1 ((ih.1 h2).1 y hy)
    · rintro ⟨h1, h2⟩
      exact ⟨h1 (k, v) (by simp), h2⟩

theorem rising_filter {t : Tab α} (p : Nat × α → Bool) (h : rising t = true) : rising (t.filter p) = true := by
  induction t with
  | nil => rfl
  | cons e t ih =>
    obtain ⟨h1, h2⟩ := rising_cons.1 h
    by_cases hp : p e
    · rw [List.filter_cons_of_pos hp]
      exact rising_cons.2 ⟨fun x hx => h1 x (List.mem_filter.1 hx).1, ih h2⟩
    · rw [List.filter_cons_of_neg hp]
      exact ih h2

theorem rising_map {t : Tab α} (f : Nat × α → Nat × α) (hf : ∀ e, (f e).1 = e.1) (h : rising t = true) : rising (t.map f) = true := by
  induction t with
  | nil => rfl
  | cons e t ih =>
    obtain ⟨h1, h2⟩ := rising_cons.1 h
    refine rising_cons.2 ⟨fun x hx => ?_, ih h2⟩
    obtain ⟨y, hy, rfl⟩ := List.mem_map.1 hx
    rw [hf, hf]
    exact h1 y hy

/-- The keys of a table in canonical form rise. -/
theorem rising_keys {t : Tab α} (h : rising t = true) : (t.map (·.1)).Pairwise (· < ·) := by
  induction t with
  | nil => exact List.Pairwise.nil
  | cons e t ih =>
    obtain ⟨h1, h2⟩ := rising_cons.1 h
    exact List.pairwise_cons.2 ⟨fun k hk => by obtain ⟨x, hx, rfl⟩ := List.mem_map.1 hk; exact h1 x hx, ih h2⟩

/-- An entry of a table in canonical form reads back. -/
theorem get_of_mem {t : Tab α} (h : rising t = true) {e : Nat × α} (he : e ∈ t) : get t e.1 = some e.2 := by
  induction t with
  | nil => cases he
  | cons x t ih =>
    obtain ⟨h1, h2⟩ := rising_cons.1 h
    rw [get_cons]
    rcases List.mem_cons.1 he with rfl | hm
    · rw [if_pos rfl]
    · rw [if_neg (Nat.ne_of_gt (h1 e hm)), ih h2 hm]

/-- A removal keeps the canonical form. -/
theorem rising_del {t : Tab α} (k : Nat) (h : rising t = true) : rising (del t k) = true := rising_filter _ h

/-- A selection keeps the canonical form. -/
theorem rising_keep {t : Tab α} (p : Nat → α → Bool) (h : rising t = true) : rising (keep t p) = true := rising_filter _ h

/-- A change of one entry keeps the canonical form. -/
theorem rising_upd {t : Tab α} (k : Nat) (f : α → α) (h : rising t = true) : rising (upd t k f) = true :=
  rising_map _ (fun e => by split <;> rfl) h

/-- A change of every entry keeps the canonical form. -/
theorem rising_mapAll {t : Tab α} (f : Nat → α → α) (h : rising t = true) : rising (mapAll t f) = true :=
  rising_map _ (fun _ => rfl) h

theorem mem_put {t : Tab α} {k : Nat} {v : α} {x : Nat × α} (h : x ∈ put t k v) : x = (k, v) ∨ x ∈ t := by
  induction t with
  | nil => simp [put] at h; exact .inl h
  | cons e t ih =>
    obtain ⟨j, w⟩ := e
    simp only [put] at h
    split at h
    · rcases List.mem_cons.1 h with h | h
      · exact .inl h
      · exact .inr (by simp [h])
    · split at h
      · rcases List.mem_cons.1 h with h | h
        · exact .inl h
        · exact .inr h
      · rcases List.mem_cons.1 h with h | h
        · exact .inr (by simp [h])
        · rcases ih h with h | h
          · exact .inl h
          · exact .inr (by simp [h])

/-- A write keeps the canonical form. -/
theorem rising_put {t : Tab α} (k : Nat) (v : α) (h : rising t = true) : rising (put t k v) = true := by
  induction t with
  | nil => rfl
  | cons e t ih =>
    obtain ⟨j, w⟩ := e
    obtain ⟨h1, h2⟩ := rising_cons.1 h
    simp only [put]
    split
    · rename_i hk
      subst hk
      exact rising_cons.2 ⟨h1, h2⟩
    · split
      · rename_i hlt
        refine rising_cons.2 ⟨fun x hx => ?_, h⟩
        rcases List.mem_cons.1 hx with rfl | hx
        · exact hlt
        · exact Nat.lt_trans hlt (h1 x hx)
      · rename_i hne hnlt
        refine rising_cons.2 ⟨fun x hx => ?_, ih h2⟩
        rcases mem_put hx with rfl | hx
        · show j < k
          omega
        · exact h1 x hx

/-- An update depends on what its function makes of the entry there alone. -/
theorem upd_get_congr {t : Tab α} (h : rising t = true) {k v} (hv : get t k = some v) (f g : α → α) (e : f v = g v) :
    upd t k f = upd t k g := by
  unfold upd
  induction t with
  | nil => rfl
  | cons x l ih =>
    rw [rising_cons] at h
    simp only [List.map_cons]
    rw [get_cons] at hv
    by_cases hx : k = x.1
    · rw [if_pos hx] at hv
      have : x.2 = v := by simpa using hv
      congr 1
      · simp [hx, this, e]
      · apply List.map_congr_left
        intro y hy
        have := h.1 y hy
        rw [if_neg (by omega), if_neg (by omega)]
    · rw [if_neg hx] at hv
      congr 1
      · rw [if_neg (Ne.symm hx), if_neg (Ne.symm hx)]
      · exact ih h.2 hv

/-- An update of a key without an entry changes nothing. -/
theorem upd_none {t : Tab α} {k} (hv : get t k = none) (f : α → α) : upd t k f = t := by
  unfold upd
  induction t with
  | nil => rfl
  | cons x l ih =>
    rw [get_cons] at hv
    by_cases hx : k = x.1
    · simp [hx] at hv
    · rw [if_neg hx] at hv
      simp [ih hv, Ne.symm hx]

/-- An update that leaves the entry there as it is changes nothing. -/
theorem upd_id {t : Tab α} (h : rising t = true) {k v} (hv : get t k = some v) (f : α → α) (e : f v = v) : upd t k f = t := by
  rw [upd_get_congr h hv f id e]
  unfold upd
  simp

end Sys2Proof.Tab
end

