-- ==== Sys2Proof/Laws/Activity.lean ====
section
/-! SUPPORT. All that an activity does (R46, R48), in the terms of the statements. -/

namespace Sys2Proof.Machine

/-- An activity is what `afterActivity` says of its kind's mask bit, a store counting as one whatever the mask says. -/
theorem activity_after (a : Activity) (day : Nat) (s : State) (h : Tab.rising s.pc.parts = true) :
    activity a day s = afterActivity (s.cl.settings.activityMask.testBit a.bit) (decide (a = .ingest)) day s := by
  unfold activity afterActivity
  cases hp : s.part day with
  | none =>
    have hn : Tab.get s.pc.parts day = none := hp
    simp only [Option.any_none, Bool.false_eq_true, if_false]
    rw [Tab.upd_none hn]
  | some p =>
    have hg : Tab.get s.pc.parts day = some p := hp
    simp only [Option.any_some]
    split
    · rename_i hs
      split
      · rename_i hc
        rw [Tab.upd_get_congr h hg _ (fun p => { p with quietElapsed := 0, quietExpired := false }) (by simp [partAfterActivity, hs, hc])]
        simp [updPart, State.mapPc, hs]
      · rename_i hc
        rw [Tab.upd_id h hg _ (by simp [partAfterActivity, hs, hc])]
        simp [hs]
    · rename_i hs
      split
      · rename_i hc
        rw [Tab.upd_get_congr h hg _ (fun p => { p with state := .opened, quietElapsed := 0, quietExpired := false })
          (by simp [partAfterActivity, hs, hc])]
        simp [leavePack, updPart, State.mapPc, State.mapWa, State.mapCe, hs, hc]
      · rename_i hc
        rw [Tab.upd_id h hg _ (by unfold partAfterActivity; rw [if_neg]; simpa [hs] using hc)]
        rw [if_neg (by simpa [hs] using hc), if_neg (by simpa [hs] using hc)]
    · rename_i h1 h2
      have h1' : p.state ≠ .opened := h1
      have h2' : p.state ≠ .quiet := h2
      rw [Tab.upd_id h hg _ (by unfold partAfterActivity; rw [if_neg]; simp [h1', h2'])]
      simp [h2']

end Sys2Proof.Machine
end

