-- ==== Sys2Proof/Laws/State.lean ====
section
/-! SUPPORT. What each block's update changes and what it leaves: one lemma per field per update, all true by unfolding. -/

namespace Sys2Proof.Machine.State

variable (s : State)

/-! ## mapPower -/

@[simp] theorem mapPower_pending (f : PowerState → PowerState) : (s.mapPower f).pending = s.pending := rfl
@[simp] theorem mapPower_power (f : PowerState → PowerState) : (s.mapPower f).power = f s.power := rfl
@[simp] theorem mapPower_lp (f : PowerState → PowerState) : (s.mapPower f).lp = s.lp := rfl
@[simp] theorem mapPower_ck (f : PowerState → PowerState) : (s.mapPower f).ck = s.ck := rfl
@[simp] theorem mapPower_pc (f : PowerState → PowerState) : (s.mapPower f).pc = s.pc := rfl
@[simp] theorem mapPower_ie (f : PowerState → PowerState) : (s.mapPower f).ie = s.ie := rfl
@[simp] theorem mapPower_ix (f : PowerState → PowerState) : (s.mapPower f).ix = s.ix := rfl
@[simp] theorem mapPower_qa (f : PowerState → PowerState) : (s.mapPower f).qa = s.qa := rfl
@[simp] theorem mapPower_hs (f : PowerState → PowerState) : (s.mapPower f).hs = s.hs := rfl
@[simp] theorem mapPower_ce (f : PowerState → PowerState) : (s.mapPower f).ce = s.ce := rfl
@[simp] theorem mapPower_cs (f : PowerState → PowerState) : (s.mapPower f).cs = s.cs := rfl
@[simp] theorem mapPower_ru (f : PowerState → PowerState) : (s.mapPower f).ru = s.ru := rfl
@[simp] theorem mapPower_au (f : PowerState → PowerState) : (s.mapPower f).au = s.au := rfl
@[simp] theorem mapPower_wa (f : PowerState → PowerState) : (s.mapPower f).wa = s.wa := rfl
@[simp] theorem mapPower_cl (f : PowerState → PowerState) : (s.mapPower f).cl = s.cl := rfl

/-! ## mapLp -/

@[simp] theorem mapLp_pending (f : LinkPort → LinkPort) : (s.mapLp f).pending = s.pending := rfl
@[simp] theorem mapLp_power (f : LinkPort → LinkPort) : (s.mapLp f).power = s.power := rfl
@[simp] theorem mapLp_lp (f : LinkPort → LinkPort) : (s.mapLp f).lp = f s.lp := rfl
@[simp] theorem mapLp_ck (f : LinkPort → LinkPort) : (s.mapLp f).ck = s.ck := rfl
@[simp] theorem mapLp_pc (f : LinkPort → LinkPort) : (s.mapLp f).pc = s.pc := rfl
@[simp] theorem mapLp_ie (f : LinkPort → LinkPort) : (s.mapLp f).ie = s.ie := rfl
@[simp] theorem mapLp_ix (f : LinkPort → LinkPort) : (s.mapLp f).ix = s.ix := rfl
@[simp] theorem mapLp_qa (f : LinkPort → LinkPort) : (s.mapLp f).qa = s.qa := rfl
@[simp] theorem mapLp_hs (f : LinkPort → LinkPort) : (s.mapLp f).hs = s.hs := rfl
@[simp] theorem mapLp_ce (f : LinkPort → LinkPort) : (s.mapLp f).ce = s.ce := rfl
@[simp] theorem mapLp_cs (f : LinkPort → LinkPort) : (s.mapLp f).cs = s.cs := rfl
@[simp] theorem mapLp_ru (f : LinkPort → LinkPort) : (s.mapLp f).ru = s.ru := rfl
@[simp] theorem mapLp_au (f : LinkPort → LinkPort) : (s.mapLp f).au = s.au := rfl
@[simp] theorem mapLp_wa (f : LinkPort → LinkPort) : (s.mapLp f).wa = s.wa := rfl
@[simp] theorem mapLp_cl (f : LinkPort → LinkPort) : (s.mapLp f).cl = s.cl := rfl

/-! ## mapCk -/

@[simp] theorem mapCk_pending (f : ArchiveClock → ArchiveClock) : (s.mapCk f).pending = s.pending := rfl
@[simp] theorem mapCk_power (f : ArchiveClock → ArchiveClock) : (s.mapCk f).power = s.power := rfl
@[simp] theorem mapCk_lp (f : ArchiveClock → ArchiveClock) : (s.mapCk f).lp = s.lp := rfl
@[simp] theorem mapCk_ck (f : ArchiveClock → ArchiveClock) : (s.mapCk f).ck = f s.ck := rfl
@[simp] theorem mapCk_pc (f : ArchiveClock → ArchiveClock) : (s.mapCk f).pc = s.pc := rfl
@[simp] theorem mapCk_ie (f : ArchiveClock → ArchiveClock) : (s.mapCk f).ie = s.ie := rfl
@[simp] theorem mapCk_ix (f : ArchiveClock → ArchiveClock) : (s.mapCk f).ix = s.ix := rfl
@[simp] theorem mapCk_qa (f : ArchiveClock → ArchiveClock) : (s.mapCk f).qa = s.qa := rfl
@[simp] theorem mapCk_hs (f : ArchiveClock → ArchiveClock) : (s.mapCk f).hs = s.hs := rfl
@[simp] theorem mapCk_ce (f : ArchiveClock → ArchiveClock) : (s.mapCk f).ce = s.ce := rfl
@[simp] theorem mapCk_cs (f : ArchiveClock → ArchiveClock) : (s.mapCk f).cs = s.cs := rfl
@[simp] theorem mapCk_ru (f : ArchiveClock → ArchiveClock) : (s.mapCk f).ru = s.ru := rfl
@[simp] theorem mapCk_au (f : ArchiveClock → ArchiveClock) : (s.mapCk f).au = s.au := rfl
@[simp] theorem mapCk_wa (f : ArchiveClock → ArchiveClock) : (s.mapCk f).wa = s.wa := rfl
@[simp] theorem mapCk_cl (f : ArchiveClock → ArchiveClock) : (s.mapCk f).cl = s.cl := rfl

/-! ## mapPc -/

@[simp] theorem mapPc_pending (f : PartitionTable → PartitionTable) : (s.mapPc f).pending = s.pending := rfl
@[simp] theorem mapPc_power (f : PartitionTable → PartitionTable) : (s.mapPc f).power = s.power := rfl
@[simp] theorem mapPc_lp (f : PartitionTable → PartitionTable) : (s.mapPc f).lp = s.lp := rfl
@[simp] theorem mapPc_ck (f : PartitionTable → PartitionTable) : (s.mapPc f).ck = s.ck := rfl
@[simp] theorem mapPc_pc (f : PartitionTable → PartitionTable) : (s.mapPc f).pc = f s.pc := rfl
@[simp] theorem mapPc_ie (f : PartitionTable → PartitionTable) : (s.mapPc f).ie = s.ie := rfl
@[simp] theorem mapPc_ix (f : PartitionTable → PartitionTable) : (s.mapPc f).ix = s.ix := rfl
@[simp] theorem mapPc_qa (f : PartitionTable → PartitionTable) : (s.mapPc f).qa = s.qa := rfl
@[simp] theorem mapPc_hs (f : PartitionTable → PartitionTable) : (s.mapPc f).hs = s.hs := rfl
@[simp] theorem mapPc_ce (f : PartitionTable → PartitionTable) : (s.mapPc f).ce = s.ce := rfl
@[simp] theorem mapPc_cs (f : PartitionTable → PartitionTable) : (s.mapPc f).cs = s.cs := rfl
@[simp] theorem mapPc_ru (f : PartitionTable → PartitionTable) : (s.mapPc f).ru = s.ru := rfl
@[simp] theorem mapPc_au (f : PartitionTable → PartitionTable) : (s.mapPc f).au = s.au := rfl
@[simp] theorem mapPc_wa (f : PartitionTable → PartitionTable) : (s.mapPc f).wa = s.wa := rfl
@[simp] theorem mapPc_cl (f : PartitionTable → PartitionTable) : (s.mapPc f).cl = s.cl := rfl

/-! ## mapIe -/

@[simp] theorem mapIe_pending (f : IngestEngine → IngestEngine) : (s.mapIe f).pending = s.pending := rfl
@[simp] theorem mapIe_power (f : IngestEngine → IngestEngine) : (s.mapIe f).power = s.power := rfl
@[simp] theorem mapIe_lp (f : IngestEngine → IngestEngine) : (s.mapIe f).lp = s.lp := rfl
@[simp] theorem mapIe_ck (f : IngestEngine → IngestEngine) : (s.mapIe f).ck = s.ck := rfl
@[simp] theorem mapIe_pc (f : IngestEngine → IngestEngine) : (s.mapIe f).pc = s.pc := rfl
@[simp] theorem mapIe_ie (f : IngestEngine → IngestEngine) : (s.mapIe f).ie = f s.ie := rfl
@[simp] theorem mapIe_ix (f : IngestEngine → IngestEngine) : (s.mapIe f).ix = s.ix := rfl
@[simp] theorem mapIe_qa (f : IngestEngine → IngestEngine) : (s.mapIe f).qa = s.qa := rfl
@[simp] theorem mapIe_hs (f : IngestEngine → IngestEngine) : (s.mapIe f).hs = s.hs := rfl
@[simp] theorem mapIe_ce (f : IngestEngine → IngestEngine) : (s.mapIe f).ce = s.ce := rfl
@[simp] theorem mapIe_cs (f : IngestEngine → IngestEngine) : (s.mapIe f).cs = s.cs := rfl
@[simp] theorem mapIe_ru (f : IngestEngine → IngestEngine) : (s.mapIe f).ru = s.ru := rfl
@[simp] theorem mapIe_au (f : IngestEngine → IngestEngine) : (s.mapIe f).au = s.au := rfl
@[simp] theorem mapIe_wa (f : IngestEngine → IngestEngine) : (s.mapIe f).wa = s.wa := rfl
@[simp] theorem mapIe_cl (f : IngestEngine → IngestEngine) : (s.mapIe f).cl = s.cl := rfl

/-! ## mapIx -/

@[simp] theorem mapIx_pending (f : IndexController → IndexController) : (s.mapIx f).pending = s.pending := rfl
@[simp] theorem mapIx_power (f : IndexController → IndexController) : (s.mapIx f).power = s.power := rfl
@[simp] theorem mapIx_lp (f : IndexController → IndexController) : (s.mapIx f).lp = s.lp := rfl
@[simp] theorem mapIx_ck (f : IndexController → IndexController) : (s.mapIx f).ck = s.ck := rfl
@[simp] theorem mapIx_pc (f : IndexController → IndexController) : (s.mapIx f).pc = s.pc := rfl
@[simp] theorem mapIx_ie (f : IndexController → IndexController) : (s.mapIx f).ie = s.ie := rfl
@[simp] theorem mapIx_ix (f : IndexController → IndexController) : (s.mapIx f).ix = f s.ix := rfl
@[simp] theorem mapIx_qa (f : IndexController → IndexController) : (s.mapIx f).qa = s.qa := rfl
@[simp] theorem mapIx_hs (f : IndexController → IndexController) : (s.mapIx f).hs = s.hs := rfl
@[simp] theorem mapIx_ce (f : IndexController → IndexController) : (s.mapIx f).ce = s.ce := rfl
@[simp] theorem mapIx_cs (f : IndexController → IndexController) : (s.mapIx f).cs = s.cs := rfl
@[simp] theorem mapIx_ru (f : IndexController → IndexController) : (s.mapIx f).ru = s.ru := rfl
@[simp] theorem mapIx_au (f : IndexController → IndexController) : (s.mapIx f).au = s.au := rfl
@[simp] theorem mapIx_wa (f : IndexController → IndexController) : (s.mapIx f).wa = s.wa := rfl
@[simp] theorem mapIx_cl (f : IndexController → IndexController) : (s.mapIx f).cl = s.cl := rfl

/-! ## mapQa -/

@[simp] theorem mapQa_pending (f : QueryUnit → QueryUnit) : (s.mapQa f).pending = s.pending := rfl
@[simp] theorem mapQa_power (f : QueryUnit → QueryUnit) : (s.mapQa f).power = s.power := rfl
@[simp] theorem mapQa_lp (f : QueryUnit → QueryUnit) : (s.mapQa f).lp = s.lp := rfl
@[simp] theorem mapQa_ck (f : QueryUnit → QueryUnit) : (s.mapQa f).ck = s.ck := rfl
@[simp] theorem mapQa_pc (f : QueryUnit → QueryUnit) : (s.mapQa f).pc = s.pc := rfl
@[simp] theorem mapQa_ie (f : QueryUnit → QueryUnit) : (s.mapQa f).ie = s.ie := rfl
@[simp] theorem mapQa_ix (f : QueryUnit → QueryUnit) : (s.mapQa f).ix = s.ix := rfl
@[simp] theorem mapQa_qa (f : QueryUnit → QueryUnit) : (s.mapQa f).qa = f s.qa := rfl
@[simp] theorem mapQa_hs (f : QueryUnit → QueryUnit) : (s.mapQa f).hs = s.hs := rfl
@[simp] theorem mapQa_ce (f : QueryUnit → QueryUnit) : (s.mapQa f).ce = s.ce := rfl
@[simp] theorem mapQa_cs (f : QueryUnit → QueryUnit) : (s.mapQa f).cs = s.cs := rfl
@[simp] theorem mapQa_ru (f : QueryUnit → QueryUnit) : (s.mapQa f).ru = s.ru := rfl
@[simp] theorem mapQa_au (f : QueryUnit → QueryUnit) : (s.mapQa f).au = s.au := rfl
@[simp] theorem mapQa_wa (f : QueryUnit → QueryUnit) : (s.mapQa f).wa = s.wa := rfl
@[simp] theorem mapQa_cl (f : QueryUnit → QueryUnit) : (s.mapQa f).cl = s.cl := rfl

/-! ## mapHs -/

@[simp] theorem mapHs_pending (f : HotStore → HotStore) : (s.mapHs f).pending = s.pending := rfl
@[simp] theorem mapHs_power (f : HotStore → HotStore) : (s.mapHs f).power = s.power := rfl
@[simp] theorem mapHs_lp (f : HotStore → HotStore) : (s.mapHs f).lp = s.lp := rfl
@[simp] theorem mapHs_ck (f : HotStore → HotStore) : (s.mapHs f).ck = s.ck := rfl
@[simp] theorem mapHs_pc (f : HotStore → HotStore) : (s.mapHs f).pc = s.pc := rfl
@[simp] theorem mapHs_ie (f : HotStore → HotStore) : (s.mapHs f).ie = s.ie := rfl
@[simp] theorem mapHs_ix (f : HotStore → HotStore) : (s.mapHs f).ix = s.ix := rfl
@[simp] theorem mapHs_qa (f : HotStore → HotStore) : (s.mapHs f).qa = s.qa := rfl
@[simp] theorem mapHs_hs (f : HotStore → HotStore) : (s.mapHs f).hs = f s.hs := rfl
@[simp] theorem mapHs_ce (f : HotStore → HotStore) : (s.mapHs f).ce = s.ce := rfl
@[simp] theorem mapHs_cs (f : HotStore → HotStore) : (s.mapHs f).cs = s.cs := rfl
@[simp] theorem mapHs_ru (f : HotStore → HotStore) : (s.mapHs f).ru = s.ru := rfl
@[simp] theorem mapHs_au (f : HotStore → HotStore) : (s.mapHs f).au = s.au := rfl
@[simp] theorem mapHs_wa (f : HotStore → HotStore) : (s.mapHs f).wa = s.wa := rfl
@[simp] theorem mapHs_cl (f : HotStore → HotStore) : (s.mapHs f).cl = s.cl := rfl

/-! ## mapCe -/

@[simp] theorem mapCe_pending (f : CompactionEngine → CompactionEngine) : (s.mapCe f).pending = s.pending := rfl
@[simp] theorem mapCe_power (f : CompactionEngine → CompactionEngine) : (s.mapCe f).power = s.power := rfl
@[simp] theorem mapCe_lp (f : CompactionEngine → CompactionEngine) : (s.mapCe f).lp = s.lp := rfl
@[simp] theorem mapCe_ck (f : CompactionEngine → CompactionEngine) : (s.mapCe f).ck = s.ck := rfl
@[simp] theorem mapCe_pc (f : CompactionEngine → CompactionEngine) : (s.mapCe f).pc = s.pc := rfl
@[simp] theorem mapCe_ie (f : CompactionEngine → CompactionEngine) : (s.mapCe f).ie = s.ie := rfl
@[simp] theorem mapCe_ix (f : CompactionEngine → CompactionEngine) : (s.mapCe f).ix = s.ix := rfl
@[simp] theorem mapCe_qa (f : CompactionEngine → CompactionEngine) : (s.mapCe f).qa = s.qa := rfl
@[simp] theorem mapCe_hs (f : CompactionEngine → CompactionEngine) : (s.mapCe f).hs = s.hs := rfl
@[simp] theorem mapCe_ce (f : CompactionEngine → CompactionEngine) : (s.mapCe f).ce = f s.ce := rfl
@[simp] theorem mapCe_cs (f : CompactionEngine → CompactionEngine) : (s.mapCe f).cs = s.cs := rfl
@[simp] theorem mapCe_ru (f : CompactionEngine → CompactionEngine) : (s.mapCe f).ru = s.ru := rfl
@[simp] theorem mapCe_au (f : CompactionEngine → CompactionEngine) : (s.mapCe f).au = s.au := rfl
@[simp] theorem mapCe_wa (f : CompactionEngine → CompactionEngine) : (s.mapCe f).wa = s.wa := rfl
@[simp] theorem mapCe_cl (f : CompactionEngine → CompactionEngine) : (s.mapCe f).cl = s.cl := rfl

/-! ## mapCs -/

@[simp] theorem mapCs_pending (f : ColdStore → ColdStore) : (s.mapCs f).pending = s.pending := rfl
@[simp] theorem mapCs_power (f : ColdStore → ColdStore) : (s.mapCs f).power = s.power := rfl
@[simp] theorem mapCs_lp (f : ColdStore → ColdStore) : (s.mapCs f).lp = s.lp := rfl
@[simp] theorem mapCs_ck (f : ColdStore → ColdStore) : (s.mapCs f).ck = s.ck := rfl
@[simp] theorem mapCs_pc (f : ColdStore → ColdStore) : (s.mapCs f).pc = s.pc := rfl
@[simp] theorem mapCs_ie (f : ColdStore → ColdStore) : (s.mapCs f).ie = s.ie := rfl
@[simp] theorem mapCs_ix (f : ColdStore → ColdStore) : (s.mapCs f).ix = s.ix := rfl
@[simp] theorem mapCs_qa (f : ColdStore → ColdStore) : (s.mapCs f).qa = s.qa := rfl
@[simp] theorem mapCs_hs (f : ColdStore → ColdStore) : (s.mapCs f).hs = s.hs := rfl
@[simp] theorem mapCs_ce (f : ColdStore → ColdStore) : (s.mapCs f).ce = s.ce := rfl
@[simp] theorem mapCs_cs (f : ColdStore → ColdStore) : (s.mapCs f).cs = f s.cs := rfl
@[simp] theorem mapCs_ru (f : ColdStore → ColdStore) : (s.mapCs f).ru = s.ru := rfl
@[simp] theorem mapCs_au (f : ColdStore → ColdStore) : (s.mapCs f).au = s.au := rfl
@[simp] theorem mapCs_wa (f : ColdStore → ColdStore) : (s.mapCs f).wa = s.wa := rfl
@[simp] theorem mapCs_cl (f : ColdStore → ColdStore) : (s.mapCs f).cl = s.cl := rfl

/-! ## mapRu -/

@[simp] theorem mapRu_pending (f : RetentionUnit → RetentionUnit) : (s.mapRu f).pending = s.pending := rfl
@[simp] theorem mapRu_power (f : RetentionUnit → RetentionUnit) : (s.mapRu f).power = s.power := rfl
@[simp] theorem mapRu_lp (f : RetentionUnit → RetentionUnit) : (s.mapRu f).lp = s.lp := rfl
@[simp] theorem mapRu_ck (f : RetentionUnit → RetentionUnit) : (s.mapRu f).ck = s.ck := rfl
@[simp] theorem mapRu_pc (f : RetentionUnit → RetentionUnit) : (s.mapRu f).pc = s.pc := rfl
@[simp] theorem mapRu_ie (f : RetentionUnit → RetentionUnit) : (s.mapRu f).ie = s.ie := rfl
@[simp] theorem mapRu_ix (f : RetentionUnit → RetentionUnit) : (s.mapRu f).ix = s.ix := rfl
@[simp] theorem mapRu_qa (f : RetentionUnit → RetentionUnit) : (s.mapRu f).qa = s.qa := rfl
@[simp] theorem mapRu_hs (f : RetentionUnit → RetentionUnit) : (s.mapRu f).hs = s.hs := rfl
@[simp] theorem mapRu_ce (f : RetentionUnit → RetentionUnit) : (s.mapRu f).ce = s.ce := rfl
@[simp] theorem mapRu_cs (f : RetentionUnit → RetentionUnit) : (s.mapRu f).cs = s.cs := rfl
@[simp] theorem mapRu_ru (f : RetentionUnit → RetentionUnit) : (s.mapRu f).ru = f s.ru := rfl
@[simp] theorem mapRu_au (f : RetentionUnit → RetentionUnit) : (s.mapRu f).au = s.au := rfl
@[simp] theorem mapRu_wa (f : RetentionUnit → RetentionUnit) : (s.mapRu f).wa = s.wa := rfl
@[simp] theorem mapRu_cl (f : RetentionUnit → RetentionUnit) : (s.mapRu f).cl = s.cl := rfl

/-! ## mapAu -/

@[simp] theorem mapAu_pending (f : AuditUnit → AuditUnit) : (s.mapAu f).pending = s.pending := rfl
@[simp] theorem mapAu_power (f : AuditUnit → AuditUnit) : (s.mapAu f).power = s.power := rfl
@[simp] theorem mapAu_lp (f : AuditUnit → AuditUnit) : (s.mapAu f).lp = s.lp := rfl
@[simp] theorem mapAu_ck (f : AuditUnit → AuditUnit) : (s.mapAu f).ck = s.ck := rfl
@[simp] theorem mapAu_pc (f : AuditUnit → AuditUnit) : (s.mapAu f).pc = s.pc := rfl
@[simp] theorem mapAu_ie (f : AuditUnit → AuditUnit) : (s.mapAu f).ie = s.ie := rfl
@[simp] theorem mapAu_ix (f : AuditUnit → AuditUnit) : (s.mapAu f).ix = s.ix := rfl
@[simp] theorem mapAu_qa (f : AuditUnit → AuditUnit) : (s.mapAu f).qa = s.qa := rfl
@[simp] theorem mapAu_hs (f : AuditUnit → AuditUnit) : (s.mapAu f).hs = s.hs := rfl
@[simp] theorem mapAu_ce (f : AuditUnit → AuditUnit) : (s.mapAu f).ce = s.ce := rfl
@[simp] theorem mapAu_cs (f : AuditUnit → AuditUnit) : (s.mapAu f).cs = s.cs := rfl
@[simp] theorem mapAu_ru (f : AuditUnit → AuditUnit) : (s.mapAu f).ru = s.ru := rfl
@[simp] theorem mapAu_au (f : AuditUnit → AuditUnit) : (s.mapAu f).au = f s.au := rfl
@[simp] theorem mapAu_wa (f : AuditUnit → AuditUnit) : (s.mapAu f).wa = s.wa := rfl
@[simp] theorem mapAu_cl (f : AuditUnit → AuditUnit) : (s.mapAu f).cl = s.cl := rfl

/-! ## mapWa -/

@[simp] theorem mapWa_pending (f : WorkArbiter → WorkArbiter) : (s.mapWa f).pending = s.pending := rfl
@[simp] theorem mapWa_power (f : WorkArbiter → WorkArbiter) : (s.mapWa f).power = s.power := rfl
@[simp] theorem mapWa_lp (f : WorkArbiter → WorkArbiter) : (s.mapWa f).lp = s.lp := rfl
@[simp] theorem mapWa_ck (f : WorkArbiter → WorkArbiter) : (s.mapWa f).ck = s.ck := rfl
@[simp] theorem mapWa_pc (f : WorkArbiter → WorkArbiter) : (s.mapWa f).pc = s.pc := rfl
@[simp] theorem mapWa_ie (f : WorkArbiter → WorkArbiter) : (s.mapWa f).ie = s.ie := rfl
@[simp] theorem mapWa_ix (f : WorkArbiter → WorkArbiter) : (s.mapWa f).ix = s.ix := rfl
@[simp] theorem mapWa_qa (f : WorkArbiter → WorkArbiter) : (s.mapWa f).qa = s.qa := rfl
@[simp] theorem mapWa_hs (f : WorkArbiter → WorkArbiter) : (s.mapWa f).hs = s.hs := rfl
@[simp] theorem mapWa_ce (f : WorkArbiter → WorkArbiter) : (s.mapWa f).ce = s.ce := rfl
@[simp] theorem mapWa_cs (f : WorkArbiter → WorkArbiter) : (s.mapWa f).cs = s.cs := rfl
@[simp] theorem mapWa_ru (f : WorkArbiter → WorkArbiter) : (s.mapWa f).ru = s.ru := rfl
@[simp] theorem mapWa_au (f : WorkArbiter → WorkArbiter) : (s.mapWa f).au = s.au := rfl
@[simp] theorem mapWa_wa (f : WorkArbiter → WorkArbiter) : (s.mapWa f).wa = f s.wa := rfl
@[simp] theorem mapWa_cl (f : WorkArbiter → WorkArbiter) : (s.mapWa f).cl = s.cl := rfl

/-! ## mapCl -/

@[simp] theorem mapCl_pending (f : ConfigLoader → ConfigLoader) : (s.mapCl f).pending = s.pending := rfl
@[simp] theorem mapCl_power (f : ConfigLoader → ConfigLoader) : (s.mapCl f).power = s.power := rfl
@[simp] theorem mapCl_lp (f : ConfigLoader → ConfigLoader) : (s.mapCl f).lp = s.lp := rfl
@[simp] theorem mapCl_ck (f : ConfigLoader → ConfigLoader) : (s.mapCl f).ck = s.ck := rfl
@[simp] theorem mapCl_pc (f : ConfigLoader → ConfigLoader) : (s.mapCl f).pc = s.pc := rfl
@[simp] theorem mapCl_ie (f : ConfigLoader → ConfigLoader) : (s.mapCl f).ie = s.ie := rfl
@[simp] theorem mapCl_ix (f : ConfigLoader → ConfigLoader) : (s.mapCl f).ix = s.ix := rfl
@[simp] theorem mapCl_qa (f : ConfigLoader → ConfigLoader) : (s.mapCl f).qa = s.qa := rfl
@[simp] theorem mapCl_hs (f : ConfigLoader → ConfigLoader) : (s.mapCl f).hs = s.hs := rfl
@[simp] theorem mapCl_ce (f : ConfigLoader → ConfigLoader) : (s.mapCl f).ce = s.ce := rfl
@[simp] theorem mapCl_cs (f : ConfigLoader → ConfigLoader) : (s.mapCl f).cs = s.cs := rfl
@[simp] theorem mapCl_ru (f : ConfigLoader → ConfigLoader) : (s.mapCl f).ru = s.ru := rfl
@[simp] theorem mapCl_au (f : ConfigLoader → ConfigLoader) : (s.mapCl f).au = s.au := rfl
@[simp] theorem mapCl_wa (f : ConfigLoader → ConfigLoader) : (s.mapCl f).wa = s.wa := rfl
@[simp] theorem mapCl_cl (f : ConfigLoader → ConfigLoader) : (s.mapCl f).cl = f s.cl := rfl

/-- Two states with the same blocks and the same queue are one state. -/
theorem ext_blocks {s t : State} (h0 : s.pending = t.pending) (h1 : s.power = t.power) (h2 : s.lp = t.lp) (h3 : s.ck = t.ck)
    (h4 : s.pc = t.pc) (h5 : s.ie = t.ie) (h6 : s.ix = t.ix) (h7 : s.qa = t.qa) (h8 : s.hs = t.hs) (h9 : s.ce = t.ce)
    (h10 : s.cs = t.cs) (h11 : s.ru = t.ru) (h12 : s.au = t.au) (h13 : s.wa = t.wa) (h14 : s.cl = t.cl) : s = t := by
  cases s; cases t; simp_all

end Sys2Proof.Machine.State
end

