-- ==== Sys2Proof/Laws/Link.lean ====
section
/-! SUPPORT. What the Link Port's shared operations do and leave: a frame queued, credits made pending, a response handed over. -/

namespace Sys2Proof.Machine

variable (l : LinkPort) (c : Credits) (f : OutFrame) (tag epoch status : Nat) (payload : Bytes)

@[simp] theorem LinkPort.push_link : (l.push f).link = l.link := rfl
@[simp] theorem LinkPort.push_epoch : (l.push f).epoch = l.epoch := rfl
@[simp] theorem LinkPort.push_tags : (l.push f).tags = l.tags := rfl
@[simp] theorem LinkPort.push_wire : (l.push f).wire = l.wire := rfl
@[simp] theorem LinkPort.push_buffer : (l.push f).buffer = l.buffer := rfl
@[simp] theorem LinkPort.push_outQueue : (l.push f).outQueue = l.outQueue ++ [f] := rfl
@[simp] theorem LinkPort.push_inUse : (l.push f).inUse = l.inUse := rfl
@[simp] theorem LinkPort.push_due : (l.push f).due = l.due := rfl
@[simp] theorem LinkPort.push_withheld : (l.push f).withheld = l.withheld := rfl

/-- All that making credits pending can do (R25). -/
theorem LinkPort.pend_eq : l.pend c =
    { l with
      inUse := if c ≠ Credits.zero ∧ l.link = .resetting then l.inUse.sub c else l.inUse
      due := if c ≠ Credits.zero ∧ l.link = .opened then l.due.add c else l.due
      outQueue := if c ≠ Credits.zero ∧ l.link = .opened ∧ l.outQueue = [] then [creditUpdate 0] else l.outQueue } := by
  unfold LinkPort.pend
  by_cases h : c = Credits.zero
  · simp [h]
  · cases hl : l.link <;> simp [h]

@[simp] theorem LinkPort.pend_link : (l.pend c).link = l.link := by rw [pend_eq]
@[simp] theorem LinkPort.pend_epoch : (l.pend c).epoch = l.epoch := by rw [pend_eq]
@[simp] theorem LinkPort.pend_tags : (l.pend c).tags = l.tags := by rw [pend_eq]
@[simp] theorem LinkPort.pend_wire : (l.pend c).wire = l.wire := by rw [pend_eq]
@[simp] theorem LinkPort.pend_buffer : (l.pend c).buffer = l.buffer := by rw [pend_eq]
@[simp] theorem LinkPort.pend_withheld : (l.pend c).withheld = l.withheld := by rw [pend_eq]

/-- A response of the current epoch joins the output queue (R23, R24). -/
theorem LinkPort.answer_current (h : epoch = l.epoch) : l.answer tag epoch status payload =
    l.push { tag := tag, status := status, payload := payload, riders := 0, startsReset := false } := by
  unfold LinkPort.answer
  rw [if_pos h]

/-- A response of an old epoch is dropped (R23). -/
theorem LinkPort.answer_old (h : epoch ≠ l.epoch) : l.answer tag epoch status payload = l := by
  unfold LinkPort.answer
  rw [if_neg h]

@[simp] theorem LinkPort.answer_link : (l.answer tag epoch status payload).link = l.link := by
  unfold LinkPort.answer; split <;> rfl
@[simp] theorem LinkPort.answer_epoch : (l.answer tag epoch status payload).epoch = l.epoch := by
  unfold LinkPort.answer; split <;> rfl
@[simp] theorem LinkPort.answer_tags : (l.answer tag epoch status payload).tags = l.tags := by
  unfold LinkPort.answer; split <;> rfl
@[simp] theorem LinkPort.answer_wire : (l.answer tag epoch status payload).wire = l.wire := by
  unfold LinkPort.answer; split <;> rfl
@[simp] theorem LinkPort.answer_buffer : (l.answer tag epoch status payload).buffer = l.buffer := by
  unfold LinkPort.answer; split <;> rfl

/-- A response handed over changes the Link Port alone. -/
theorem respond_eq (s : State) : respond tag epoch status payload s = s.mapLp (LinkPort.answer tag epoch status payload) := rfl

/-- A response of the current epoch joins the output queue. -/
theorem respond_current (s : State) (h : epoch = s.lp.epoch) : respond tag epoch status payload s =
    enqueue { tag := tag, status := status, payload := payload, riders := 0, startsReset := false } s := by
  simp only [respond, enqueue, State.mapLp, LinkPort.answer_current _ _ _ _ _ h]

end Sys2Proof.Machine
end

