-- ==== Sys2Proof/Laws/Kept.lean ====
section
/-! SUPPORT. What the internal actions of an event never change: the command queue, power and pins, the clock, the link's state, epoch,
tags and sent frames, the image, the holds, the previous-day bank, the damage latch and the archive signature. One lemma for each shared
operation, so that a proof about a command cites `settle_kept` and never unfolds what settles. -/

namespace Sys2Proof.Machine

/-- The parts of the state that no internal action changes. -/
structure Kept where
  pending : List Instr
  power : PowerState
  ck : ArchiveClock
  link : LinkState
  epoch : Nat
  tags : Tab TagEntry
  wire : List Bytes
  image : ConfigImage
  source : ConfigSource
  holds : Tab Hold
  previous : List Nat
  captureDay : Option Nat
  damageFound : Bool
  signatureValid : Bool

/-- Those parts of a state. -/
def State.kept (s : State) : Kept :=
  { pending := s.pending, power := s.power, ck := s.ck, link := s.lp.link, epoch := s.lp.epoch, tags := s.lp.tags, wire := s.lp.wire,
    image := s.cl.image, source := s.cl.source, holds := s.ru.holds, previous := s.au.previous, captureDay := s.au.captureDay,
    damageFound := s.au.damageFound, signatureValid := s.ix.signatureValid }

section
variable (s : State)

@[simp] theorem kept_mapPc (f : PartitionTable → PartitionTable) : (s.mapPc f).kept = s.kept := rfl
@[simp] theorem kept_mapIe (f : IngestEngine → IngestEngine) : (s.mapIe f).kept = s.kept := rfl
@[simp] theorem kept_mapQa (f : QueryUnit → QueryUnit) : (s.mapQa f).kept = s.kept := rfl
@[simp] theorem kept_mapHs (f : HotStore → HotStore) : (s.mapHs f).kept = s.kept := rfl
@[simp] theorem kept_mapCe (f : CompactionEngine → CompactionEngine) : (s.mapCe f).kept = s.kept := rfl
@[simp] theorem kept_mapCs (f : ColdStore → ColdStore) : (s.mapCs f).kept = s.kept := rfl
@[simp] theorem kept_mapWa (f : WorkArbiter → WorkArbiter) : (s.mapWa f).kept = s.kept := rfl

@[simp] theorem kept_mapLp (f : LinkPort → LinkPort) (h : (f s.lp).link = s.lp.link ∧ (f s.lp).epoch = s.lp.epoch ∧
    (f s.lp).tags = s.lp.tags ∧ (f s.lp).wire = s.lp.wire) : (s.mapLp f).kept = s.kept := by
  obtain ⟨h1, h2, h3, h4⟩ := h
  simp [State.kept, h1, h2, h3, h4]

@[simp] theorem kept_mapIx (f : IndexController → IndexController) (h : (f s.ix).signatureValid = s.ix.signatureValid) :
    (s.mapIx f).kept = s.kept := by
  simp [State.kept, h]

@[simp] theorem kept_mapRu (f : RetentionUnit → RetentionUnit) (h : (f s.ru).holds = s.ru.holds) : (s.mapRu f).kept = s.kept := by
  simp [State.kept, h]

@[simp] theorem kept_mapAu (f : AuditUnit → AuditUnit) (h : (f s.au).previous = s.au.previous ∧ (f s.au).captureDay = s.au.captureDay ∧
    (f s.au).damageFound = s.au.damageFound) : (s.mapAu f).kept = s.kept := by
  obtain ⟨h1, h2, h3⟩ := h
  simp [State.kept, h1, h2, h3]

@[simp] theorem kept_mapCl (f : ConfigLoader → ConfigLoader) (h : (f s.cl).image = s.cl.image ∧ (f s.cl).source = s.cl.source) :
    (s.mapCl f).kept = s.kept := by
  obtain ⟨h1, h2⟩ := h
  simp [State.kept, h1, h2]

end

/-- A fold of operations that each keep them keeps them. -/
theorem foldl_kept {α : Type} (g : State → α → State) (h : ∀ s a, (g s a).kept = s.kept) (l : List α) (s : State) :
    (l.foldl g s).kept = s.kept := by
  induction l generalizing s with
  | nil => rfl
  | cons a l ih => rw [List.foldl_cons, ih, h]

@[simp] theorem countUp_kept (c : Counter) (n : Nat) (s : State) : (countUp c n s).kept = s.kept := by
  rfl

@[simp] theorem updAccount_kept (source day : Nat) (f : Account → Account) (s : State) : (updAccount source day f s).kept = s.kept := by
  rfl

@[simp] theorem writeSlot_kept (n : Nat) (r : CallRecord) (s : State) : (writeSlot n r s).kept = s.kept := by
  rfl

@[simp] theorem releaseSlot_kept (n : Nat) (s : State) : (releaseSlot n s).kept = s.kept := by
  rfl

@[simp] theorem putEntry_kept (ref : Nat) (e : MapEntry) (s : State) : (putEntry ref e s).kept = s.kept := by
  rfl

@[simp] theorem dropEntry_kept (ref : Nat) (s : State) : (dropEntry ref s).kept = s.kept := by
  rfl

@[simp] theorem updSeg_kept (n : Nat) (f : SegEntry → SegEntry) (s : State) : (updSeg n f s).kept = s.kept := by
  rfl

@[simp] theorem updPart_kept (day : Nat) (f : Partition → Partition) (s : State) : (updPart day f s).kept = s.kept := by
  rfl

@[simp] theorem mapParts_kept (f : Nat → Partition → Partition) (s : State) : (mapParts f s).kept = s.kept := by
  rfl

@[simp] theorem joinQueue_kept (day : Nat) (w : Waiter) (s : State) : (joinQueue day w s).kept = s.kept := by
  rfl

@[simp] theorem leaveQueue_kept (day : Nat) (w : Waiter) (s : State) : (leaveQueue day w s).kept = s.kept := by
  rfl

@[simp] theorem releasePin_kept (day : Nat) (s : State) : (releasePin day s).kept = s.kept := by
  rfl

@[simp] theorem releaseMover_kept (day : Nat) (s : State) : (releaseMover day s).kept = s.kept := by
  rfl

@[simp] theorem placeRequest_kept (k : JobKind) (r : Requester) (s : State) : (placeRequest k r s).kept = s.kept := by
  rfl

@[simp] theorem withdrawRequest_kept (k : JobKind) (r : Requester) (s : State) : (withdrawRequest k r s).kept = s.kept := by
  rfl

@[simp] theorem engineIdle_kept (s : State) : (engineIdle s).kept = s.kept := by
  rfl

@[simp] theorem joinRepack_kept (day : Nat) (s : State) : (joinRepack day s).kept = s.kept := by
  rfl

@[simp] theorem joinPack_kept (day : Nat) (s : State) : (joinPack day s).kept = s.kept := by
  rfl

@[simp] theorem joinPackAll_kept (days : List Nat) (s : State) : (joinPackAll days s).kept = s.kept := by
  exact foldl_kept _ (fun s d => joinPack_kept d s) _ _

@[simp] theorem leavePack_kept (day : Nat) (s : State) : (leavePack day s).kept = s.kept := by
  rfl

@[simp] theorem repackTest_kept (test : Partition → Bool) (day : Nat) (s : State) : (repackTest test day s).kept = s.kept := by
  unfold repackTest
  try dsimp only
  repeat' split
  all_goals simp

@[simp] theorem takeCredits_kept (c : Credits) (s : State) : (takeCredits c s).kept = s.kept := by
  unfold takeCredits
  try dsimp only
  all_goals simp

@[simp] theorem enqueue_kept (f : OutFrame) (s : State) : (enqueue f s).kept = s.kept := by
  unfold enqueue
  try dsimp only
  all_goals simp

@[simp] theorem creditsPending_kept (c : Credits) (s : State) : (creditsPending c s).kept = s.kept := by
  unfold creditsPending
  try dsimp only
  all_goals simp

@[simp] theorem frameCreditEarned_kept (s : State) : (frameCreditEarned s).kept = s.kept := by
  unfold frameCreditEarned
  try dsimp only
  repeat' split
  all_goals simp

@[simp] theorem returnWithheld_kept (s : State) : (returnWithheld s).kept = s.kept := by
  unfold returnWithheld
  try dsimp only
  repeat' split
  all_goals simp

@[simp] theorem respond_kept (tag epoch status : Nat) (payload : Bytes) (s : State) : (respond tag epoch status payload s).kept = s.kept := by
  unfold respond
  try dsimp only
  all_goals simp

@[simp] theorem notice_kept (status : Nat) (payload : Bytes) (s : State) : (notice status payload s).kept = s.kept := by
  unfold notice
  try dsimp only
  all_goals simp

@[simp] theorem answerMalformed_kept (tag : Nat) (pool : Pool) (s : State) : (answerMalformed tag pool s).kept = s.kept := by
  unfold answerMalformed
  try dsimp only
  all_goals simp

@[simp] theorem moveOnward_kept (s : State) : (moveOnward s).kept = s.kept := by
  unfold moveOnward
  try dsimp only
  all_goals simp

@[simp] theorem evalPressure_kept (s : State) : (evalPressure s).kept = s.kept := by
  unfold evalPressure
  repeat' split
  all_goals simp

@[simp] theorem closeDays_kept (s : State) : (closeDays s).kept = s.kept := by
  unfold closeDays
  try dsimp only
  all_goals simp

@[simp] theorem allocatePart_kept (day : Nat) (s : State) : (allocatePart day s).kept = s.kept := by
  unfold allocatePart
  try dsimp only
  repeat' split
  all_goals simp

@[simp] theorem advanceQuietTimers_kept (n : Nat) (s : State) : (advanceQuietTimers n s).kept = s.kept := by
  unfold advanceQuietTimers
  try dsimp only
  all_goals simp

@[simp] theorem compareQuietTimers_kept (s : State) : (compareQuietTimers s).kept = s.kept := by
  unfold compareQuietTimers
  try dsimp only
  all_goals simp

@[simp] theorem activity_kept (a : Activity) (day : Nat) (s : State) : (activity a day s).kept = s.kept := by
  unfold activity
  try dsimp only
  repeat' split
  all_goals simp

@[simp] theorem freeSegment_kept (n day : Nat) (s : State) : (freeSegment n day s).kept = s.kept := by
  unfold freeSegment
  try dsimp only
  all_goals simp

@[simp] theorem segmentLoses_kept (n : Nat) (s : State) : (segmentLoses n s).kept = s.kept := by
  unfold segmentLoses
  try dsimp only
  repeat' split
  all_goals simp

@[simp] theorem queueSweep_kept (s : State) (d : Nat) : (queueSweep s d).kept = s.kept := by
  unfold queueSweep
  try dsimp only
  repeat' split
  all_goals simp

@[simp] theorem schedulePass_kept (sel : Nat → Partition → CallClass → Bool) (s : State) : (schedulePass sel s).kept = s.kept := by
  unfold schedulePass
  split
  · rw [foldl_kept _ (fun s d => queueSweep_kept s d)]
    simp
  · rfl

@[simp] theorem fullPass_kept  (s : State) : (fullPass s).kept = s.kept := by
  exact schedulePass_kept _ _

@[simp] theorem setPending_kept (c : CallClass) (days : Nat) (s : State) : (setPending c days s).kept = s.kept := by
  unfold setPending
  try dsimp only
  all_goals simp

@[simp] theorem activateRetention_kept (s : State) : (activateRetention s).kept = s.kept := by
  unfold activateRetention
  try dsimp only
  all_goals simp

@[simp] theorem serveSetRetention_kept (tag epoch cls days : Nat) (applyNow : Bool) (s : State) : (serveSetRetention tag epoch cls days applyNow s).kept = s.kept := by
  unfold serveSetRetention
  try dsimp only
  repeat' split
  all_goals simp

@[simp] theorem serveListHolds_kept (tag epoch : Nat) (s : State) : (serveListHolds tag epoch s).kept = s.kept := by
  unfold serveListHolds
  try dsimp only
  all_goals simp

@[simp] theorem serveCloseDay_kept (tag epoch d : Nat) (s : State) : (serveCloseDay tag epoch d s).kept = s.kept := by
  unfold serveCloseDay
  try dsimp only
  repeat' split
  all_goals simp

@[simp] theorem servePartitionInfo_kept (tag epoch d firstIndex : Nat) (s : State) : (servePartitionInfo tag epoch d firstIndex s).kept = s.kept := by
  unfold servePartitionInfo
  try dsimp only
  repeat' split
  all_goals simp

@[simp] theorem updCtx_kept (c : Nat) (f : QueryContext → QueryContext) (s : State) : (updCtx c f s).kept = s.kept := by
  unfold updCtx
  try dsimp only
  all_goals simp

@[simp] theorem openContext_kept (tag epoch day : Nat) (work : QueryWork) (s : State) : (openContext tag epoch day work s).kept = s.kept := by
  unfold openContext
  try dsimp only
  all_goals simp

@[simp] theorem finishContext_kept (c : Nat) (q : QueryContext) (status : Nat) (payload : Bytes) (s : State) : (finishContext c q status payload s).kept = s.kept := by
  unfold finishContext
  try dsimp only
  all_goals simp

@[simp] theorem askDecode_kept (c n : Nat) (s : State) : (askDecode c n s).kept = s.kept := by
  unfold askDecode
  try dsimp only
  all_goals simp

@[simp] theorem takeFetch_kept (tag epoch ref : Nat) (s : State) : (takeFetch tag epoch ref s).kept = s.kept := by
  unfold takeFetch
  try dsimp only
  repeat' split
  all_goals simp

@[simp] theorem fetchRead_kept (c : Nat) (q : QueryContext) (r : CallRecord) (s : State) : (fetchRead c q r s).kept = s.kept := by
  unfold fetchRead
  try dsimp only
  all_goals simp

@[simp] theorem fetchPinned_kept (c : Nat) (q : QueryContext) (ref : Nat) (s : State) : (fetchPinned c q ref s).kept = s.kept := by
  unfold fetchPinned
  try dsimp only
  repeat' split
  all_goals simp

@[simp] theorem subscriberAnswer_kept (c : Nat) (q : QueryContext) (more : Bool) (g : SubscriberProgress) (s : State) : (subscriberAnswer c q more g s).kept = s.kept := by
  unfold subscriberAnswer
  try dsimp only
  all_goals simp

@[simp] theorem subscriberNext_kept (c : Nat) (q : QueryContext) (p : SubscriberParams) (g : SubscriberProgress) (first : Nat) (s : State) : (subscriberNext c q p g first s).kept = s.kept := by
  unfold subscriberNext
  try dsimp only
  repeat' split
  all_goals simp

@[simp] theorem takeSubscriber_kept (tag epoch : Nat) (p : SubscriberParams) (s : State) : (takeSubscriber tag epoch p s).kept = s.kept := by
  unfold takeSubscriber
  try dsimp only
  repeat' split
  all_goals simp

@[simp] theorem subscriberDayEnd_kept (c : Nat) (q : QueryContext) (p : SubscriberParams) (g : SubscriberProgress) (s : State) : (subscriberDayEnd c q p g s).kept = s.kept := by
  unfold subscriberDayEnd
  try dsimp only
  repeat' split
  all_goals simp

@[simp] theorem subscriberGoOn_kept (c : Nat) (q : QueryContext) (p : SubscriberParams) (g : SubscriberProgress) (s : State) : (subscriberGoOn c q p g s).kept = s.kept := by
  unfold subscriberGoOn
  try dsimp only
  repeat' split
  all_goals simp

@[simp] theorem subscriberPinned_kept (c : Nat) (q : QueryContext) (p : SubscriberParams) (g : SubscriberProgress) (s : State) : (subscriberPinned c q p g s).kept = s.kept := by
  unfold subscriberPinned
  try dsimp only
  repeat' split
  all_goals simp

@[simp] theorem subscriberDecoded_kept (c : Nat) (q : QueryContext) (p : SubscriberParams) (g : SubscriberProgress) (rs : Option (List CallRecord)) (s : State) : (subscriberDecoded c q p g rs s).kept = s.kept := by
  unfold subscriberDecoded
  try dsimp only
  repeat' split
  all_goals simp

@[simp] theorem cancelSubscriber_kept (c : Nat) (q : QueryContext) (s : State) : (cancelSubscriber c q s).kept = s.kept := by
  unfold cancelSubscriber
  try dsimp only
  repeat' split
  all_goals simp

@[simp] theorem tallyAmend_kept (source day : Nat) (delta : Int) (s : State) : (tallyAmend source day delta s).kept = s.kept := by
  unfold tallyAmend
  try dsimp only
  all_goals simp

@[simp] theorem amendInPlace_kept (p : AmendParams) (slot : Nat) (r : CallRecord) (s : State) : (amendInPlace p slot r s).kept = s.kept := by
  unfold amendInPlace
  try dsimp only
  all_goals simp

@[simp] theorem conflictCounted_kept (s : State) : (conflictCounted s).kept = s.kept := by
  unfold conflictCounted
  try dsimp only
  all_goals simp

@[simp] theorem startMoving_kept (tag epoch : Nat) (p : AmendParams) (e : MapEntry) (s : State) : (startMoving tag epoch p e s).kept = s.kept := by
  unfold startMoving
  try dsimp only
  all_goals simp

@[simp] theorem takeAmend_kept (tag epoch : Nat) (p : AmendParams) (s : State) : (takeAmend tag epoch p s).kept = s.kept := by
  unfold takeAmend
  try dsimp only
  repeat' split
  all_goals simp

@[simp] theorem updFlight_kept (c : Nat) (f : AmendFlight → AmendFlight) (s : State) : (updFlight c f s).kept = s.kept := by
  unfold updFlight
  try dsimp only
  all_goals simp

@[simp] theorem amendAsksMover_kept (c : Nat) (q : QueryContext) (loc : Location) (r : CallRecord) (s : State) : (amendAsksMover c q loc r s).kept = s.kept := by
  unfold amendAsksMover
  try dsimp only
  all_goals simp

@[simp] theorem amendPinned_kept (c : Nat) (q : QueryContext) (p : AmendParams) (s : State) : (amendPinned c q p s).kept = s.kept := by
  unfold amendPinned
  try dsimp only
  repeat' split
  all_goals simp

@[simp] theorem leaveOldLocation_kept (day : Nat) (old : Location) (s : State) : (leaveOldLocation day old s).kept = s.kept := by
  unfold leaveOldLocation
  try dsimp only
  repeat' split
  all_goals simp

@[simp] theorem amendMove_kept (p : AmendParams) (old : Location) (copy : CallRecord) (s : State) : (amendMove p old copy s).kept = s.kept := by
  unfold amendMove
  try dsimp only
  all_goals simp

@[simp] theorem amendAdmitted_kept (c : Nat) (q : QueryContext) (p : AmendParams) (f : AmendFlight) (s : State) : (amendAdmitted c q p f s).kept = s.kept := by
  unfold amendAdmitted
  try dsimp only
  repeat' split
  all_goals simp

@[simp] theorem queryPinned_kept (c : Nat) (s : State) : (queryPinned c s).kept = s.kept := by
  unfold queryPinned
  try dsimp only
  repeat' split
  all_goals simp

@[simp] theorem queryDecoded_kept (c : Nat) (rs : Option (List CallRecord)) (s : State) : (queryDecoded c rs s).kept = s.kept := by
  unfold queryDecoded
  try dsimp only
  repeat' split
  all_goals simp

@[simp] theorem moveAdmitted_kept (c : Nat) (s : State) : (moveAdmitted c s).kept = s.kept := by
  unfold moveAdmitted
  try dsimp only
  repeat' split
  all_goals simp

@[simp] theorem queryReleased_kept (c : Nat) (s : State) : (queryReleased c s).kept = s.kept := by
  unfold queryReleased
  try dsimp only
  repeat' split
  all_goals simp

@[simp] theorem updContext_kept (i : Nat) (f : FileContext → FileContext) (s : State) : (updContext i f s).kept = s.kept := by
  unfold updContext
  try dsimp only
  all_goals simp

@[simp] theorem updFile_kept (i : Nat) (f : OpenFile → OpenFile) (s : State) : (updFile i f s).kept = s.kept := by
  unfold updFile
  try dsimp only
  all_goals simp

@[simp] theorem freeContext_kept (i : Nat) (s : State) : (freeContext i s).kept = s.kept := by
  unfold freeContext
  try dsimp only
  all_goals simp

@[simp] theorem timeOut_kept (due : FileContext → Bool) (s : State) : (timeOut due s).kept = s.kept := by
  unfold timeOut
  try dsimp only
  all_goals simp

@[simp] theorem advanceIdleTimers_kept (s : State) : (advanceIdleTimers s).kept = s.kept := by
  unfold advanceIdleTimers
  try dsimp only
  all_goals simp

@[simp] theorem compareIdleTimers_kept (s : State) : (compareIdleTimers s).kept = s.kept := by
  unfold compareIdleTimers
  try dsimp only
  all_goals simp

@[simp] theorem endDrain_kept (e : BatchEntry) (status : Nat) (payload : Bytes) (s : State) : (endDrain e status payload s).kept = s.kept := by
  unfold endDrain
  try dsimp only
  all_goals simp

@[simp] theorem drainOpen_kept (e : BatchEntry) (source file : Nat) (s : State) : (drainOpen e source file s).kept = s.kept := by
  unfold drainOpen
  try dsimp only
  repeat' split
  all_goals simp

@[simp] theorem drainClose_kept (e : BatchEntry) (f : OpenFile) (trailer : Option (Nat × Int)) (s : State) : (drainClose e f trailer s).kept = s.kept := by
  unfold drainClose
  try dsimp only
  all_goals simp

@[simp] theorem drainAbort_kept (e : BatchEntry) (f : OpenFile) (s : State) : (drainAbort e f s).kept = s.kept := by
  unfold drainAbort
  try dsimp only
  all_goals simp

@[simp] theorem updDrain_kept (f : Drain → Drain) (s : State) : (updDrain f s).kept = s.kept := by
  unfold updDrain
  try dsimp only
  all_goals simp

@[simp] theorem nextRecord_kept (size : Nat) (s : State) : (nextRecord size s).kept = s.kept := by
  simp [nextRecord]

@[simp] theorem tallyReceived_kept (e : BatchEntry) (charge : Nat) (s : State) : (tallyReceived e charge s).kept = s.kept := by
  unfold tallyReceived
  try dsimp only
  all_goals simp

@[simp] theorem tallyRefused_kept (e : BatchEntry) (code : RefusalCode) (s : State) : (tallyRefused e code s).kept = s.kept := by
  unfold tallyRefused
  try dsimp only
  all_goals simp

@[simp] theorem refuseRecord_kept (e : BatchEntry) (charge size : Nat) (code : RefusalCode) (s : State) : (refuseRecord e charge size code s).kept = s.kept := by
  unfold refuseRecord
  try dsimp only
  all_goals simp

@[simp] theorem discardDuplicate_kept (e : BatchEntry) (charge size source storedDay : Nat) (conflict : Bool) (s : State) : (discardDuplicate e charge size source storedDay conflict s).kept = s.kept := by
  unfold discardDuplicate
  try dsimp only
  repeat' split
  all_goals simp

@[simp] theorem createAccount_kept (source day : Nat) (s : State) : (createAccount source day s).kept = s.kept := by
  unfold createAccount
  try dsimp only
  repeat' split
  all_goals simp

@[simp] theorem countStored_kept (r : CallRecord) (s : State) : (countStored r s).kept = s.kept := by
  unfold countStored
  try dsimp only
  repeat' split
  all_goals simp

@[simp] theorem commitRecord_kept (r : CallRecord) (s : State) : (commitRecord r s).kept = s.kept := by
  unfold commitRecord
  try dsimp only
  repeat' split
  all_goals simp

@[simp] theorem storeRecord_kept (e : BatchEntry) (size : Nat) (r : CallRecord) (s : State) : (storeRecord e size r s).kept = s.kept := by
  unfold storeRecord
  try dsimp only
  repeat' split
  all_goals simp

@[simp] theorem findDuplicate_kept (e : BatchEntry) (size : Nat) (r : CallRecord) (m : MapEntry) (s : State) : (findDuplicate e size r m s).kept = s.kept := by
  unfold findDuplicate
  try dsimp only
  repeat' split
  all_goals simp

@[simp] theorem decideFromDay_kept (e : BatchEntry) (size : Nat) (r : CallRecord) (s : State) : (decideFromDay e size r s).kept = s.kept := by
  unfold decideFromDay
  try dsimp only
  repeat' split
  all_goals simp

@[simp] theorem decideRecord_kept (e : BatchEntry) (f : OpenFile) (size : Nat) (d : Delivered) (s : State) : (decideRecord e f size d s).kept = s.kept := by
  unfold decideRecord
  try dsimp only
  repeat' split
  all_goals simp

@[simp] theorem truncateBatch_kept (e : BatchEntry) (s : State) : (truncateBatch e s).kept = s.kept := by
  simp [truncateBatch]

@[simp] theorem decideNext_kept (s : State) : (decideNext s).kept = s.kept := by
  unfold decideNext
  try dsimp only
  repeat' split
  all_goals simp

@[simp] theorem compareDone_kept (e : BatchEntry) (p : PendingDuplicate) (conflict : Bool) (s : State) : (compareDone e p conflict s).kept = s.kept := by
  unfold compareDone
  try dsimp only
  all_goals simp

@[simp] theorem compareByEntry_kept (e : BatchEntry) (p : PendingDuplicate) (s : State) : (compareByEntry e p s).kept = s.kept := by
  unfold compareByEntry
  try dsimp only
  repeat' split
  all_goals simp

@[simp] theorem ingestPinned_kept (s : State) : (ingestPinned s).kept = s.kept := by
  unfold ingestPinned
  try dsimp only
  repeat' split
  all_goals simp

@[simp] theorem ingestDecoded_kept (rs : Option (List CallRecord)) (s : State) : (ingestDecoded rs s).kept = s.kept := by
  unfold ingestDecoded
  try dsimp only
  repeat' split
  all_goals simp

@[simp] theorem ingestReleased_kept (s : State) : (ingestReleased s).kept = s.kept := by
  unfold ingestReleased
  try dsimp only
  repeat' split
  all_goals simp

@[simp] theorem takeEntry_kept (e : BatchEntry) (s : State) : (takeEntry e s).kept = s.kept := by
  unfold takeEntry
  try dsimp only
  repeat' split
  all_goals simp

theorem drainEnds_kept {s t : State} (h : drainEnds s = some t) : t.kept = s.kept := by
  unfold drainEnds at h
  split at h
  · split at h
    · simp only [Option.some.injEq] at h
      subst h
      simp
    · simp at h
  · simp at h

theorem pressureTurn_kept {s t : State} (h : pressureTurn s = some t) : t.kept = s.kept := by
  unfold pressureTurn at h
  split at h
  · simp only [Option.some.injEq] at h
    subst h
    simp
  · simp at h

theorem beginDrain_kept {s t : State} (h : beginDrain s = some t) : t.kept = s.kept := by
  unfold beginDrain at h
  split at h
  · simp only [Option.some.injEq] at h
    subst h
    simp
  · simp at h

@[simp] theorem serveReadAccount_kept (tag epoch source day : Nat) (s : State) : (serveReadAccount tag epoch source day s).kept = s.kept := by
  unfold serveReadAccount
  try dsimp only
  repeat' split
  all_goals simp

@[simp] theorem serveReadCounters_kept (tag epoch bank : Nat) (s : State) : (serveReadCounters tag epoch bank s).kept = s.kept := by
  unfold serveReadCounters
  try dsimp only
  repeat' split
  all_goals simp

@[simp] theorem serveClearCounters_kept (tag epoch : Nat) (s : State) : (serveClearCounters tag epoch s).kept = s.kept := by
  unfold serveClearCounters
  try dsimp only
  all_goals simp

@[simp] theorem updSlot_kept (n : Nat) (f : ScanSlot → ScanSlot) (s : State) : (updSlot n f s).kept = s.kept := by
  unfold updSlot
  try dsimp only
  all_goals simp

@[simp] theorem finishSlot_kept (n : Nat) (q : ScanSlot) (status : Nat) (payload : Bytes) (s : State) : (finishSlot n q status payload s).kept = s.kept := by
  unfold finishSlot
  try dsimp only
  all_goals simp

@[simp] theorem scanNext_kept (n : Nat) (q : ScanSlot) (work : ScanWork) (first : Nat) (s : State) : (scanNext n q work first s).kept = s.kept := by
  unfold scanNext
  try dsimp only
  repeat' split
  all_goals simp

@[simp] theorem takeSlot_kept (tag epoch first : Nat) (work : ScanWork) (s : State) : (takeSlot tag epoch first work s).kept = s.kept := by
  unfold takeSlot
  try dsimp only
  all_goals simp

@[simp] theorem serveAuditScan_kept (tag epoch : Nat) (f : ScanFilter) (s : State) : (serveAuditScan tag epoch f s).kept = s.kept := by
  unfold serveAuditScan
  try dsimp only
  repeat' split
  all_goals simp

@[simp] theorem serveVerifyDays_kept (tag epoch first last : Nat) (s : State) : (serveVerifyDays tag epoch first last s).kept = s.kept := by
  unfold serveVerifyDays
  try dsimp only
  repeat' split
  all_goals simp

@[simp] theorem scanGoOn_kept (n : Nat) (q : ScanSlot) (work : ScanWork) (toRead : List Nat) (s : State) : (scanGoOn n q work toRead s).kept = s.kept := by
  unfold scanGoOn
  try dsimp only
  repeat' split
  all_goals simp

@[simp] theorem scanPinned_kept (n : Nat) (s : State) : (scanPinned n s).kept = s.kept := by
  unfold scanPinned
  try dsimp only
  repeat' split
  all_goals simp

@[simp] theorem scanDecoded_kept (n : Nat) (rs : Option (List CallRecord)) (s : State) : (scanDecoded n rs s).kept = s.kept := by
  unfold scanDecoded
  try dsimp only
  repeat' split
  all_goals simp

@[simp] theorem verifyChecked_kept (n : Nat) (outcome : CheckOutcome) (s : State) : (verifyChecked n outcome s).kept = s.kept := by
  unfold verifyChecked
  try dsimp only
  repeat' split
  all_goals simp

@[simp] theorem scanReleased_kept (n : Nat) (s : State) : (scanReleased n s).kept = s.kept := by
  unfold scanReleased
  try dsimp only
  repeat' split
  all_goals simp

@[simp] theorem cancelSlot_kept (n : Nat) (q : ScanSlot) (s : State) : (cancelSlot n q s).kept = s.kept := by
  unfold cancelSlot
  try dsimp only
  repeat' split
  all_goals simp

@[simp] theorem serveCancel_kept (tag epoch target : Nat) (s : State) : (serveCancel tag epoch target s).kept = s.kept := by
  unfold serveCancel
  try dsimp only
  repeat' split
  all_goals simp

@[simp] theorem setCursor_kept (day place : Nat) (s : State) : (setCursor day place s).kept = s.kept := by
  unfold setCursor
  try dsimp only
  all_goals simp

@[simp] theorem endPatrol_kept (s : State) : (endPatrol s).kept = s.kept := by
  unfold endPatrol
  try dsimp only
  all_goals simp

@[simp] theorem patrolAsks_kept (p : PatrolStep) (d : Nat) (s : State) : (patrolAsks p d s).kept = s.kept := by
  unfold patrolAsks
  try dsimp only
  all_goals simp

@[simp] theorem patrolFound_kept (p : PatrolStep) (d : Nat) (s : State) : (patrolFound p d s).kept = s.kept := by
  unfold patrolFound
  try dsimp only
  repeat' split
  all_goals simp

@[simp] theorem patrolSearch_kept (p : PatrolStep) (s : State) : (patrolSearch p s).kept = s.kept := by
  unfold patrolSearch
  try dsimp only
  repeat' split
  all_goals simp

@[simp] theorem beginPatrol_kept (s : State) : (beginPatrol s).kept = s.kept := by
  unfold beginPatrol
  try dsimp only
  all_goals simp

@[simp] theorem comparePatrolTimer_kept (s : State) : (comparePatrolTimer s).kept = s.kept := by
  unfold comparePatrolTimer
  try dsimp only
  repeat' split
  all_goals simp

@[simp] theorem advancePatrolTimer_kept (s : State) : (advancePatrolTimer s).kept = s.kept := by
  unfold advancePatrolTimer
  try dsimp only
  repeat' split
  all_goals simp

@[simp] theorem patrolPast_kept (p : PatrolStep) (s : State) : (patrolPast p s).kept = s.kept := by
  unfold patrolPast
  try dsimp only
  all_goals simp

@[simp] theorem patrolPinned_kept (s : State) : (patrolPinned s).kept = s.kept := by
  unfold patrolPinned
  try dsimp only
  repeat' split
  all_goals simp

@[simp] theorem patrolChecked_kept (s : State) : (patrolChecked s).kept = s.kept := by
  unfold patrolChecked
  try dsimp only
  repeat' split
  all_goals simp

@[simp] theorem patrolReleased_kept (s : State) : (patrolReleased s).kept = s.kept := by
  unfold patrolReleased
  try dsimp only
  repeat' split
  all_goals simp

@[simp] theorem setJob_kept (j : Option Job) (s : State) : (setJob j s).kept = s.kept := by
  unfold setJob
  try dsimp only
  all_goals simp

@[simp] theorem jobAsks_kept (j : Job) (s : State) : (jobAsks j s).kept = s.kept := by
  unfold jobAsks
  try dsimp only
  all_goals simp

@[simp] theorem packSnapshot_kept (day : Nat) (s : State) : (packSnapshot day s).kept = s.kept := by
  unfold packSnapshot
  try dsimp only
  all_goals simp

@[simp] theorem sortDone_kept (s : State) : (sortDone s).kept = s.kept := by
  unfold sortDone
  try dsimp only
  repeat' split
  all_goals simp

@[simp] theorem emptyRepack_kept (day : Nat) (s : State) : (emptyRepack day s).kept = s.kept := by
  unfold emptyRepack
  try dsimp only
  all_goals simp

@[simp] theorem decodingDone_kept (j : Job) (s : State) : (decodingDone j s).kept = s.kept := by
  unfold decodingDone
  try dsimp only
  repeat' split
  all_goals simp

@[simp] theorem decodingGoesOn_kept (j : Job) (s : State) : (decodingGoesOn j s).kept = s.kept := by
  unfold decodingGoesOn
  try dsimp only
  repeat' split
  all_goals simp

@[simp] theorem repackSnapshot_kept (day : Nat) (s : State) : (repackSnapshot day s).kept = s.kept := by
  unfold repackSnapshot
  try dsimp only
  repeat' split
  all_goals simp

@[simp] theorem decodeTaken_kept (n : Nat) (rs : Option (List CallRecord)) (s : State) : (decodeTaken n rs s).kept = s.kept := by
  unfold decodeTaken
  try dsimp only
  repeat' split
  all_goals simp

@[simp] theorem unwindJob_kept (j : Job) (s : State) : (unwindJob j s).kept = s.kept := by
  simp only [unwindJob, setJob_kept, updPart_kept]
  rw [foldl_kept _ (fun s n => releaseSlot_kept n s)]
  simp

@[simp] theorem jobFails_kept (j : Job) (noEntry : Bool) (s : State) : (jobFails j noEntry s).kept = s.kept := by
  unfold jobFails
  try dsimp only
  repeat' split
  all_goals simp

@[simp] theorem encodeQuantum_kept (j : Job) (s : State) : (encodeQuantum j s).1.kept = s.kept := by
  unfold encodeQuantum
  split <;> simp

@[simp] theorem writeDone_kept (j : Job) (n : Nat) (s : State) : (writeDone j n s).kept = s.kept := by
  unfold writeDone
  try dsimp only
  repeat' split
  all_goals simp

@[simp] theorem writeCompleted_kept (fault : Bool) (s : State) : (writeCompleted fault s).kept = s.kept := by
  unfold writeCompleted
  try dsimp only
  repeat' split
  all_goals simp

@[simp] theorem switchMember_kept (n : Nat) (acc : State × Nat) (m : Member × Nat) : (switchMember n acc m).1.kept = acc.1.kept := by
  obtain ⟨⟨ref, loc, copy⟩, o⟩ := m
  cases loc <;> simp only [switchMember] <;> repeat' split
  all_goals simp

@[simp] theorem switchSegment_kept (day : Nat) (s : State) (w : Nat × List Member) : (switchSegment day s w).kept = s.kept := by
  have h : ∀ (l : List (Member × Nat)) (acc : State × Nat), (l.foldl (switchMember w.1) acc).1.kept = acc.1.kept := by
    intro l
    induction l with
    | nil => intro acc; rfl
    | cons a l ih => intro acc; rw [List.foldl_cons, ih, switchMember_kept]
  simp only [switchSegment]
  split
  · simp [h]
  · simp [h]

@[simp] theorem switchOver_kept (s : State) : (switchOver s).kept = s.kept := by
  unfold switchOver
  split
  · rfl
  · simp only [setJob_kept, releaseMover_kept, updPart_kept]
    exact foldl_kept _ (fun s w => switchSegment_kept _ s w) _ _

@[simp] theorem setSweep_kept (w : Option Sweep) (s : State) : (setSweep w s).kept = s.kept := by
  unfold setSweep
  try dsimp only
  all_goals simp

theorem startSweep_kept {s t : State} (h : startSweep s = some t) : t.kept = s.kept := by
  unfold startSweep at h
  split at h
  · simp only [Option.some.injEq] at h
    subst h
    simp
  · simp at h

@[simp] theorem sweepAdmitted_kept (s : State) : (sweepAdmitted s).kept = s.kept := by
  unfold sweepAdmitted
  try dsimp only
  repeat' split
  all_goals simp

@[simp] theorem withdrawSweep_kept (day : Nat) (s : State) : (withdrawSweep day s).kept = s.kept := by
  unfold withdrawSweep
  try dsimp only
  repeat' split
  all_goals simp

@[simp] theorem sweepGranted_kept (s : State) : (sweepGranted s).kept = s.kept := by
  unfold sweepGranted
  try dsimp only
  all_goals simp

@[simp] theorem waiterReleased_kept (s : State) (w : Waiter) : (waiterReleased s w).kept = s.kept := by
  unfold waiterReleased
  try dsimp only
  repeat' split
  all_goals simp

@[simp] theorem freePartition_kept (day : Nat) (s : State) : (freePartition day s).kept = s.kept := by
  simp only [freePartition]
  rw [foldl_kept _ (fun s w => waiterReleased_kept s w)]
  simp only [kept_mapPc, kept_mapAu, and_self]
  rw [kept_mapRu _ _ rfl]
  simp

@[simp] theorem leaveStore_kept (day : Nat) (loc : Location) (s : State) : (leaveStore day loc s).kept = s.kept := by
  unfold leaveStore
  try dsimp only
  repeat' split
  all_goals simp

@[simp] theorem retireRecord_kept (ref : Nat) (e : MapEntry) (s : State) : (retireRecord ref e s).kept = s.kept := by
  unfold retireRecord
  try dsimp only
  all_goals simp

@[simp] theorem decideEntry_kept (ref : Nat) (e : MapEntry) (s : State) : (decideEntry ref e s).kept = s.kept := by
  unfold decideEntry
  try dsimp only
  repeat' split
  all_goals simp

@[simp] theorem sweepQuantumEnds_kept (day : Nat) (s : State) : (sweepQuantumEnds day s).kept = s.kept := by
  unfold sweepQuantumEnds
  try dsimp only
  all_goals simp

@[simp] theorem restartOrLeave_kept (day : Nat) (s : State) : (restartOrLeave day s).kept = s.kept := by
  unfold restartOrLeave
  try dsimp only
  repeat' split
  all_goals simp

@[simp] theorem endWalk_kept (day : Nat) (s : State) : (endWalk day s).kept = s.kept := by
  unfold endWalk
  try dsimp only
  repeat' split
  all_goals simp

@[simp] theorem walkOn_kept (day ref : Nat) (s : State) : (walkOn day ref s).kept = s.kept := by
  unfold walkOn
  try dsimp only
  all_goals simp

@[simp] theorem afterDecision_kept (day : Nat) (s : State) : (afterDecision day s).kept = s.kept := by
  unfold afterDecision
  try dsimp only
  repeat' split
  all_goals simp

@[simp] theorem sweepDecision_kept (s : State) : (sweepDecision s).kept = s.kept := by
  unfold sweepDecision
  try dsimp only
  repeat' split
  all_goals simp

@[simp] theorem engineBusy_kept (k : JobKind) (who : Requester) (quantum : Quantum) (seg : Nat) (s : State) : (engineBusy k who quantum seg s).kept = s.kept := by
  unfold engineBusy
  try dsimp only
  all_goals simp

@[simp] theorem grantQuery_kept (who : Requester) (s : State) : (grantQuery who s).kept = s.kept := by
  unfold grantQuery
  try dsimp only
  repeat' split
  all_goals simp

@[simp] theorem slotRuns_kept (n : Nat) (s : State) : (slotRuns n s).kept = s.kept := by
  unfold slotRuns
  try dsimp only
  all_goals simp

@[simp] theorem grantScan_kept (who : Requester) (s : State) : (grantScan who s).kept = s.kept := by
  unfold grantScan
  try dsimp only
  repeat' split
  all_goals simp

@[simp] theorem grantVerify_kept (who : Requester) (s : State) : (grantVerify who s).kept = s.kept := by
  unfold grantVerify
  try dsimp only
  repeat' split
  all_goals simp

@[simp] theorem grantPatrol_kept (s : State) : (grantPatrol s).kept = s.kept := by
  unfold grantPatrol
  try dsimp only
  repeat' split
  all_goals simp

@[simp] theorem grantRunningJob_kept (j : Job) (s : State) : (grantRunningJob j s).kept = s.kept := by
  unfold grantRunningJob
  split
  · have h := encodeQuantum_kept j s
    split <;> rename_i heq <;> rw [heq] at h <;> simpa using h
  · dsimp only
    split <;> simp
  · rfl

@[simp] theorem grantFirstPack_kept (s : State) : (grantFirstPack s).kept = s.kept := by
  unfold grantFirstPack
  try dsimp only
  repeat' split
  all_goals simp

@[simp] theorem grantFirstRepack_kept (s : State) : (grantFirstRepack s).kept = s.kept := by
  unfold grantFirstRepack
  try dsimp only
  repeat' split
  all_goals simp

@[simp] theorem grantKind_kept (k : JobKind) (who : Option Requester) (s : State) : (grantKind k who s).kept = s.kept := by
  unfold grantKind
  try dsimp only
  repeat' split
  all_goals simp

@[simp] theorem decodeOwner_kept (g : Grant) (rs : Option (List CallRecord)) (s : State) : (decodeOwner g rs s).kept = s.kept := by
  unfold decodeOwner
  try dsimp only
  repeat' split
  all_goals simp

@[simp] theorem checkOwner_kept (g : Grant) (passed : Bool) (s : State) : (checkOwner g passed s).kept = s.kept := by
  unfold checkOwner
  try dsimp only
  repeat' split
  all_goals simp

@[simp] theorem sortCompleted_kept (s : State) : (sortCompleted s).kept = s.kept := by
  unfold sortCompleted
  try dsimp only
  repeat' split
  all_goals simp

@[simp] theorem writeEnded_kept (fault : Bool) (s : State) : (writeEnded fault s).kept = s.kept := by
  unfold writeEnded
  try dsimp only
  repeat' split
  all_goals simp

@[simp] theorem sweepEvent_kept (s : State) : (sweepEvent s).kept = s.kept := by
  unfold sweepEvent
  try dsimp only
  repeat' split
  all_goals simp

theorem grantEngine_kept {s t : State} (h : grantEngine s = some t) : t.kept = s.kept := by
  unfold grantEngine at h
  split at h
  · simp only [Option.some.injEq] at h
    subst h
    simp
  · simp at h

@[simp] theorem endPhase_kept (s : State) : (endPhase s).kept = s.kept := by
  unfold endPhase
  try dsimp only
  repeat' split
  all_goals simp

@[simp] theorem comparePhase_kept (s : State) : (comparePhase s).kept = s.kept := by
  unfold comparePhase
  try dsimp only
  repeat' split
  all_goals simp

@[simp] theorem tickPhase_kept (s : State) : (tickPhase s).kept = s.kept := by
  unfold tickPhase
  try dsimp only
  all_goals simp

@[simp] theorem putSettings_kept (values : List Nat) (s : State) : (putSettings values s).kept = s.kept := by
  unfold putSettings
  try dsimp only
  all_goals simp

@[simp] theorem namedRetention_kept (els : List (Nat × Nat)) (c : CallClass) (s : State) : (namedRetention els c s).kept = s.kept := by
  unfold namedRetention
  try dsimp only
  repeat' split
  all_goals simp

@[simp] theorem settingEffects_kept (old : Settings) (s : State) : (settingEffects old s).kept = s.kept := by
  have oc : ∀ (f : Settings → Nat) (g : State → State) (s : State), (∀ s, (g s).kept = s.kept) →
      (onChange old f g s).kept = s.kept := by
    intro f g s h
    unfold onChange
    split
    · rfl
    · exact h s
  simp only [settingEffects, moveOnward_kept, evalPressure_kept]
  rw [oc _ _ _ comparePatrolTimer_kept, oc _ _ _ comparePhase_kept, oc _ _ _ comparePhase_kept, oc _ _ _ compareIdleTimers_kept,
    oc _ _ _ compareQuietTimers_kept, oc _ _ _ closeDays_kept]

@[simp] theorem serveSetConfig_kept (tag epoch : Nat) (els : List (Nat × Nat)) (s : State) : (serveSetConfig tag epoch els s).kept = s.kept := by
  simp only [serveSetConfig]
  split
  · simp
  · rw [respond_kept, settingEffects_kept, foldl_kept _ (fun s c => namedRetention_kept els c s)]
    simp

@[simp] theorem serveSaveConfig_kept (tag epoch : Nat) (s : State) : (serveSaveConfig tag epoch s).kept = s.kept := by
  unfold serveSaveConfig
  try dsimp only
  all_goals simp

@[simp] theorem endSave_kept (v : Saving) (status : Nat) (s : State) : (endSave v status s).kept = s.kept := by
  unfold endSave
  try dsimp only
  all_goals simp

@[simp] theorem serveReset_kept (tag epoch : Nat) (s : State) : (serveReset tag epoch s).kept = s.kept := by
  unfold serveReset
  try dsimp only
  repeat' split
  all_goals simp

@[simp] theorem waiterProceeds_kept (w : Waiter) (s : State) : (waiterProceeds w s).kept = s.kept := by
  unfold waiterProceeds
  try dsimp only
  repeat' split
  all_goals simp

@[simp] theorem serveWaiting_kept (p : Params) (tag epoch : Nat) (s : State) : (serveWaiting p tag epoch s).kept = s.kept := by
  unfold serveWaiting
  try dsimp only
  repeat' split
  all_goals simp

@[simp] theorem takeRequest_kept (b : BufferedRequest) (s : State) : (takeRequest b s).kept = s.kept := by
  unfold takeRequest
  try dsimp only
  all_goals simp

@[simp] theorem rebuildQueues_kept (s : State) : (rebuildQueues s).kept = s.kept := by
  unfold rebuildQueues
  try dsimp only
  all_goals simp

@[simp] theorem clearIngest_kept (s : State) : (clearIngest s).kept = s.kept := by
  unfold clearIngest
  try dsimp only
  all_goals simp

@[simp] theorem abandonJob_kept (s : State) : (abandonJob s).kept = s.kept := by
  unfold abandonJob
  split <;> simp

@[simp] theorem restartIdle_kept (e : BatchEntry) (s : State) : (restartIdle e s).kept = s.kept := by
  unfold restartIdle
  try dsimp only
  repeat' split
  all_goals simp

@[simp] theorem enqueueBatch_kept (e : BatchEntry) (s : State) : (enqueueBatch e s).kept = s.kept := by
  unfold enqueueBatch
  try dsimp only
  all_goals simp

theorem serveWaiters_kept {s t : State} (h : serveWaiters s = some t) : t.kept = s.kept := by
  unfold serveWaiters at h
  split at h
  · simp only [Option.some.injEq] at h
    subst h
    simp
  · simp at h

theorem takeWaiting_kept {v : Server} {s t : State} (h : takeWaiting v s = some t) : t.kept = s.kept := by
  unfold takeWaiting at h
  split at h
  · split at h
    · simp only [Option.some.injEq] at h
      subst h
      simp
    · simp at h
  · simp at h

/-! ## What an event leads to -/

/-- One of the eight actions that an event can lead to takes the first state to the second. -/
inductive Acts (s t : State) : Prop where
  | waiter (h : serveWaiters s = some t)
  | query (h : takeWaiting .queryUnit s = some t)
  | loader (h : takeWaiting .loader s = some t)
  | sweep (h : startSweep s = some t)
  | pressure (h : pressureTurn s = some t)
  | drainEnd (h : drainEnds s = some t)
  | drain (h : beginDrain s = some t)
  | grant (h : grantEngine s = some t)

theorem orElse_eq_some {α : Type} {a : Option α} {b : Unit → Option α} {x : α} (h : a.orElse b = some x) :
    a = some x ∨ b () = some x := by
  cases a with
  | none => exact .inr h
  | some y => exact .inl h

theorem turn_eq_some {v v' : Turn} {a : Option State} {t : State} (h : (a.map fun t => (v, t)) = some (v', t)) : a = some t := by
  cases a with
  | none => simp at h
  | some x => simp at h; exact congrArg some h.2

/-- An internal action is one of the eight. -/
theorem internal_acts {u v : Turn} {s t : State} (h : internal u s = some (v, t)) : Acts s t := by
  have grant (h : grantTurn u s = some (v, t)) : Acts s t := .grant (turn_eq_some h)
  have block (h : blockTurn u s = some (v, t)) : Acts s t := by
    rcases orElse_eq_some h with h | h
    · exact .waiter (turn_eq_some h)
    rcases orElse_eq_some h with h | h
    · split at h
      · exact .query (turn_eq_some h)
      · simp at h
    rcases orElse_eq_some h with h | h
    · split at h
      · exact .loader (turn_eq_some h)
      · simp at h
    rcases orElse_eq_some h with h | h
    · exact .sweep (turn_eq_some h)
    rcases orElse_eq_some h with h | h
    · exact .pressure (turn_eq_some h)
    rcases orElse_eq_some h with h | h
    · exact .drainEnd (turn_eq_some h)
    · exact .drain (turn_eq_some h)
  unfold internal at h
  split at h
  · exact (orElse_eq_some h).elim block grant
  · exact (orElse_eq_some h).elim grant block

/-- What each of the eight actions keeps, settling keeps: the one induction over what an event leads to. -/
theorem settleFrom_induction {P : State → Prop} (h : ∀ s t, Acts s t → P s → P t) (u : Turn) (s : State) (hs : P s) :
    P (settleFrom u s) := by
  have within : ∀ n u s, P s → P (settleWithin n u s) := by
    intro n
    induction n with
    | zero => exact fun _ _ hs => hs
    | succ n ih =>
      intro u s hs
      unfold settleWithin
      split
      · rename_i v t e
        exact ih v t (h s t (internal_acts e) hs)
      · exact hs
  unfold settleFrom
  split
  · exact within _ _ _ hs
  · exact hs

/-- Each of the eight actions keeps them. -/
theorem acts_kept {s t : State} (h : Acts s t) : t.kept = s.kept := by
  cases h with
  | waiter h => exact serveWaiters_kept h
  | query h => exact takeWaiting_kept h
  | loader h => exact takeWaiting_kept h
  | sweep h => exact startSweep_kept h
  | pressure h => exact pressureTurn_kept h
  | drainEnd h => exact drainEnds_kept h
  | drain h => exact beginDrain_kept h
  | grant h => exact grantEngine_kept h

theorem settleFrom_kept (u : Turn) (s : State) : (settleFrom u s).kept = s.kept :=
  settleFrom_induction (P := fun t => t.kept = s.kept) (fun _ _ h hs => (acts_kept h).trans hs) u s rfl

/-- Settling keeps them. -/
@[simp] theorem settle_kept (s : State) : (settle s).kept = s.kept := settleFrom_kept _ s

/-- Settling after a completion keeps them. -/
@[simp] theorem settleCompletion_kept (s : State) : (settleCompletion s).kept = s.kept := settleFrom_kept _ s

end Sys2Proof.Machine
end

