-- ==== Sys2Proof/Laws/Settle.lean ====
section
/-! SUPPORT. When settling has nothing to do: what each internal action needs, and that a change of other parts of the state leaves a
settled state settled. -/

namespace Sys2Proof.Machine

variable {s t : State}

theorem orElse_eq_none {α : Type} {a : Option α} {b : Unit → Option α} : a.orElse b = none ↔ a = none ∧ b () = none := by
  cases a <;> simp [Option.orElse]

/-- A state is settled when each of the eight actions has nothing to do. -/
theorem settled_iff : Settled s ↔ serveWaiters s = none ∧ takeWaiting .queryUnit s = none ∧ takeWaiting .loader s = none ∧
    startSweep s = none ∧ pressureTurn s = none ∧ drainEnds s = none ∧ beginDrain s = none ∧ grantEngine s = none := by
  have h (v : Turn) (a : Option State) : a.map (fun t => (v, t)) = none ↔ a = none := Option.map_eq_none_iff
  simp only [Settled, internal, blockTurn, grantTurn, Turn.placing, Bool.false_eq_true, if_false, if_true, orElse_eq_none, h]
  tauto

theorem findSome_map_none {α β : Type} (l : List (Nat × α)) (f : α → Option β) :
    (l.findSome? fun e => (f e.2).map fun w => (e.1, w)) = none ↔ ∀ e ∈ l, f e.2 = none := by
  simp

/-- No head of a wait queue can proceed (R52). -/
theorem serveWaiters_none : serveWaiters s = none ↔ ∀ e ∈ s.pc.parts, e.2.servable = none := by
  rw [← findSome_map_none]
  unfold serveWaiters
  split
  · rename_i h
    rw [h]
    simp
  · rename_i h
    rw [h]
    simp

/-- The pressure state agrees with the free slot count (R170). -/
theorem pressureTurn_none : pressureTurn s = none ↔ s.pressureDue = false := by
  unfold pressureTurn
  cases s.pressureDue <;> simp

/-- No drain in progress has come to the end of its batch (R62). -/
theorem drainEnds_none : drainEnds s = none ↔ ∀ d e l, s.ie.drain = some d → s.ie.queue = e :: l → d.dup = none → d.offset < e.payload.length := by
  unfold drainEnds
  cases hd : s.ie.drain with
  | none => simp
  | some d =>
    cases hq : s.ie.queue with
    | nil => simp
    | cons e l => simp

/-- IE has no entry to take (R62). -/
theorem beginDrain_none : beginDrain s = none ↔ s.ie.drain ≠ none ∨ s.ie.queue = [] := by
  unfold beginDrain
  split <;> simp_all
  rename_i h
  cases hd : s.ie.drain with
  | some d => simp
  | none =>
    cases hq : s.ie.queue with
    | nil => simp
    | cons e l => exact absurd hq (h e l hd)

/-- A serving block takes no request: it is not ready or none waits for it (R31). -/
theorem takeWaiting_none (v : Server) : takeWaiting v s = none ↔ s.ready v = false ∨ s.waits v = false := by
  unfold takeWaiting
  cases hr : s.ready v
  · simp
  · simp only [Bool.true_eq_false, false_or, if_true, State.waits]
    cases hb : s.lp.buffer.find? fun b => b.kind.server == v with
    | none => simpa [List.find?_eq_none] using hb
    | some b =>
      have h1 := List.mem_of_find?_eq_some hb
      have h2 := List.find?_some hb
      simp only [reduceCtorEq, false_iff, Bool.not_eq_false, List.any_eq_true]
      exact ⟨b, h1, h2⟩

/-- RU starts no sweep: one is in flight, or no queued day is eligible (R137). -/
theorem startSweep_none : startSweep s = none ↔ s.ru.sweep ≠ none ∨ Tab.first s.ru.queue (fun d _ => s.sweepEligible d) = none := by
  unfold startSweep
  split <;> simp_all
  rename_i h
  cases hs : s.ru.sweep with
  | some w => simp
  | none =>
    cases hq : Tab.first s.ru.queue (fun d _ => s.sweepEligible d) with
    | none => simp
    | some e => exact absurd hq (h e.1 e.2 hs)

/-- WA grants nothing: the engine is BUSY, or no request is grantable (R167). -/
theorem grantEngine_none : grantEngine s = none ↔ s.wa.engine ≠ none ∨ s.decision = none := by
  unfold grantEngine
  split <;> simp_all
  rename_i h
  cases hs : s.wa.engine with
  | some w => simp
  | none =>
    cases hq : s.decision with
    | none => simp
    | some e => exact absurd hq (h e.1 e.2 hs)

/-- In a settled state nothing is left to do, whatever is still open in the event. -/
theorem internal_of_settled (h : Settled s) (u : Turn) : internal u s = none := by
  obtain ⟨h1, h2, h3, h4, h5, h6, h7, h8⟩ := settled_iff.1 h
  unfold internal blockTurn grantTurn
  split <;> simp [h1, h2, h3, h4, h5, h6, h7, h8, Option.orElse]

theorem settleFrom_of_settled (h : Settled s) (u : Turn) : settleFrom u s = s := by
  unfold settleFrom
  split
  · show settleWithin (4294967295 + 1) u s = s
    unfold settleWithin
    rw [internal_of_settled h u]
  · rfl

/-- Settling a settled state changes nothing. -/
theorem settle_of_settled (h : Settled s) : settle s = s := settleFrom_of_settled h _

theorem settleCompletion_of_settled (h : Settled s) : settleCompletion s = s := settleFrom_of_settled h _

/-- Outside the times at which the blocks take events nothing follows (R179, R180). -/
theorem settle_of_inactive (h : s.active = false) : settle s = s := by
  unfold settle settleFrom
  rw [h]
  rfl

/-- One action, after which the state is settled. -/
theorem settleFrom_one {u v : Turn} (ha : s.active = true) (hi : internal u s = some (v, t)) (ht : Settled t) : settleFrom u s = t := by
  unfold settleFrom
  rw [if_pos ha]
  show settleWithin (4294967294 + 1 + 1) u s = t
  unfold settleWithin
  rw [hi]
  show settleWithin (4294967294 + 1) v t = t
  unfold settleWithin
  rw [internal_of_settled ht v]

/-- Two actions, after which the state is settled. -/
theorem settleFrom_two {u v w : Turn} {x : State} (ha : s.active = true) (hi : internal u s = some (v, x))
    (hu : internal v x = some (w, t)) (ht : Settled t) : settleFrom u s = t := by
  unfold settleFrom
  rw [if_pos ha]
  show settleWithin (4294967293 + 1 + 1 + 1) u s = t
  unfold settleWithin
  rw [hi]
  show settleWithin (4294967293 + 1 + 1) v x = t
  unfold settleWithin
  rw [hu]
  show settleWithin (4294967293 + 1) w t = t
  unfold settleWithin
  rw [internal_of_settled ht w]

/-- With nothing else to do, an entry at the head of the Batch Queue with no drain in progress is taken (R62). -/
theorem internal_takes {u : Turn} {e : BatchEntry} {l : List BatchEntry} (hg : grantEngine s = none) (hw : serveWaiters s = none)
    (hv : takeWaiting .queryUnit s = none) (hc : takeWaiting .loader s = none) (hs : startSweep s = none) (hp : pressureTurn s = none)
    (hd : s.ie.drain = none) (hq : s.ie.queue = e :: l) : internal u s = some (u, takeEntry e s) := by
  have he : drainEnds s = none := drainEnds_none.2 (by simp [hd])
  unfold internal
  split <;> simp [grantTurn, blockTurn, hg, hw, hv, hc, hs, hp, he, beginDrain, hd, hq, Option.orElse]

/-- With nothing to grant, a wait queue whose head can proceed is served first (R52). -/
theorem internal_serves {u : Turn} (hg : grantEngine s = none) (h : serveWaiters s = some t) : internal u s = some (u, t) := by
  unfold internal
  split <;> simp [grantTurn, blockTurn, hg, h, Option.orElse]

/-- What the eight actions look at: two states that agree there are settled together. -/
theorem Settled.congr (h : Settled s) (h1 : t.pc = s.pc) (h2 : t.ie.drain = s.ie.drain) (h3 : t.ie.queue = s.ie.queue)
    (h4 : t.qa.contexts = s.qa.contexts) (h5 : t.lp.buffer = s.lp.buffer) (h6 : t.cl.saving = s.cl.saving)
    (h7 : t.ru.queue = s.ru.queue) (h8 : t.ru.sweep = s.ru.sweep) (h9 : t.wa = s.wa) (h10 : t.ce.job = s.ce.job)
    (h11 : t.cl.settings = s.cl.settings) (h12 : t.hs.slots.length = s.hs.slots.length) : Settled t := by
  rw [settled_iff, serveWaiters_none, takeWaiting_none, takeWaiting_none, startSweep_none, pressureTurn_none, drainEnds_none, beginDrain_none,
    grantEngine_none] at *
  have e1 : ∀ d, t.sweepEligible d = s.sweepEligible d := fun d => by simp [State.sweepEligible, State.part, h1]
  have e0 : t.grantableAt = s.grantableAt := by
    funext lvl k
    simp [State.grantableAt, State.hasRequest, State.admitsKind, State.level, h9, h10, h11]
  have e2 : t.decision = s.decision := by simp [State.decision, State.winner, e0, h9]
  simp only [h1, h2, h3, h7, h8, h9, h11, h12, e1, e2, State.pressureDue, State.freeSlots, State.ready, State.queryReady, State.loaderReady, State.waits, h4, h5, h6] at *
  exact h

/-- A change of the Link Port that leaves the input frame buffer alone leaves a settled state settled. -/
theorem Settled.mapLp (h : Settled s) {f : LinkPort → LinkPort} (hf : (f s.lp).buffer = s.lp.buffer) : Settled (s.mapLp f) :=
  h.congr rfl rfl rfl rfl hf rfl rfl rfl rfl rfl rfl rfl

end Sys2Proof.Machine
end

