-- ==== Sys2Proof/Laws/Arrival.lean ====
section
/-! SUPPORT. What the arrival of a request frame comes to, case by case (R19 to R22), and what stands in the state its serving block sees. -/

namespace Sys2Proof.Machine

variable {k : Kind} {r : Request} {p : Params} {pool : Pool} {s : State}

/-! ## The four outcomes of an arrival -/

theorem arrive_resetting (code : Nat) (cls : ReqClass) (g : Pool → State → State) (h : s.lp.link = .resetting) :
    arrive code cls r g s = s := by
  unfold arrive
  rw [h]

theorem arrive_illFormed (code : Nat) (cls : ReqClass) (g : Pool → State → State) (h : s.lp.link = .opened)
    (hf : frameWellFormed r = false) : arrive code cls r g s = notice Status.frameCheck [] s := by
  unfold arrive
  rw [h, hf]
  rfl

theorem arrive_noCredit (code : Nat) (cls : ReqClass) (g : Pool → State → State) (h : s.lp.link = .opened)
    (hf : frameWellFormed r = true) (hp : s.lp.poolFor cls (blockNeed code r.payload) = none) :
    arrive code cls r g s = notice Status.noCredit (noticePayload r.tag.toNat code) s := by
  unfold arrive
  rw [h]
  simp only [hf, hp, if_true]

theorem arrive_tagInUse (code : Nat) (cls : ReqClass) (g : Pool → State → State) (h : s.lp.link = .opened)
    (hf : frameWellFormed r = true) (hp : s.lp.poolFor cls (blockNeed code r.payload) = some pool)
    (ht : (Tab.get s.lp.tags r.tag.toNat).isSome = true) :
    arrive code cls r g s = creditsPending (pool.credits (blockNeed code r.payload))
      (notice Status.tagInUse (noticePayload r.tag.toNat code) (takeCredits (pool.credits (blockNeed code r.payload)) s)) := by
  obtain ⟨e, he⟩ := Option.isSome_iff_exists.1 ht
  unfold arrive
  rw [h]
  simp only [hf, hp, he, if_true]

theorem arrive_acceptedAs (code : Nat) (cls : ReqClass) (g : Pool → State → State) (h : s.lp.link = .opened)
    (hf : frameWellFormed r = true) (hp : s.lp.poolFor cls (blockNeed code r.payload) = some pool)
    (ht : Tab.get s.lp.tags r.tag.toNat = none) :
    arrive code cls r g s = g pool (acceptedAs code cls r pool s) := by
  unfold arrive acceptedAs
  rw [h]
  simp only [hf, hp, ht, if_true]

theorem arrive_accepted (g : Pool → State → State) (h : Accepted k r pool s) :
    arrive k.code k.cls r g s = g pool (acceptedState k r pool s) :=
  arrive_acceptedAs _ _ g h.opened h.wellFormed h.credit h.tagFree

/-! ## The state a serving block sees: only the Link Port has changed -/

/-- A state made from another by changing its Link Port alone. -/
theorem acceptedState_eq : ∃ l, acceptedState k r pool s = s.mapLp fun _ => l := ⟨_, rfl⟩

theorem takenState_eq : ∃ l, takenState k r pool s = s.mapLp fun _ => l := ⟨_, rfl⟩

@[simp] theorem acceptedAs_epoch (code : Nat) (cls : ReqClass) : (acceptedAs code cls r pool s).lp.epoch = s.lp.epoch := rfl
@[simp] theorem acceptedState_epoch : (acceptedState k r pool s).lp.epoch = s.lp.epoch := rfl
@[simp] theorem acceptedState_buffer : (acceptedState k r pool s).lp.buffer = s.lp.buffer := rfl
@[simp] theorem acceptedState_link : (acceptedState k r pool s).lp.link = s.lp.link := rfl
@[simp] theorem takenState_pending : (takenState k r pool s).pending = s.pending := rfl
@[simp] theorem takenState_power : (takenState k r pool s).power = s.power := rfl
@[simp] theorem takenState_ck : (takenState k r pool s).ck = s.ck := rfl
@[simp] theorem takenState_pc : (takenState k r pool s).pc = s.pc := rfl
@[simp] theorem takenState_ie : (takenState k r pool s).ie = s.ie := rfl
@[simp] theorem takenState_ix : (takenState k r pool s).ix = s.ix := rfl
@[simp] theorem takenState_qa : (takenState k r pool s).qa = s.qa := rfl
@[simp] theorem takenState_hs : (takenState k r pool s).hs = s.hs := rfl
@[simp] theorem takenState_ce : (takenState k r pool s).ce = s.ce := rfl
@[simp] theorem takenState_cs : (takenState k r pool s).cs = s.cs := rfl
@[simp] theorem takenState_ru : (takenState k r pool s).ru = s.ru := rfl
@[simp] theorem takenState_au : (takenState k r pool s).au = s.au := rfl
@[simp] theorem takenState_wa : (takenState k r pool s).wa = s.wa := rfl
@[simp] theorem takenState_cl : (takenState k r pool s).cl = s.cl := rfl
@[simp] theorem takenState_epoch : (takenState k r pool s).lp.epoch = s.lp.epoch := by
  simp [takenState, creditsPending]
@[simp] theorem takenState_buffer : (takenState k r pool s).lp.buffer = s.lp.buffer := by
  simp [takenState, creditsPending]
@[simp] theorem takenState_link : (takenState k r pool s).lp.link = s.lp.link := by
  simp [takenState, creditsPending]

theorem settled_taken (h : Settled s) : Settled (takenState k r pool s) :=
  ((h.mapLp rfl).mapLp rfl).mapLp (by simp)

theorem settled_accepted (h : Settled s) : Settled (acceptedState k r pool s) := (h.mapLp rfl).mapLp rfl

theorem settled_replied {status : Nat} {payload : Bytes} (h : Settled s) : Settled (replied k r pool status payload s) :=
  (settled_taken h).mapLp rfl

/-! ## Serving -/

/-- A good request served at its acceptance (R20, R31). -/
theorem served_requested (h : Requested k r p pool s) :
    served k r s = serveParams p r.tag.toNat s.lp.epoch (takenState k r pool s) := by
  unfold served
  rw [arrive_accepted _ h.toAccepted]
  simp only [h.params, acceptedState_epoch]
  rfl

/-- A good request of QA or CL whose block is ready and for which none waits is taken at its acceptance (R31). -/
theorem servedOrWaiting_ready (hr : s.ready k.server = true) (hw : s.waits k.server = false) : servedOrWaiting k r s = served k r s := by
  simp [servedOrWaiting, hr, hw]

/-- A good request of QA or CL whose block is not ready, or behind another, waits (R31). -/
theorem servedOrWaiting_waits (h : Requested k r p pool s) (hr : (s.ready k.server && !s.waits k.server) = false) :
    servedOrWaiting k r s = (acceptedState k r pool s).mapLp fun l =>
      { l with buffer := l.buffer ++ [{ kind := k, tag := r.tag.toNat, epoch := l.epoch, pool := pool, params := p }] } := by
  unfold servedOrWaiting
  rw [hr, arrive_accepted _ h.toAccepted]
  simp [h.params]

/-- A request that fails a check is answered by the Link Port (R20). -/
theorem served_malformed (h : Accepted k r pool s) (hc : checkedParams k r = none) :
    served k r s = replied k r pool Status.malformed [] s := by
  unfold served
  rw [arrive_accepted _ h]
  simp only [hc, answerMalformed, replied, answered]
  rw [respond_current]
  · rfl
  · simp [creditsPending]

/-- The response of a request taken at its acceptance (R23). -/
theorem respond_taken (status : Nat) (payload : Bytes) (t : State) (ht : t.lp.epoch = s.lp.epoch) :
    respond r.tag.toNat s.lp.epoch status payload t = answered r.tag.toNat status payload t := by
  rw [respond_current _ _ _ _ _ ht.symm]
  rfl

/-- A request taken and answered with no other effect. -/
theorem respond_replied (status : Nat) (payload : Bytes) :
    respond r.tag.toNat s.lp.epoch status payload (takenState k r pool s) = replied k r pool status payload s :=
  respond_taken status payload _ (by simp)

/-- An INGEST request joins the Batch Queue at its acceptance (R61). -/
theorem queued_accepted (h : Accepted k r pool s) : queued k r s =
    restartIdle (batchEntry k r s.lp.epoch) (enqueueBatch (batchEntry k r s.lp.epoch) (acceptedState k r pool s)) := by
  unfold queued
  rw [arrive_accepted _ h]
  rfl

end Sys2Proof.Machine
end

