-- ==== Sys2Proof/Laws/Coding.lean ====
section
/-! SUPPORT. What the reading of a body can give (R114), part by part: each reader answers exactly what the relations of Safety.lean say. -/

namespace Sys2Proof.Machine

open Wire

/-- R109, R114: what reads as a varint of at most `fuel` bytes. -/
theorem readVarint_iff (fuel : Nat) (bs rest : Bytes) (v : Nat) : readVarint fuel bs = some (v, rest) ↔
    ∃ p, bs = p ++ rest ∧ p ≠ [] ∧ p.length ≤ fuel ∧ (∀ i b, p[i]? = some b → (b.toNat < 128 ↔ i + 1 = p.length)) ∧
      v = p.foldr (fun b high => b.toNat % 128 + 128 * high) 0 := by
  induction fuel generalizing bs v with
  | zero => simp [readVarint]
  | succ n ih =>
    cases bs with
    | nil => simp [readVarint]
    | cons b bs =>
      rw [readVarint]
      have hb := b.isLt
      constructor
      · intro h
        split at h
        · rename_i hlt
          obtain ⟨rfl, rfl⟩ := by simpa using h
          refine ⟨[b], rfl, by simp, by simp, ?_, by simp; omega⟩
          intro i c hc
          cases i with
          | zero => simp at hc; subst hc; simpa using hlt
          | succ i => simp at hc
        · rename_i hge
          split at h
          · cases h
          · rename_i w rest' hw
            obtain ⟨rfl, rfl⟩ := by simpa using h
            obtain ⟨p, rfl, hp, hl, hi, rfl⟩ := (ih _ _).1 hw
            refine ⟨b :: p, rfl, by simp, by simpa using hl, ?_, by simp; omega⟩
            intro i c hc
            cases i with
            | zero =>
              simp at hc; subst hc
              have := List.length_pos_iff.2 hp
              simp only [List.length_cons]; constructor <;> intro h <;> omega
            | succ i => simpa using hi i c (by simpa using hc)
      · rintro ⟨p, hbs, hp, hl, hi, rfl⟩
        cases p with
        | nil => exact absurd rfl hp
        | cons c p =>
          obtain ⟨rfl, rfl⟩ := by simpa using hbs
          have h0 := hi 0 b rfl
          cases p with
          | nil =>
            have : b.toNat < 128 := h0.2 rfl
            simp [this]; omega
          | cons d p =>
            have : ¬ b.toNat < 128 := fun h => by have := h0.1 h; simp at this
            rw [if_neg this]
            rw [(ih (d :: p ++ rest) _).2 ⟨d :: p, rfl, by simp, by simpa using hl, fun i c hc => by simpa using hi (i + 1) c (by simpa using hc), rfl⟩]
            simp; omega

/-- R114: what reads as a varint of at most a bound. -/
theorem readBounded_iff (bound : Nat) (bs rest : Bytes) (v : Nat) : readBounded bound bs = some (v, rest) ↔
    ∃ p, bs = p ++ rest ∧ CodesNumber p v ∧ v ≤ bound := by
  have h := readVarint_iff 7 bs rest
  unfold readBounded CodesNumber
  constructor
  · intro hr
    split at hr
    · cases hr
    · rename_i w r hw
      split at hr
      · obtain ⟨rfl, rfl⟩ := by simpa using hr
        obtain ⟨p, h1, h2, h3, h4, h5⟩ := (readVarint_iff _ _ _ _).1 hw
        exact ⟨p, h1, ⟨h2, h3, h4, h5⟩, by assumption⟩
      · cases hr
  · rintro ⟨p, h1, ⟨h2, h3, h4, h5⟩, hb⟩
    rw [(h v).2 ⟨p, h1, h2, h3, h4, h5⟩]
    simp [hb]

/-- R110, R114: what reads as a fixed part. -/
theorem readFixed_iff (a : Bool) (n : Nat) (bs rest : Bytes) (v : Option Nat) : readFixed a n bs = some (v, rest) ↔
    ∃ p, bs = p ++ rest ∧ CodesFixed a n p v := by
  unfold readFixed CodesFixed
  cases a with
  | false => simp; exact ⟨fun ⟨a, b⟩ => ⟨b, a.symm⟩, fun ⟨a, b⟩ => ⟨b.symm, a⟩⟩
  | true =>
    simp only [if_true]
    constructor
    · intro h
      split at h
      · cases h
      · obtain ⟨rfl, rfl⟩ := by simpa using h
        refine ⟨bs.take n, by simp, by simp; omega, ?_⟩
        simp [field, List.take_take]
    · rintro ⟨p, rfl, hl, rfl⟩
      rw [if_neg (by simp; omega)]
      subst hl
      simp [field]

/-- A computation that may fail, taken apart. -/
theorem bind_some_iff {α β : Type} (o : Option α) (f : α → Option β) (b : β) : (o >>= f) = some b ↔ ∃ a, o = some a ∧ f a = some b := by
  cases o <;> simp [bind]

/-- R114: the key and start that a record reads as, where both lie within their fields. -/
theorem readKeyStart_iff (e : SegEntry) (prev : Option (Nat × Nat)) (same : Bool) (bs rest : Bytes) (key start : Nat) (hk : key < 281474976710656)
    (hs : start < 4294967296) :
    readKeyStart e prev same bs = some (key, start, rest) ↔ ∃ dk ds x, bs = dk ++ ds ++ rest ∧ CodesNumber ds x ∧
      match prev with
      | none => same = false ∧ CodesNumber dk 0 ∧ key = e.firstKey ∧ start = e.day * 86400 + x
      | some (k, t) => if same then dk = [] ∧ key = k ∧ start = t + x
          else k < key ∧ CodesNumber dk (key - k) ∧ start = e.day * 86400 + x := by
  cases prev with
  | none =>
    cases same with
    | true => simp [readKeyStart]
    | false =>
      simp only [readKeyStart, bind_some_iff, Prod.exists, readBounded_iff, Option.some.injEq, Prod.mk.injEq, dayBase, Config.secondsPerDay]
      constructor
      · rintro ⟨_, _, ⟨dk, rfl, hdk, h0⟩, x, _, ⟨ds, rfl, hds, hx⟩, rfl, rfl, rfl⟩
        obtain rfl := Nat.le_zero.1 h0
        exact ⟨dk, ds, x, by simp, hds, trivial, hdk, by simp, by omega⟩
      · rintro ⟨dk, ds, x, rfl, hds, -, hdk, rfl, rfl⟩
        exact ⟨0, _, ⟨dk, by rw [List.append_assoc], hdk, Nat.le_refl 0⟩, x, rest, ⟨ds, rfl, hds, by omega⟩, by simp, by omega, rfl⟩
  | some p =>
    obtain ⟨k, t⟩ := p
    cases same with
    | true =>
      simp only [readKeyStart, bind_some_iff, Prod.exists, readBounded_iff, Option.some.injEq, Prod.mk.injEq]
      constructor
      · rintro ⟨x, _, ⟨ds, rfl, hds, hx⟩, rfl, rfl, rfl⟩
        exact ⟨[], ds, x, rfl, hds, by simp⟩
      · rintro ⟨dk, ds, x, rfl, hds, h⟩
        obtain ⟨rfl, rfl, rfl⟩ := by simpa using h
        exact ⟨x, rest, ⟨ds, rfl, hds, by omega⟩, rfl, rfl, rfl⟩
    | false =>
      simp only [readKeyStart, bind_some_iff, Prod.exists, readBounded_iff, dayBase, Config.secondsPerDay]
      constructor
      · rintro ⟨d, _, ⟨dk, rfl, hdk, hd⟩, h⟩
        split at h
        · cases h
        · simp only [bind_some_iff, Prod.exists, readBounded_iff, Option.some.injEq, Prod.mk.injEq] at h
          obtain ⟨x, _, ⟨ds, rfl, hds, hx⟩, rfl, rfl, rfl⟩ := h
          refine ⟨dk, ds, x, by simp, hds, ?_⟩
          rw [if_neg (by simp)]
          exact ⟨by omega, by rw [Nat.add_sub_cancel_left]; exact hdk, by omega⟩
      · rintro ⟨dk, ds, x, rfl, hds, h⟩
        rw [if_neg (by simp)] at h
        obtain ⟨hlt, hdk, rfl⟩ := h
        refine ⟨key - k, _, ⟨dk, by rw [List.append_assoc], hdk, by omega⟩, ?_⟩
        rw [if_neg (by omega)]
        simp only [bind_some_iff, Prod.exists, readBounded_iff, Option.some.injEq, Prod.mk.injEq]
        exact ⟨x, rest, ⟨ds, rfl, hds, by omega⟩, by omega, by omega, rfl⟩

/-- The class of a code is the one whose code it is (R1). -/
theorem ofCode_eq_iff (k : CallClass) (n : Nat) : CallClass.ofCode n = k ↔ k.code = n % 4 := by
  have : n % 4 < 4 := Nat.mod_lt _ (by decide)
  unfold CallClass.ofCode
  rcases (by omega : n % 4 = 0 ∨ n % 4 = 1 ∨ n % 4 = 2 ∨ n % 4 = 3) with h | h | h | h <;> cases k <;> simp [h, CallClass.code]

/-- R110, R114: what reads as a volume. -/
theorem readVolume_iff (k : CallClass) (bs rest : Bytes) (v : Nat) : readVolume k bs = some (v, rest) ↔
    ∃ p, bs = p ++ rest ∧ (if k = .data then CodesNumber p v else p = [] ∧ v = 0) ∧ v < 4294967296 := by
  unfold readVolume
  split
  · rw [readBounded_iff]
    exact exists_congr fun p => by constructor <;> rintro ⟨h, g, l⟩ <;> exact ⟨h, g, by omega⟩
  · constructor
    · intro h
      obtain ⟨rfl, rfl⟩ := by simpa using h
      exact ⟨[], rfl, ⟨rfl, rfl⟩, by omega⟩
    · rintro ⟨p, rfl, ⟨rfl, rfl⟩, -⟩
      rfl

/-- R114: all that the reading of one record can give. -/
theorem readRecord_iff (e : SegEntry) (prev : Option (Nat × Nat)) (bs rest : Bytes) (r : CallRecord) :
    readRecord e prev bs = some (r, rest) ↔ ∃ bytes, bs = bytes ++ rest ∧ ReadsAs e prev bytes r := by
  cases bs with
  | nil => simp [readRecord, ReadsAs]
  | cons c bs =>
    simp only [readRecord, bind_some_iff, Prod.exists, readBounded_iff, readVolume_iff, readFixed_iff]
    constructor
    · rintro ⟨key, start, b1, h1, source, b2, ⟨p2, rfl, h2, l2⟩, sequence, b3, ⟨p3, rfl, h3, l3⟩, duration, b4, ⟨p4, rfl, h4, l4⟩,
        volume, b5, ⟨p5, rfl, h5, l5⟩, charge, b6, ⟨p6, rfl, h6, l6⟩, am, b7, ⟨p7, rfl, h7⟩, ce, b8, ⟨p8, rfl, h8⟩, pa, b9, ⟨p9, rfl, h9⟩, h⟩
      split at h
      · cases h
      · rename_i bad
        obtain ⟨rfl, rfl⟩ := by simpa using h
        simp only [not_or, Nat.not_lt, not_not] at bad
        obtain ⟨g1, g2, g3, g4, g5, g6⟩ := bad
        obtain ⟨dk, ds, x, rfl, hx, hm⟩ := (readKeyStart_iff e prev _ _ _ _ _ (by omega) (by omega)).1 h1
        refine ⟨c :: (dk ++ ds ++ p2 ++ p3 ++ p4 ++ p5 ++ p6 ++ p7 ++ p8 ++ p9), by simp, c, dk, ds, p2, p3, p4, p5, p6, p7, p8, p9, am, x, rfl,
          (ofCode_eq_iff _ _).1 rfl, rfl, rfl, hx, h2, h3, h4, h5, h6, h7, rfl, h8, h9, hm, ?_⟩
        simp only [Config.maxSource, Config.maxDuration, Config.maxCharge, dayOf, Config.secondsPerDay] at *
        refine ⟨?_, ?_, ?_, ?_, ?_, ?_, ?_, ?_, ?_, ?_, ?_⟩ <;> first | assumption | omega
    · rintro ⟨bytes, hb, c', dk, ds, p2, p3, p4, p5, p6, p7, p8, p9, am, x, rfl, hcls, hl, hcl, hx, h2, h3, h4, h5, h6, h7, ha, h8, h9, hm,
        g1, g2, g3, g4, g5, g6, g7, g8, g9, g10, g11⟩
      obtain ⟨rfl, rfl⟩ := by simpa using hb
      have hk := (ofCode_eq_iff r.cls _).2 hcls
      simp only [Config.maxSource, Config.maxDuration, Config.maxCharge]
      refine ⟨r.key, r.start, _, (readKeyStart_iff e prev _ _ _ _ _ g4 g8).2 ⟨dk, ds, x, by simp only [List.append_assoc], hx, hm⟩,
        r.source, _, ⟨p2, rfl, h2, g2⟩, r.sequence, _, ⟨p3, rfl, h3, by omega⟩, r.duration, _, ⟨p4, rfl, h4, g5⟩,
        r.volume, _, ⟨p5, rfl, by rw [hk]; exact h5, g6⟩, r.charge, _, ⟨p6, rfl, h6, g7⟩, am, _, ⟨p7, rfl, h7⟩, r.cell, _, ⟨p8, rfl, h8⟩,
        r.partner, rest, ⟨p9, rfl, h9⟩, ?_⟩
      rw [if_neg (by simp only [dayOf, Config.secondsPerDay]; omega), hk, ← ha, ← hl, ← hcl]

/-- R114: all that the reading of a body can give. -/
theorem readRecords_iff (e : SegEntry) (n : Nat) (prev : Option (Nat × Nat)) (bs : Bytes) (rs : List CallRecord) :
    readRecords e n prev bs = some rs ↔ rs.length = n ∧ BodyReadsAs e prev bs rs ∧
      ((rs.map (·.key)).getLast?.or (prev.map (·.1))).getD e.lastKey = e.lastKey := by
  induction n generalizing prev bs rs with
  | zero =>
    cases rs with
    | nil => simp [readRecords, BodyReadsAs]
    | cons r rs => simp [readRecords]
  | succ n ih =>
    rw [readRecords]
    constructor
    · intro h
      split at h
      · cases h
      · rename_i r rest hr
        split at h
        · cases h
        · rename_i l hl
          obtain rfl := by simpa using h
          obtain ⟨h1, h2, h3⟩ := (ih _ _ _).1 hl
          obtain ⟨bytes, rfl, hb⟩ := (readRecord_iff _ _ _ _ _).1 hr
          refine ⟨by simpa using h1, ⟨bytes, rest, rfl, hb, h2⟩, ?_⟩
          cases l <;> simpa [List.getLast?_cons] using h3
    · rintro ⟨h1, h2, h3⟩
      cases rs with
      | nil => simp at h1
      | cons r rs =>
        obtain ⟨bytes, rest, rfl, hb, h2⟩ := h2
        rw [(readRecord_iff _ _ _ _ _).2 ⟨bytes, rfl, hb⟩]
        simp only
        rw [(ih _ _ rs).2 ⟨by simpa using h1, h2, by cases rs <;> simpa [List.getLast?_cons] using h3⟩]

end Sys2Proof.Machine
end

