-- ==== Sys2Proof/Laws/Shared.lean ====
section
/-! SUPPORT. What each operation shared by several commands can do, said once: queues of days, the move onward into QUIET, pressure,
scheduling passes, activities, segments, commits and retirements. Cite these instead of unfolding the operations. -/

namespace Sys2Proof.Machine

variable {s : State}

theorem part_def (s : State) (d : Nat) : s.part d = Tab.get s.pc.parts d := rfl

/-! ## Day queues -/

/-- Days that join a queue of days, each at most once. -/
def joinDays (days q : List Nat) : List Nat := days.foldl (fun q d => if d ∈ q then q else q ++ [d]) q

/-- Days join the pack queue, and nothing else changes (R47). -/
theorem joinPackAll_eq (days : List Nat) (s : State) :
    joinPackAll days s = s.mapWa fun w => { w with packQueue := joinDays days w.packQueue } := by
  induction days generalizing s with
  | nil => rfl
  | cons d l ih =>
    have : joinPackAll (d :: l) s = joinPackAll l (joinPack d s) := rfl
    rw [this, ih]
    rfl

theorem mem_joinDays {days q : List Nat} {d : Nat} : d ∈ joinDays days q ↔ d ∈ q ∨ d ∈ days := by
  induction days generalizing q with
  | nil => simp [joinDays]
  | cons a l ih =>
    have : joinDays (a :: l) q = joinDays l (if a ∈ q then q else q ++ [a]) := rfl
    rw [this, ih]
    split
    · rename_i h
      simp only [List.mem_cons]
      constructor
      · rintro (h' | h')
        · exact .inl h'
        · exact .inr (.inr h')
      · rintro (h' | rfl | h')
        · exact .inl h'
        · exact .inl h
        · exact .inr h'
    · simp only [List.mem_append, List.mem_cons, List.not_mem_nil, or_false]
      tauto

/-- Days of which none waits yet join the tail of the queue as they stand. -/
theorem joinDays_fresh {days q : List Nat} (hd : days.Nodup) (hq : ∀ d ∈ days, d ∉ q) : joinDays days q = q ++ days := by
  induction days generalizing q with
  | nil => simp [joinDays]
  | cons a l ih =>
    have e : joinDays (a :: l) q = joinDays l (if a ∈ q then q else q ++ [a]) := rfl
    rw [e, if_neg (hq a (by simp)), ih (List.nodup_cons.1 hd).2]
    · simp
    · intro d h hm
      rcases List.mem_append.1 hm with h' | h'
      · exact hq d (List.mem_cons_of_mem _ h) h'
      · rw [List.mem_singleton.1 h'] at h
        exact (List.nodup_cons.1 hd).1 h

/-! ## The move onward -/

/-- A partition after the move onward (R43, R45, R47, R48). -/
def Partition.moved (pressure : Bool) (p : Partition) : Partition := if p.onward pressure then { p with state := .quiet } else p

/-- All that the move onward does: the partitions that have to leave OPEN, and the pack queue. -/
theorem moveOnward_eq (s : State) : moveOnward s =
    (s.mapPc fun t => { parts := Tab.mapAll t.parts fun _ p => p.moved s.wa.pressure }).mapWa fun w =>
      { w with packQueue := joinDays (Tab.keysWhere s.pc.parts fun _ p => p.onward s.wa.pressure) w.packQueue } := by
  unfold moveOnward
  rw [joinPackAll_eq]
  rfl

@[simp] theorem moveOnward_part (d : Nat) : (moveOnward s).part d = (s.part d).map (·.moved s.wa.pressure) := by
  rw [moveOnward_eq]
  rw [part_def, part_def]
  simp only [State.mapWa_pc, State.mapPc_pc, Tab.get_mapAll]

@[simp] theorem Partition.moved_live (b : Bool) (p : Partition) : (p.moved b).live = p.live := by unfold moved; split <;> rfl
@[simp] theorem Partition.moved_dayClosed (b : Bool) (p : Partition) : (p.moved b).dayClosed = p.dayClosed := by unfold moved; split <;> rfl
@[simp] theorem Partition.moved_hotCount (b : Bool) (p : Partition) : (p.moved b).hotCount = p.hotCount := by unfold moved; split <;> rfl
@[simp] theorem Partition.moved_segments (b : Bool) (p : Partition) : (p.moved b).segments = p.segments := by unfold moved; split <;> rfl
@[simp] theorem Partition.moved_waitQueue (b : Bool) (p : Partition) : (p.moved b).waitQueue = p.waitQueue := by unfold moved; split <;> rfl
@[simp] theorem Partition.moved_pins (b : Bool) (p : Partition) : (p.moved b).pins = p.pins := by unfold moved; split <;> rfl
@[simp] theorem Partition.moved_moverHolding (b : Bool) (p : Partition) : (p.moved b).moverHolding = p.moverHolding := by
  unfold moved; split <;> rfl
@[simp] theorem Partition.moved_heldRemainder (b : Bool) (p : Partition) : (p.moved b).heldRemainder = p.heldRemainder := by
  unfold moved; split <;> rfl
@[simp] theorem Partition.moved_expiryDue (b : Bool) (p : Partition) : (p.moved b).expiryDue = p.expiryDue := by unfold moved; split <;> rfl

/-- A partition that is not OPEN does not move onward. -/
theorem Partition.moved_of_ne {p : Partition} (b : Bool) (h : p.state ≠ .opened) : p.moved b = p := by
  unfold moved onward
  rw [if_neg]
  simp [h]

/-! ## Pressure -/

/-- All that the return of the withheld credits does: the Link Port's credits and output queue (R26). -/
theorem returnWithheld_eq (s : State) : ∃ l, returnWithheld s = { s with lp := l } ∧ l.link = s.lp.link ∧ l.epoch = s.lp.epoch ∧
    l.tags = s.lp.tags ∧ l.buffer = s.lp.buffer ∧ l.wire = s.lp.wire ∧ (s.lp.withheld = 0 → l = s.lp) := by
  unfold returnWithheld
  split
  · exact ⟨s.lp, rfl, rfl, rfl, rfl, rfl, rfl, fun _ => rfl⟩
  · exact ⟨_, rfl, rfl, rfl, rfl, rfl, rfl, fun h => absurd h ‹_›⟩

/-- The pressure state after an evaluation (R170). -/
def State.pressureAfter (s : State) : Bool :=
  if s.wa.pressure then !decide (s.cl.settings.highWatermark ≤ s.freeSlots) else decide (s.freeSlots < s.cl.settings.lowWatermark)

/-- All that an evaluation of pressure does: the flag, the partitions and pack queue where it becomes set, the withheld credits where it
becomes clear (R170, R171). -/
theorem evalPressure_eq (s : State) : ∃ l parts q,
    evalPressure s = { s with lp := l, pc := { parts := parts }, wa := { s.wa with pressure := s.pressureAfter, packQueue := q } } ∧
    l.link = s.lp.link ∧ l.epoch = s.lp.epoch ∧ l.tags = s.lp.tags ∧ l.buffer = s.lp.buffer ∧ l.wire = s.lp.wire ∧
    (s.lp.withheld = 0 → l = s.lp) ∧
    (parts = s.pc.parts ∨ s.wa.pressure = false ∧ parts = Tab.mapAll s.pc.parts fun _ p => p.moved true) ∧
    (∀ d, d ∈ s.wa.packQueue → d ∈ q) ∧ (s.wa.pressure = s.pressureAfter → evalPressure s = s) := by
  unfold evalPressure State.pressureAfter
  cases hp : s.wa.pressure
  · by_cases h : s.freeSlots < s.cl.settings.lowWatermark
    · refine ⟨s.lp, _, joinDays (Tab.keysWhere s.pc.parts fun _ p => p.onward true) s.wa.packQueue, ?_, rfl, rfl, rfl, rfl, rfl, fun _ => rfl,
        .inr ⟨rfl, rfl⟩, fun d hd => mem_joinDays.2 (.inl hd), ?_⟩
      · simp only [Bool.false_eq_true, if_false, h, if_true, decide_true]
        rw [moveOnward_eq]
        rfl
      · simp [h]
    · refine ⟨s.lp, s.pc.parts, s.wa.packQueue, ?_, rfl, rfl, rfl, rfl, rfl, fun _ => rfl, .inl rfl, fun d hd => hd, ?_⟩
      · simp only [Bool.false_eq_true, if_false, h, decide_false]
        rw [← hp]
      · simp [h]
  · by_cases h : s.cl.settings.highWatermark ≤ s.freeSlots
    · obtain ⟨l, e, h1, h2, h3, h4, h5, h6⟩ := returnWithheld_eq (s.mapWa fun w => { w with pressure := false })
      refine ⟨l, s.pc.parts, s.wa.packQueue, ?_, h1, h2, h3, h4, h5, h6, .inl rfl, fun d hd => hd, ?_⟩
      · simp only [if_true, h, e, decide_true]
        rfl
      · simp [h]
    · refine ⟨s.lp, s.pc.parts, s.wa.packQueue, ?_, rfl, rfl, rfl, rfl, rfl, fun _ => rfl, .inl rfl, fun d hd => hd, ?_⟩
      · simp only [if_true, if_false, h, decide_false, Bool.not_false]
        rw [← hp]
      · simp [h]

/-- A partition after an evaluation of pressure: as before, or moved onward. -/
theorem evalPressure_part (s : State) (d : Nat) : (evalPressure s).part d = s.part d ∨
    (s.wa.pressure = false ∧ (evalPressure s).part d = (s.part d).map (·.moved true)) := by
  obtain ⟨l, parts, q, e, -, -, -, -, -, -, h, -, -⟩ := evalPressure_eq s
  rcases h with h | ⟨hp, h⟩
  · exact .inl (by rw [e, h]; rfl)
  · refine .inr ⟨hp, ?_⟩
    rw [e, h]
    simp only [part_def, Tab.get_mapAll]

@[simp] theorem evalPressure_pressure (s : State) : (evalPressure s).wa.pressure = s.pressureAfter := by
  obtain ⟨l, parts, q, e, -⟩ := evalPressure_eq s
  rw [e]

/-! ## Scheduling passes -/

/-- A pass changes expiry-due flags and the Sweep Queue alone, and nothing while the clock is unset (R134, R135). -/
theorem schedulePass_eq (sel : Nat → Partition → CallClass → Bool) (s : State) : ∃ q,
    let flagged (d : Nat) (p : Partition) : Partition := if allClasses.any (sel d p) then { p with expiryDue := s.dueFlags sel d p } else p
    schedulePass sel s =
      { s with pc := if s.ck.clockSet then { parts := Tab.mapAll s.pc.parts flagged } else s.pc, ru := { s.ru with queue := q } } ∧
    (∀ d, (Tab.get s.ru.queue d).isSome → (Tab.get q d).isSome) ∧
    (s.ck.clockSet = true → ∀ d ∈ s.markedDays sel, (Tab.get q d).isSome) ∧ (s.ck.clockSet = false → q = s.ru.queue) := by
  have fold : ∀ (l : List Nat) (t : State), ∃ q, l.foldl queueSweep t = { t with ru := { t.ru with queue := q } } ∧
      (∀ d, (Tab.get t.ru.queue d).isSome → (Tab.get q d).isSome) ∧ ∀ d ∈ l, (Tab.get q d).isSome := by
    intro l
    induction l with
    | nil => exact fun t => ⟨t.ru.queue, rfl, fun _ h => h, by simp⟩
    | cons a l ih =>
      intro t
      have one : ∃ e, queueSweep t a = { t with ru := { t.ru with queue := Tab.put t.ru.queue a e } } := by
        unfold queueSweep
        split <;> exact ⟨_, rfl⟩
      obtain ⟨e, he⟩ := one
      have put : ∀ d, d = a ∨ (Tab.get t.ru.queue d).isSome → (Tab.get (Tab.put t.ru.queue a e) d).isSome := by
        intro d hd
        by_cases h : d = a
        · subst h; simp
        · rw [Tab.get_put_ne _ _ h]; exact hd.resolve_left h
      obtain ⟨q, h1, h2, h3⟩ := ih (queueSweep t a)
      refine ⟨q, ?_, ?_, ?_⟩
      · rw [List.foldl_cons, h1, he]
      · intro d hd
        apply h2
        rw [he]
        exact put d (.inr hd)
      · intro d hd
        rcases List.mem_cons.1 hd with rfl | hd
        · apply h2
          rw [he]
          exact put d (.inl rfl)
        · exact h3 d hd
  unfold schedulePass
  cases h : s.ck.clockSet
  · exact ⟨s.ru.queue, rfl, fun _ h => h, fun h => absurd h (by decide), fun _ => rfl⟩
  · simp only [if_true]
    obtain ⟨q, h1, h2, h3⟩ := fold (s.markedDays sel)
      (mapParts (fun d p => if allClasses.any (sel d p) then { p with expiryDue := s.dueFlags sel d p } else p) s)
    exact ⟨q, h1, h2, fun _ => h3, fun h => absurd h (by decide)⟩

/-- A partition after a pass (R134). -/
theorem schedulePass_part (sel : Nat → Partition → CallClass → Bool) (s : State) (d : Nat) : (schedulePass sel s).part d =
    (s.part d).map fun p => if s.ck.clockSet ∧ allClasses.any (sel d p) then { p with expiryDue := s.dueFlags sel d p } else p := by
  obtain ⟨q, e, -⟩ := schedulePass_eq sel s
  rw [e]
  cases h : s.ck.clockSet
  · simp [State.part]
  · simp only [if_true, true_and]
    simp only [part_def, Tab.get_mapAll]

/-- Every flag that a pass leaves (R134). -/
theorem dueFlags_get (sel : Nat → Partition → CallClass → Bool) (s : State) (d : Nat) (p : Partition) (c : CallClass) :
    (s.dueFlags sel d p).get c = s.dueAfter sel d p c := by
  cases c <;> rfl

/-! ## Activities -/

/-- A monitored activity changes one partition and its place in the pack queue and in the wait for a segment slot, and nothing else
(R46). -/
theorem activity_eq (a : Activity) (day : Nat) (s : State) : ∃ parts q w,
    activity a day s = { s with pc := { parts := parts }, wa := { s.wa with packQueue := q }, ce := { s.ce with coldWait := w } } ∧
    (∀ d, d ≠ day → Tab.get parts d = s.part d) ∧
    (Tab.get parts day = s.part day ∨ ∃ p, s.part day = some p ∧ (p.state = .opened ∨ p.state = .quiet) ∧
      Tab.get parts day = some { p with state := .opened, quietElapsed := 0, quietExpired := false }) ∧
    (s.cl.settings.activityMask.testBit a.bit = false → a ≠ .ingest → activity a day s = s) := by
  have same : ∃ parts q w,
      s = { s with pc := { parts := parts }, wa := { s.wa with packQueue := q }, ce := { s.ce with coldWait := w } } ∧
      (∀ d, d ≠ day → Tab.get parts d = s.part d) ∧ Tab.get parts day = s.part day :=
    ⟨s.pc.parts, s.wa.packQueue, s.ce.coldWait, rfl, fun _ _ => rfl, rfl⟩
  obtain ⟨parts, q, w, e, h1, h2⟩ := same
  have keep : activity a day s = s → ∃ parts q w,
      activity a day s = { s with pc := { parts := parts }, wa := { s.wa with packQueue := q }, ce := { s.ce with coldWait := w } } ∧
      (∀ d, d ≠ day → Tab.get parts d = s.part d) ∧
      (Tab.get parts day = s.part day ∨ ∃ p, s.part day = some p ∧ (p.state = .opened ∨ p.state = .quiet) ∧
        Tab.get parts day = some { p with state := .opened, quietElapsed := 0, quietExpired := false }) ∧
      (s.cl.settings.activityMask.testBit a.bit = false → a ≠ .ingest → activity a day s = s) :=
    fun h => ⟨parts, q, w, h.trans e, h1, .inl h2, fun _ _ => h⟩
  cases hp : s.part day with
  | none => exact hp ▸ keep (by simp only [activity, hp])
  | some p =>
    rw [← hp]
    have hg : Tab.get s.pc.parts day = some p := hp
    by_cases ho : p.state = .opened
    · by_cases hc : s.cl.settings.activityMask.testBit a.bit = true
      · have ha : activity a day s = updPart day (fun p => { p with quietElapsed := 0, quietExpired := false }) s := by
          simp only [activity, hp, ho, hc, if_true]
        refine ⟨_, s.wa.packQueue, s.ce.coldWait, ha, fun d hd => ?_, .inr ⟨p, hp, .inl ho, ?_⟩, fun h => by rw [h] at hc; cases hc⟩
        · rw [Tab.get_upd, if_neg hd]
          rfl
        · rw [Tab.get_upd, if_pos rfl, hg, Option.map_some, ho]
      · exact keep (by simp only [activity, hp, ho, hc, Bool.false_eq_true, if_false])
    · by_cases hq : p.state = .quiet
      · by_cases hc : (s.cl.settings.activityMask.testBit a.bit = true ∨ a = .ingest) ∧ ¬ s.wa.pressure = true
        · have ha : activity a day s = leavePack day
              (updPart day (fun p => { p with state := .opened, quietElapsed := 0, quietExpired := false }) s) := by
            simp only [activity, hp, hq]
            rw [if_pos hc]
          refine ⟨_, _, _, ha, fun d hd => ?_, .inr ⟨p, hp, .inr hq, ?_⟩, fun h h' => ?_⟩
          · rw [Tab.get_upd, if_neg hd]
            rfl
          · rw [Tab.get_upd, if_pos rfl, hg]
            rfl
          · rcases hc.1 with h3 | h3
            · rw [h] at h3
              cases h3
            · exact absurd h3 h'
        · refine keep ?_
          simp only [activity, hp, hq]
          rw [if_neg hc]
      · refine keep ?_
        simp only [activity, hp]

/-- A query read or an amendment that the activity mask leaves out changes nothing (R46). -/
theorem activity_unmonitored {a : Activity} (day : Nat) (h : s.cl.settings.activityMask.testBit a.bit = false) (ha : a ≠ .ingest) :
    activity a day s = s := by
  obtain ⟨_, _, _, _, _, _, e⟩ := activity_eq a day s
  exact e h ha

/-- A repack test changes the repack queue alone (R121). -/
theorem repackTest_eq (test : Partition → Bool) (day : Nat) (s : State) : ∃ q, repackTest test day s = s.mapWa fun w => { w with repackQueue := q } := by
  unfold repackTest
  split
  · split
    · exact ⟨_, rfl⟩
    · exact ⟨s.wa.repackQueue, rfl⟩
  · exact ⟨s.wa.repackQueue, rfl⟩

/-! ## Segments -/

/-- All that the freeing of a segment does (R104). -/
theorem freeSegment_eq (n day : Nat) (s : State) : freeSegment n day s = { s with
    cs := { s.cs with dir := Tab.del s.cs.dir n, bodies := Tab.del s.cs.bodies n }
    pc := { s.pc with parts := Tab.upd s.pc.parts day fun p => { p with segments := p.segments.filter (· != n) } }
    ce := { s.ce with coldFull := false, coldWait := [] }
    wa := { s.wa with packQueue := joinDays s.ce.coldWait s.wa.packQueue } } := by
  unfold freeSegment
  rw [joinPackAll_eq]
  rfl

/-- A segment that loses a record changes the cold store, its day's segment list, COLD_FULL and the queues behind it, and nothing else
(R104). -/
theorem segmentLoses_eq (n : Nat) (s : State) : ∃ (cs : ColdStore) (parts : Tab Partition) (full : Bool) (wait q : List Nat),
    segmentLoses n s = { s with cs := cs, pc := { parts := parts }, ce := { s.ce with coldFull := full, coldWait := wait },
                                wa := { s.wa with packQueue := q } } ∧
    (∀ m, m ≠ n → Tab.get cs.dir m = s.seg m) ∧
    (∀ d, ∃ f : Partition → List Nat, Tab.get parts d = (s.part d).map fun p => { p with segments := f p }) := by
  unfold segmentLoses
  cases hs : s.seg n with
  | none =>
    refine ⟨s.cs, s.pc.parts, s.ce.coldFull, s.ce.coldWait, s.wa.packQueue, rfl, fun _ _ => rfl, fun d => ⟨(·.segments), ?_⟩⟩
    show s.part d = _
    cases s.part d <;> rfl
  | some e =>
    simp only
    split
    · refine ⟨_, _, false, [], _, by unfold freeSegment; rw [joinPackAll_eq]; rfl, fun m hm => ?_, fun d => ?_⟩
      · exact Tab.get_del_ne _ hm
      · by_cases hd : d = e.day
        · refine ⟨fun p => p.segments.filter (· != n), ?_⟩
          rw [Tab.get_upd, if_pos hd]
          rfl
        · refine ⟨(·.segments), ?_⟩
          rw [Tab.get_upd, if_neg hd]
          show s.part d = _
          cases s.part d <;> rfl
    · refine ⟨_, s.pc.parts, s.ce.coldFull, s.ce.coldWait, s.wa.packQueue, rfl, fun m hm => ?_, fun d => ⟨(·.segments), ?_⟩⟩
      · have h := Tab.get_upd s.cs.dir n m fun e => { e with live := e.live - 1 }
        rw [if_neg hm] at h
        exact h
      · show s.part d = _
        cases s.part d <;> rfl

/-- A segment marked DAMAGED: the entry, the counter and the latch, and nothing else (R160). -/
theorem markDamaged_active {n : Nat} (h : s.segActive n = true) : markDamaged n s =
    (updSeg n (fun e => { e with state := .damaged }) s).mapAu fun a =>
      { a with current := bankAdd a.current .segmentsDamaged 1, damageFound := true } := by
  unfold markDamaged
  rw [if_pos h]
  rfl

theorem markDamaged_other {n : Nat} (h : s.segActive n = false) : markDamaged n s = s := by
  unfold markDamaged
  rw [if_neg (by simp [h])]

/-! ## Credits and drains -/

/-- The frame credit of a drained entry changes the Link Port alone (R26). -/
theorem frameCreditEarned_eq (s : State) : ∃ l, frameCreditEarned s = { s with lp := l } := by
  unfold frameCreditEarned
  split <;> exact ⟨_, rfl⟩

/-- The end of a drain changes the Link Port, and takes the entry and the drain away (R62). -/
theorem endDrain_eq (e : BatchEntry) (status : Nat) (payload : Bytes) (s : State) : ∃ l,
    endDrain e status payload s = { s with lp := l, ie := { s.ie with queue := s.ie.queue.tail, drain := none } } := by
  obtain ⟨l, h⟩ := frameCreditEarned_eq (creditsPending { Credits.zero with block := blockNeed e.kind.code e.payload }
    (respond e.tag e.epoch status payload s))
  refine ⟨l, ?_⟩
  simp only [endDrain, h]
  rfl

/-! ## Start-up -/

@[simp] theorem dramFound_false (s : State) : dramFound false s = s := by simp [dramFound, State.mapIx]

/-- R179: a content lost takes the archive signature, and nothing else that can be read. -/
theorem dramFound_true (s : State) : dramFound true s = { s with ix := { s.ix with signatureValid := false } } := by
  simp [dramFound, State.mapIx]

end Sys2Proof.Machine
end

