-- ==== Sys2Proof/Laws/Entries.lean ====
section
/-! SUPPORT. Single entries read after the operations that change them, and all that a commit, a retirement, a day close and a rollover do. -/

namespace Sys2Proof.Machine

variable {s : State}

/-! ## Entries read back -/

theorem updPart_part (day : Nat) (f : Partition → Partition) (s : State) (d : Nat) :
    (updPart day f s).part d = if d = day then (s.part d).map f else s.part d := Tab.get_upd _ _ _ _

theorem mapParts_part (f : Nat → Partition → Partition) (s : State) (d : Nat) : (mapParts f s).part d = (s.part d).map (f d) :=
  Tab.get_mapAll _ _ _

theorem joinQueue_part (day : Nat) (w : Waiter) (s : State) (d : Nat) : (joinQueue day w s).part d =
    if d = day then (s.part d).map fun p => p.withQueue (p.waitQueue ++ [w]) else s.part d := updPart_part _ _ _ _

theorem leaveQueue_part (day : Nat) (w : Waiter) (s : State) (d : Nat) : (leaveQueue day w s).part d =
    if d = day then (s.part d).map fun p => p.withQueue (p.waitQueue.filter (· != w)) else s.part d := updPart_part _ _ _ _

theorem releasePin_part (day : Nat) (s : State) (d : Nat) : (releasePin day s).part d =
    if d = day then (s.part d).map fun p => { p with pins := p.pins - 1 } else s.part d := updPart_part _ _ _ _

theorem releaseMover_part (day : Nat) (s : State) (d : Nat) : (releaseMover day s).part d =
    if d = day then (s.part d).map fun p => { p with moverHolding := false } else s.part d := updPart_part _ _ _ _

theorem updSeg_seg (n : Nat) (f : SegEntry → SegEntry) (s : State) (m : Nat) :
    (updSeg n f s).seg m = if m = n then (s.seg m).map f else s.seg m := Tab.get_upd _ _ _ _

theorem updCtx_queryCtx (c : Nat) (f : QueryContext → QueryContext) (s : State) (d : Nat) :
    (updCtx c f s).queryCtx d = if d = c then (s.queryCtx d).map f else s.queryCtx d := Tab.get_upd _ _ _ _

theorem updSlot_scanSlot (n : Nat) (f : ScanSlot → ScanSlot) (s : State) (m : Nat) :
    (updSlot n f s).scanSlot m = if m = n then (s.scanSlot m).map f else s.scanSlot m := Tab.get_upd _ _ _ _

theorem updAccount_get (source day : Nat) (f : Account → Account) (s : State) (k : Nat) : Tab.get (updAccount source day f s).au.accounts k =
    if k = accountKey source day then (Tab.get s.au.accounts k).map f else Tab.get s.au.accounts k := Tab.get_upd _ _ _ _

@[simp] theorem putEntry_lookup_self (ref : Nat) (e : MapEntry) (s : State) : (putEntry ref e s).lookup ref = some e := Tab.get_put_self _ _ _

theorem putEntry_lookup_ne {ref x : Nat} (e : MapEntry) (s : State) (h : x ≠ ref) : (putEntry ref e s).lookup x = s.lookup x :=
  Tab.get_put_ne _ _ h

@[simp] theorem dropEntry_lookup_self (ref : Nat) (s : State) : (dropEntry ref s).lookup ref = none := Tab.get_del_self _ _

theorem dropEntry_lookup_ne {ref x : Nat} (s : State) (h : x ≠ ref) : (dropEntry ref s).lookup x = s.lookup x := Tab.get_del_ne _ h

@[simp] theorem writeSlot_get_self (n : Nat) (r : CallRecord) (s : State) : Tab.get (writeSlot n r s).hs.slots n = some r := Tab.get_put_self _ _ _

theorem writeSlot_get_ne {n k : Nat} (r : CallRecord) (s : State) (h : k ≠ n) : Tab.get (writeSlot n r s).hs.slots k = Tab.get s.hs.slots k :=
  Tab.get_put_ne _ _ h

@[simp] theorem releaseSlot_get_self (n : Nat) (s : State) : Tab.get (releaseSlot n s).hs.slots n = none := Tab.get_del_self _ _

theorem releaseSlot_get_ne {n k : Nat} (s : State) (h : k ≠ n) : Tab.get (releaseSlot n s).hs.slots k = Tab.get s.hs.slots k :=
  Tab.get_del_ne _ h

/-! ## The commit -/

/-- The current bank after a stored record (R71). -/
def storedBank (r : CallRecord) (bank : List Nat) : List Nat :=
  let bank := bankAdd bank .recordsStored 1
  let bank := if r.late then bankAdd bank .storedLate 1 else bank
  let bank := if r.clamped then bankAdd bank .storedClamped 1 else bank
  bankAdd (bankAdd bank (bucketCounter r.duration) 1) .chargeStored r.charge

/-- The counters of a stored record, and nothing else (R71). -/
theorem countStored_eq (r : CallRecord) (s : State) : countStored r s = s.mapAu fun a => { a with current := storedBank r a.current } := by
  unfold countStored storedBank
  cases r.late <;> cases r.clamped <;> rfl

/-- The accounts with one for (source, day) (R144). -/
def accountsWith (source day : Nat) (accounts : Tab Account) : Tab Account :=
  match Tab.get accounts (accountKey source day) with
  | some _ => accounts
  | none => Tab.put accounts (accountKey source day) Account.zero

theorem createAccount_eq (source day : Nat) (s : State) :
    createAccount source day s = s.mapAu fun a => { a with accounts := accountsWith source day a.accounts } := by
  unfold createAccount accountsWith
  cases h : Tab.get s.au.accounts (accountKey source day) <;> simp [State.mapAu, h]

/-- The partitions with one for the day, closed as R42 says. -/
def partsWith (closed : Bool) (day : Nat) (parts : Tab Partition) : Tab Partition :=
  match Tab.get parts day with
  | some _ => parts
  | none => Tab.put parts day (newPartition closed)

theorem allocatePart_eq (day : Nat) (s : State) : allocatePart day s =
    s.mapPc fun t => { parts := partsWith (decide (day + s.cl.settings.graceDays < s.currentDay)) day t.parts } := by
  unfold allocatePart partsWith
  cases h : s.part day with
  | none =>
    have h' : Tab.get s.pc.parts day = none := h
    simp [State.mapPc, h']
  | some p =>
    have h' : Tab.get s.pc.parts day = some p := h
    simp [State.mapPc, h']

/-- What follows a stored record: the day's activity, the repack test and the moves onward (R72). -/
def afterStore (day : Nat) (x : State) : State :=
  moveOnward (repackTest (activity .ingest day x).hotTest day (activity .ingest day x))

theorem afterStore_reach (day : Nat) (s : State) : ∃ parts wait packs repacks,
    afterStore day s = { s with
      pc := { parts := parts }, ce := { s.ce with coldWait := wait }, wa := { s.wa with packQueue := packs, repackQueue := repacks } } := by
  unfold afterStore
  obtain ⟨p1, q1, w1, e1, -⟩ := activity_eq .ingest day s
  obtain ⟨q2, e2⟩ := repackTest_eq (activity .ingest day s).hotTest day (activity .ingest day s)
  rw [e2, e1, moveOnward_eq]
  exact ⟨_, w1, _, q2, rfl⟩

/-- What a stored record adds to its account (R144). -/
def Account.store (charge : Nat) (a : Account) : Account :=
  { a with stored := count64 (a.stored + 1), live := count64 (a.live + 1), storedSum := sum64 (a.storedSum + charge) }

/-- The stored record in its slot, the map, its partition, its account and the counters (R70, R71). -/
def placeRecord (r : CallRecord) (n : Nat) (s : State) : State :=
  countStored r (updAccount r.source r.day (Account.store r.charge)
    (updPart r.day (Partition.withStore r.cls) (putEntry r.ref (r.entry (.hot n)) (writeSlot n r s))))

theorem placeRecord_eq (r : CallRecord) (n : Nat) (s : State) : ∃ parts, placeRecord r n s = { s with
        pc := { parts := parts },
        hs := { slots := Tab.put s.hs.slots n r },
        ix := { s.ix with map := Tab.put s.ix.map r.ref (r.entry (.hot n)) },
        au := { s.au with
          accounts := Tab.upd s.au.accounts (accountKey r.source r.day) (Account.store r.charge),
          current := storedBank r s.au.current } } := by
  unfold placeRecord
  rw [countStored_eq]
  generalize storedBank r = f
  exact ⟨_, rfl⟩

/-- The commit, with its record's LATE flag and slot read before it. -/
theorem commitRecord_place (r : CallRecord) (s : State) : commitRecord r s = afterStore r.day
    (placeRecord { r with late := s.lateAt r.day } s.nextSlot (createAccount r.source r.day (allocatePart r.day s))) := by
  have hlate : (match (createAccount r.source r.day (allocatePart r.day s)).part r.day with | some p => p.dayClosed | none => false)
      = s.lateAt r.day := by
    rw [createAccount_eq, allocatePart_eq]
    show (match Tab.get (partsWith _ r.day s.pc.parts) r.day with | some p => p.dayClosed | none => false) = _
    unfold partsWith State.lateAt
    cases h : s.part r.day with
    | none =>
      have h' : Tab.get s.pc.parts r.day = none := h
      simp [h', newPartition]
    | some p =>
      have h' : Tab.get s.pc.parts r.day = some p := h
      simp [h']
  have hs0 : (createAccount r.source r.day (allocatePart r.day s)).nextSlot = s.nextSlot := by
    rw [createAccount_eq, allocatePart_eq]; rfl
  rw [← hlate, ← hs0]
  rfl

/-- All that a commit does: the slot, the map entry, the account, the counters, and the partitions and queues that follow (R70, R72). -/
theorem commitRecord_eq (r : CallRecord) (s : State) :
    ∃ parts wait packs repacks, commitRecord r s =
      { s with
        pc := { parts := parts }, ce := { s.ce with coldWait := wait }, wa := { s.wa with packQueue := packs, repackQueue := repacks },
        hs := { slots := Tab.put s.hs.slots s.nextSlot { r with late := s.lateAt r.day } },
        ix := { s.ix with map := Tab.put s.ix.map r.ref (CallRecord.entry { r with late := s.lateAt r.day } (.hot s.nextSlot)) },
        au := { s.au with
          accounts := Tab.upd (accountsWith r.source r.day s.au.accounts) (accountKey r.source r.day) (Account.store r.charge),
          current := storedBank { r with late := s.lateAt r.day } s.au.current } } := by
  rw [commitRecord_place]
  generalize s.nextSlot = n
  generalize s.lateAt r.day = late
  obtain ⟨p0, hx⟩ := placeRecord_eq { r with late := late } n (createAccount r.source r.day (allocatePart r.day s))
  obtain ⟨p, w, q, k, e⟩ :=
    afterStore_reach r.day (placeRecord { r with late := late } n (createAccount r.source r.day (allocatePart r.day s)))
  rw [hx, createAccount_eq, allocatePart_eq] at e
  rw [hx, createAccount_eq, allocatePart_eq]
  generalize storedBank _ = f at *
  exact ⟨p, w, q, k, e⟩

/-! ## Retirement -/

/-- A record that leaves its store changes the map and, by its place, the slots or the cold store and the queues behind it (R140). -/
theorem leaveStore_eq (ref : Nat) (e : MapEntry) (s : State) : ∃ parts q ce cs hs, leaveStore e.day e.loc (dropEntry ref s) =
      { s with pc := { parts := parts }, wa := { s.wa with packQueue := q }, ce := ce, cs := cs, hs := hs,
               ix := { s.ix with map := Tab.del s.ix.map ref } } ∧
      hs.slots = (match e.loc with | .hot n => Tab.del s.hs.slots n | .segment _ _ => s.hs.slots) ∧ ce.job = s.ce.job := by
  unfold leaveStore
  cases e.loc with
  | hot n => exact ⟨_, s.wa.packQueue, s.ce, s.cs, _, rfl, rfl, rfl⟩
  | segment n o =>
    obtain ⟨cs, parts, full, wait, q, h, -⟩ := segmentLoses_eq n (dropEntry ref s)
    exact ⟨parts, q, _, cs, s.hs, h, rfl, rfl⟩

/-- All that a retirement does: the map loses the reference, the account and counters take the charge, and a slot, a segment, the partitions and
the queues may follow (R140, R145). -/
theorem retireRecord_eq (ref : Nat) (e : MapEntry) (s : State) : ∃ parts q ce cs hs,
    retireRecord ref e s =
      { s with
        pc := { parts := parts }, wa := { s.wa with packQueue := q }, ce := ce, cs := cs, hs := hs,
        ix := { s.ix with map := Tab.del s.ix.map ref },
        au := { s.au with
          accounts := Tab.upd s.au.accounts (accountKey (refSource ref) e.day) (Account.retire e.charge),
          current := bankAdd (bankAdd s.au.current .recordsRetired 1) .chargeRetired e.charge } } ∧
    hs.slots = (match e.loc with | .hot n => Tab.del s.hs.slots n | .segment _ _ => s.hs.slots) ∧ ce.job = s.ce.job := by
  obtain ⟨p1, q1, ce, cs, hs, e1, hh, hj⟩ := leaveStore_eq ref e s
  have hc : retireRecord ref e s = countUp .chargeRetired e.charge (countUp .recordsRetired 1
      (updAccount (refSource ref) e.day (Account.retire e.charge) (updPart e.day
        (fun p => { p with live := p.live.set e.cls (p.live.get e.cls - 1) }) (leaveStore e.day e.loc (dropEntry ref s))))) := rfl
  rw [hc, e1]
  exact ⟨_, q1, ce, cs, hs, rfl, hh, hj⟩

/-! ## Days and the rollover -/

/-- Day close, read at one day (R43). -/
theorem closeDays_part (s : State) (d : Nat) : (closeDays s).part d =
    (s.part d).map fun p => if d + s.cl.settings.graceDays < s.currentDay then { p with dayClosed := true } else p := mapParts_part _ _ _

theorem advanceQuietTimers_part (n : Nat) (s : State) (d : Nat) :
    (advanceQuietTimers n s).part d = (s.part d).map (Partition.advanceQuiet s.cl.settings.quietCode n) := mapParts_part _ _ _

/-- The activation of the pending retentions: the table, the expiry-due flags and the Sweep Queue, and nothing else (R127). -/
theorem activateRetention_eq (s : State) : ∃ pc q, activateRetention s =
    { s with pc := pc, ru := { s.ru with queue := q, table :=
      { voice := { s.ru.table.voice with active := s.ru.table.voice.pending },
        message := { s.ru.table.message with active := s.ru.table.message.pending },
        data := { s.ru.table.data with active := s.ru.table.data.pending },
        other := { s.ru.table.other with active := s.ru.table.other.pending } } } } := by
  unfold activateRetention fullPass
  generalize hx : State.mapRu _ s = x
  obtain ⟨q, h, -⟩ := schedulePass_eq (fun _ _ _ => true) x
  refine ⟨(schedulePass (fun _ _ _ => true) x).pc, q, ?_⟩
  rw [h, ← hx]
  rfl

/-- A rollover: the rollover day, the partitions' flags, the active retentions, the Sweep Queue and the capture, and nothing else (R39, R43,
R127, R150). -/
theorem rollover_eq (s : State) : ∃ pc q, rollover s =
    { s with
      ck := { s.ck with rolloverDay := s.currentDay }, pc := pc,
      ru := { s.ru with queue := q, table :=
        { voice := { s.ru.table.voice with active := s.ru.table.voice.pending },
          message := { s.ru.table.message with active := s.ru.table.message.pending },
          data := { s.ru.table.data with active := s.ru.table.data.pending },
          other := { s.ru.table.other with active := s.ru.table.other.pending } } },
      au := { s.au with previous := s.au.current, captureDay := some s.currentDay } } := by
  unfold rollover
  obtain ⟨pc, q, h⟩ := activateRetention_eq (closeDays (s.mapCk fun k => { k with rolloverDay := dayOf k.archiveTime }))
  refine ⟨pc, q, ?_⟩
  rw [h]
  rfl

end Sys2Proof.Machine
end

