-- ==== Sys2Proof/WellFormed.lean ====
section
/-! DEFINITION. Which commands are well formed: the ranges that the row of a command presupposes. An ill-formed command still has a meaning
(a request row whose frame breaks R13 is discarded with the notice FRAME_CHECK); the machine does not read this check. -/

namespace Sys2Proof

/-- A request row's frame is well formed: its tag and payload length (R13). -/
def Request.wellFormed (r : Request) : Bool := Machine.frameWellFormed r

/-- The bytes of a read are at most a segment body's (R102). -/
def ReadResult.wellFormed : ReadResult → Bool
  | .altered body => decide (body.length ≤ Config.bodyLimit)
  | .stored => true
  | .fault => true

/-- A command is well formed. -/
def Instr.wellFormed : Instr → Bool
  | .powerOn _ _ => true
  | .resetPinAssert => true
  | .resetPinRelease => true
  | .warmResetEnd => true
  | .laneLockLoss => true
  | .laneLockReturn => true
  | .hello => true
  | .frameSend => true
  | .frameCheck frame => (Machine.readFrame frame).isNone
  | .unknownKind code r => (Machine.kindOfCode code.toNat).isNone && r.wellFormed
  | .setTime r => r.wellFormed
  | .closeDay r => r.wellFormed
  | .setRetention r => r.wellFormed
  | .placeHold r => r.wellFormed
  | .releaseHold r => r.wellFormed
  | .listHolds r => r.wellFormed
  | .setConfig r => r.wellFormed
  | .saveConfig r => r.wellFormed
  | .eepromWriteCompletion _ => true
  | .readStatus r => r.wellFormed
  | .readCounters r => r.wellFormed
  | .clearCounters r => r.wellFormed
  | .partitionInfo r => r.wellFormed
  | .reset r => r.wellFormed
  | .linkReset r => r.wellFormed
  | .fileOpen r => r.wellFormed
  | .records r => r.wellFormed
  | .fileClose r => r.wellFormed
  | .fileAbort r => r.wellFormed
  | .fetch r => r.wellFormed
  | .querySubscriber r => r.wellFormed
  | .amend r => r.wellFormed
  | .readAccount r => r.wellFormed
  | .auditScan r => r.wellFormed
  | .verifyDays r => r.wellFormed
  | .cancel r => r.wellFormed
  | .recordEvent => true
  | .secondEvent => true
  | .quietTimerExpiry day => decide (day ≤ Config.lastDay)
  | .fileIdleExpiry ctx => decide (ctx < Config.fileContexts)
  | .patrolTimerExpiry => true
  | .millisecondTick => true
  | .throttlePhaseEnd => true
  | .sortEnd => true
  | .writeCompletion _ => true
  | .decodeCompletion read => read.wellFormed
  | .readCompletion read => read.wellFormed
  | .sweepDecision => true
  | .lossOfNodePower => true

end Sys2Proof
end

