-- ==== Sys2Proof/Laws/PerInstr.lean ====
section
/-! SUPPORT. The family Kinds: which commands are request rows of the 25 kinds, each with its own kind (2.8, R12). -/

namespace Sys2Proof.Laws

open Sys2Proof Sys2Proof.Machine

/-- The kind and the request of a request row; none for the other rows. -/
def Kinds.requestOf : Instr → Option (Kind × Request)
  | .powerOn _ _ => none
  | .resetPinAssert => none
  | .resetPinRelease => none
  | .warmResetEnd => none
  | .laneLockLoss => none
  | .laneLockReturn => none
  | .hello => none
  | .frameSend => none
  | .frameCheck _ => none
  | .unknownKind _ _ => none
  | .setTime r => some (.setTime, r)
  | .closeDay r => some (.closeDay, r)
  | .setRetention r => some (.setRetention, r)
  | .placeHold r => some (.placeHold, r)
  | .releaseHold r => some (.releaseHold, r)
  | .listHolds r => some (.listHolds, r)
  | .setConfig r => some (.setConfig, r)
  | .saveConfig r => some (.saveConfig, r)
  | .eepromWriteCompletion _ => none
  | .readStatus r => some (.readStatus, r)
  | .readCounters r => some (.readCounters, r)
  | .clearCounters r => some (.clearCounters, r)
  | .partitionInfo r => some (.partitionInfo, r)
  | .reset r => some (.reset, r)
  | .linkReset r => some (.linkReset, r)
  | .fileOpen r => some (.fileOpen, r)
  | .records r => some (.records, r)
  | .fileClose r => some (.fileClose, r)
  | .fileAbort r => some (.fileAbort, r)
  | .fetch r => some (.fetch, r)
  | .querySubscriber r => some (.querySubscriber, r)
  | .amend r => some (.amend, r)
  | .readAccount r => some (.readAccount, r)
  | .auditScan r => some (.auditScan, r)
  | .verifyDays r => some (.verifyDays, r)
  | .cancel r => some (.cancel, r)
  | .recordEvent => none
  | .secondEvent => none
  | .quietTimerExpiry _ => none
  | .fileIdleExpiry _ => none
  | .patrolTimerExpiry => none
  | .millisecondTick => none
  | .throttlePhaseEnd => none
  | .sortEnd => none
  | .writeCompletion _ => none
  | .decodeCompletion _ => none
  | .readCompletion _ => none
  | .sweepDecision => none
  | .lossOfNodePower => none

/-- A request row is the row of its kind, which its kind code names, and its well-formedness is its frame's (R12, R13); another row is no
kind's row. -/
def Kinds.Statement (i : Instr) : Prop :=
  match Kinds.requestOf i with
  | some (k, r) => i = requestRow k r ∧ kindOfCode k.code = some k ∧ i.wellFormed = frameWellFormed r
  | none => ∀ k r, i ≠ requestRow k r

/-- Reading the kind and the request back from a kind's row. -/
theorem Kinds.requestOf_requestRow (k : Kind) (r : Request) : Kinds.requestOf (requestRow k r) = some (k, r) := by cases k <;> rfl

/-- A row from which no request is read is no kind's row. -/
theorem Kinds.other {i : Instr} (h : Kinds.requestOf i = none) : Kinds.Statement i := by
  simp only [Kinds.Statement, h]
  intro k r hi
  rw [hi, Kinds.requestOf_requestRow] at h
  cases h

theorem Kinds.powerOn (eepromFault : Bool) (node : NodeStart) : Kinds.Statement (.powerOn eepromFault node) := Kinds.other rfl
theorem Kinds.resetPinAssert : Kinds.Statement .resetPinAssert := Kinds.other rfl
theorem Kinds.resetPinRelease : Kinds.Statement .resetPinRelease := Kinds.other rfl
theorem Kinds.warmResetEnd : Kinds.Statement .warmResetEnd := Kinds.other rfl
theorem Kinds.laneLockLoss : Kinds.Statement .laneLockLoss := Kinds.other rfl
theorem Kinds.laneLockReturn : Kinds.Statement .laneLockReturn := Kinds.other rfl
theorem Kinds.hello : Kinds.Statement .hello := Kinds.other rfl
theorem Kinds.frameSend : Kinds.Statement .frameSend := Kinds.other rfl
theorem Kinds.frameCheck (frame : Bytes) : Kinds.Statement (.frameCheck frame) := Kinds.other rfl
theorem Kinds.unknownKind (code : Byte) (r : Request) : Kinds.Statement (.unknownKind code r) := Kinds.other rfl
theorem Kinds.setTime (r : Request) : Kinds.Statement (.setTime r) := ⟨rfl, rfl, rfl⟩
theorem Kinds.closeDay (r : Request) : Kinds.Statement (.closeDay r) := ⟨rfl, rfl, rfl⟩
theorem Kinds.setRetention (r : Request) : Kinds.Statement (.setRetention r) := ⟨rfl, rfl, rfl⟩
theorem Kinds.placeHold (r : Request) : Kinds.Statement (.placeHold r) := ⟨rfl, rfl, rfl⟩
theorem Kinds.releaseHold (r : Request) : Kinds.Statement (.releaseHold r) := ⟨rfl, rfl, rfl⟩
theorem Kinds.listHolds (r : Request) : Kinds.Statement (.listHolds r) := ⟨rfl, rfl, rfl⟩
theorem Kinds.setConfig (r : Request) : Kinds.Statement (.setConfig r) := ⟨rfl, rfl, rfl⟩
theorem Kinds.saveConfig (r : Request) : Kinds.Statement (.saveConfig r) := ⟨rfl, rfl, rfl⟩
theorem Kinds.eepromWriteCompletion (fault : Bool) : Kinds.Statement (.eepromWriteCompletion fault) := Kinds.other rfl
theorem Kinds.readStatus (r : Request) : Kinds.Statement (.readStatus r) := ⟨rfl, rfl, rfl⟩
theorem Kinds.readCounters (r : Request) : Kinds.Statement (.readCounters r) := ⟨rfl, rfl, rfl⟩
theorem Kinds.clearCounters (r : Request) : Kinds.Statement (.clearCounters r) := ⟨rfl, rfl, rfl⟩
theorem Kinds.partitionInfo (r : Request) : Kinds.Statement (.partitionInfo r) := ⟨rfl, rfl, rfl⟩
theorem Kinds.reset (r : Request) : Kinds.Statement (.reset r) := ⟨rfl, rfl, rfl⟩
theorem Kinds.linkReset (r : Request) : Kinds.Statement (.linkReset r) := ⟨rfl, rfl, rfl⟩
theorem Kinds.fileOpen (r : Request) : Kinds.Statement (.fileOpen r) := ⟨rfl, rfl, rfl⟩
theorem Kinds.records (r : Request) : Kinds.Statement (.records r) := ⟨rfl, rfl, rfl⟩
theorem Kinds.fileClose (r : Request) : Kinds.Statement (.fileClose r) := ⟨rfl, rfl, rfl⟩
theorem Kinds.fileAbort (r : Request) : Kinds.Statement (.fileAbort r) := ⟨rfl, rfl, rfl⟩
theorem Kinds.fetch (r : Request) : Kinds.Statement (.fetch r) := ⟨rfl, rfl, rfl⟩
theorem Kinds.querySubscriber (r : Request) : Kinds.Statement (.querySubscriber r) := ⟨rfl, rfl, rfl⟩
theorem Kinds.amend (r : Request) : Kinds.Statement (.amend r) := ⟨rfl, rfl, rfl⟩
theorem Kinds.readAccount (r : Request) : Kinds.Statement (.readAccount r) := ⟨rfl, rfl, rfl⟩
theorem Kinds.auditScan (r : Request) : Kinds.Statement (.auditScan r) := ⟨rfl, rfl, rfl⟩
theorem Kinds.verifyDays (r : Request) : Kinds.Statement (.verifyDays r) := ⟨rfl, rfl, rfl⟩
theorem Kinds.cancel (r : Request) : Kinds.Statement (.cancel r) := ⟨rfl, rfl, rfl⟩
theorem Kinds.recordEvent : Kinds.Statement .recordEvent := Kinds.other rfl
theorem Kinds.secondEvent : Kinds.Statement .secondEvent := Kinds.other rfl
theorem Kinds.quietTimerExpiry (day : Nat) : Kinds.Statement (.quietTimerExpiry day) := Kinds.other rfl
theorem Kinds.fileIdleExpiry (ctx : Nat) : Kinds.Statement (.fileIdleExpiry ctx) := Kinds.other rfl
theorem Kinds.patrolTimerExpiry : Kinds.Statement .patrolTimerExpiry := Kinds.other rfl
theorem Kinds.millisecondTick : Kinds.Statement .millisecondTick := Kinds.other rfl
theorem Kinds.throttlePhaseEnd : Kinds.Statement .throttlePhaseEnd := Kinds.other rfl
theorem Kinds.sortEnd : Kinds.Statement .sortEnd := Kinds.other rfl
theorem Kinds.writeCompletion (fault : Bool) : Kinds.Statement (.writeCompletion fault) := Kinds.other rfl
theorem Kinds.decodeCompletion (read : ReadResult) : Kinds.Statement (.decodeCompletion read) := Kinds.other rfl
theorem Kinds.readCompletion (read : ReadResult) : Kinds.Statement (.readCompletion read) := Kinds.other rfl
theorem Kinds.sweepDecision : Kinds.Statement .sweepDecision := Kinds.other rfl
theorem Kinds.lossOfNodePower : Kinds.Statement .lossOfNodePower := Kinds.other rfl

end Sys2Proof.Laws
end

