-- ==== Sys2Proof/Laws/Queues.lean ====
section
/-! SUPPORT. The queues of days in a state in which they agree with the partitions: what the freeing of a segment and the move onward make of
the pack queue, how the agreement is read off the tables, and all that a retirement does (RetiredAt). -/

namespace Sys2Proof.Machine

variable {s : State}

/-- The agreement, from what can be read off the entries of the Partition Table. -/
theorem QueuesAgree.of_entries (pack : s.wa.packQueue.Nodup ∧ ∀ d ∈ s.wa.packQueue, (s.part d).map (·.state) = some .quiet)
    (repack : s.wa.repackQueue.Nodup ∧ ∀ d ∈ s.wa.repackQueue, (s.part d).map (·.state) = some .packed)
    (wait : s.ce.coldWait.Pairwise (· < ·) ∧ ∀ d ∈ s.ce.coldWait, (s.part d).map (·.state) = some .quiet ∧ d ∉ s.wa.packQueue)
    (active : s.active = true)
    (quiet : ∀ e ∈ s.pc.parts, e.2.state = .quiet → e.1 ∈ s.wa.packQueue ∨ e.1 ∈ s.ce.coldWait)
    (job : ∀ j ∈ s.ce.job, (s.part j.day).map (·.state) = some (if j.repack then .repacking else .packing))
    (sweep : ∀ w ∈ s.ru.sweep, (s.part w.day).map (·.state) ≠ some .packing ∧ (s.part w.day).map (·.state) ≠ some .repacking) :
    QueuesAgree s where
  pack := pack
  repack := repack
  wait := wait
  resting h := by rw [active] at h; cases h
  quiet _ _ _ hp := quiet _ (Tab.mem_of_get hp)
  job _ hj := job _ hj
  sweep _ hw := sweep _ hw

/-- R104: where the queues agree, the days that waited for a FREE segment slot stand behind the others in their ascending order. -/
theorem QueuesAgree.waiting_join (h : QueuesAgree s) : joinDays s.ce.coldWait s.wa.packQueue = s.wa.packQueue ++ s.ce.coldWait :=
  joinDays_fresh (h.wait.1.imp Nat.ne_of_lt) fun d hd => (h.wait.2 d hd).2

/-- R47: where no OPEN day is in the pack queue, the move onward appends its days in ascending order. -/
theorem moveOnward_appends (hk : Tab.rising s.pc.parts = true) (ho : ∀ d p, s.part d = some p → p.state = .opened → d ∉ s.wa.packQueue) :
    (moveOnward s).wa.packQueue = s.wa.packQueue ++ Tab.keysWhere s.pc.parts fun _ p => p.onward s.wa.pressure := by
  rw [moveOnward_eq]
  refine joinDays_fresh ?_ fun d hd => ?_
  · exact (Tab.rising_keys (Tab.rising_keep _ hk)).imp Nat.ne_of_lt
  · obtain ⟨e, he, rfl⟩ := List.mem_map.1 hd
    obtain ⟨hm, hp⟩ := List.mem_filter.1 he
    refine ho e.1 e.2 (Tab.get_of_mem hk hm) ?_
    simp only [Partition.onward, Bool.and_eq_true, decide_eq_true_eq] at hp
    exact hp.1.1

/-- A retirement, once its record has left its store: the class's live count, the account and the counters (R140, R145). -/
theorem retireRecord_after (ref : Nat) (m : MapEntry) (s : State) : retireRecord ref m s =
    let l := leaveStore m.day m.loc (dropEntry ref s)
    { l with
      pc := { parts := Tab.upd l.pc.parts m.day fun p => { p with live := p.live.set m.cls (p.live.get m.cls - 1) } }
      au := { l.au with
        accounts := Tab.upd l.au.accounts (accountKey (refSource ref) m.day) (Account.retire m.charge)
        current := bankAdd (bankAdd l.au.current .recordsRetired 1) .chargeRetired m.charge } } := by
  have h : retireRecord ref m s = countUp .chargeRetired m.charge (countUp .recordsRetired 1
      (updAccount (refSource ref) m.day (Account.retire m.charge) (updPart m.day
        (fun p => { p with live := p.live.set m.cls (p.live.get m.cls - 1) }) (leaveStore m.day m.loc (dropEntry ref s))))) := rfl
  rw [h]
  rfl

/-- R140: all that a retirement does, in the terms of the statements. -/
theorem retireRecord_retiredAt (ref : Nat) (m : MapEntry) (s : State) : RetiredAt m.day ref m s (retireRecord ref m s) := by
  have upd (parts : Tab Partition) (d : Nat) : Tab.get (Tab.upd parts m.day fun p =>
      { p with live := p.live.set m.cls (p.live.get m.cls - 1) }) d =
      (Tab.get parts d).map fun x => { x with live := if d = m.day then x.live.set m.cls (x.live.get m.cls - 1) else x.live } := by
    rw [Tab.get_upd]
    by_cases h : d = m.day <;> cases Tab.get parts d <;> simp [h]
  rw [retireRecord_after]
  generalize hL : leaveStore m.day m.loc (dropEntry ref s) = l
  have frame : l.ix = { s.ix with map := Tab.del s.ix.map ref } ∧ l.au = s.au ∧ l.wa = { s.wa with packQueue := l.wa.packQueue } ∧
      l.ru = s.ru ∧ l.lp = s.lp ∧ l.ck = s.ck ∧ l.ie = s.ie ∧ l.qa = s.qa ∧ l.cl = s.cl ∧ l.power = s.power := by
    obtain ⟨p, q, ce, cs, hs, h, -⟩ := leaveStore_eq ref m s
    rw [h] at hL
    subst hL
    exact ⟨rfl, rfl, rfl, rfl, rfl, rfl, rfl, rfl, rfl, rfl⟩
  obtain ⟨hi, ha, hw, hk⟩ := frame
  refine { entry := hi, hot := fun n hn => ?_, segment := fun n o e hn he => ?_, arbiter := hw, audit := ?_, kept := hk }
  · have e : l = updPart m.day (fun p => { p with hotCount := p.hotCount - 1 }) (releaseSlot n (dropEntry ref s)) := by
      rw [← hL, hn]; rfl
    subst e
    refine ⟨fun k => ?_, fun d => (upd _ d).trans ?_, rfl, rfl, rfl⟩
    · split
      · rename_i h; subst h; exact Tab.get_del_self _ _
      · rename_i h; exact Tab.get_del_ne _ h
    · rw [show (updPart m.day (fun p => { p with hotCount := p.hotCount - 1 }) (releaseSlot n (dropEntry ref s))).pc.parts =
        Tab.upd s.pc.parts m.day (fun p => { p with hotCount := p.hotCount - 1 }) from rfl]
      rw [Tab.get_upd, part_def]
      by_cases h : d = m.day <;> cases Tab.get s.pc.parts d <;> simp [h]
  · have e' : l = segmentLoses n (dropEntry ref s) := by rw [← hL, hn]; rfl
    have hs : (dropEntry ref s).seg n = some e := he
    by_cases h1 : e.live ≤ 1
    · have e1 : l = freeSegment n e.day (dropEntry ref s) := by rw [e']; simp only [segmentLoses, hs, if_pos h1]
      rw [freeSegment_eq] at e1
      subst e1
      refine ⟨rfl, fun k => ?_, fun d => (upd _ d).trans ?_, (if_pos h1).symm, fun h => ?_⟩
      · split
        · rename_i h; subst h; exact Tab.get_del_self _ _
        · rename_i h; exact Tab.get_del_ne _ h
      · show (Tab.get (Tab.upd s.pc.parts e.day fun p => { p with segments := p.segments.filter (· != n) }) d).map _ = _
        rw [Tab.get_upd, part_def]
        by_cases h' : d = e.day <;> cases Tab.get s.pc.parts d <;> simp [h1, h']
      · have q := (h.resolve_left (by omega)).waiting_join
        rw [if_pos h1]
        show { s.wa with packQueue := joinDays s.ce.coldWait s.wa.packQueue } = _
        rw [q]
    · have e1 : l = updSeg n (fun e => { e with live := e.live - 1 }) (dropEntry ref s) := by rw [e']; simp only [segmentLoses, hs, if_neg h1]
      subst e1
      refine ⟨rfl, fun k => ?_, fun d => (upd _ d).trans ?_, (if_neg h1).symm, fun _ => by rw [if_neg h1]; rfl⟩
      · show Tab.get (Tab.upd s.cs.dir n fun e => { e with live := e.live - 1 }) k = _
        rw [Tab.get_upd]
        split
        · rename_i h; subst h
          have : Tab.get s.cs.dir k = some e := he
          rw [this]; rfl
        · rfl
      · show (Tab.get s.pc.parts d).map _ = _
        rw [part_def]
        cases Tab.get s.pc.parts d <;> simp [h1]
  · simp only [ha]
    rfl

end Sys2Proof.Machine
end

