-- ==== Sys2Proof/Tests/Slice0.lean ====
section
/-! SUPPORT. Tests on small states: the well-formedness checks, the codings against the spec's worked figures, one or two steps of each command
with results worked out by hand from the rules, and for each statement a witness that meets its hypotheses. -/

open Sys2Proof Sys2Proof.Machine Sys2Proof.Wire

namespace Sys2Proof.Tests

set_option Elab.async false

/-! ## Helpers -/

/-- A next state with a property. -/
def leads (o : Result) (p : State → Bool) : Bool :=
  match o with
  | .next t => p t
  | _ => false

/-- A request with its context bytes and reserved bytes at zero. -/
def rq (tag : Nat) (payload : Bytes) : Request := { tag := BitVec.ofNat 8 tag, ctx := 0, gen := 0, rsv := 0, payload := payload }

/-- A request for the file context 0, generation 1. -/
def rqFile (tag : Nat) (payload : Bytes) : Request := { tag := BitVec.ofNat 8 tag, ctx := 0, gen := 1, rsv := 0, payload := payload }

/-- The last frame queued: its tag, status and payload. -/
def State.lastFrame (s : State) : Option (Nat × Nat × Bytes) := s.lp.outQueue.getLast?.map fun f => (f.tag, f.status, f.payload)

/-- The link is OPEN and nothing else has happened. -/
def opened : State := State.reset.mapLp fun l => { l with link := .opened }

/-- 1,000 s into day 19,800, with the clock set. -/
def clocked : State := opened.mapCk fun k => { k with archiveTime := 1710721000, clockSet := true, rolloverDay := 19800 }

def file5 : OpenFile :=
  { source := 17, file := 5, received := 3, stored := 2, duplicates := 1, refused := 0, chargeSum := 1300, idle := 0 }

/-- File context 0, generation 1, is OPEN for source 17, file number 5. -/
def filing : State := clocked.mapIe fun e => { e with contexts := e.contexts.set 0 { generation := 1, file := some file5 } }

def hotRecord : CallRecord :=
  { source := 17, sequence := 1000, key := 447700123456, cls := .voice, start := 1710720010, duration := 100, volume := 0,
    charge := 1250, cell := none, partner := none, amendCount := 0, late := false, clamped := false }

def coldRecord : CallRecord :=
  { source := 17, sequence := 1002, key := 447700123500, cls := .data, start := 1710374410, duration := 10, volume := 7,
    charge := 5, cell := some 9, partner := some 3, amendCount := 0, late := true, clamped := false }

def member (r : CallRecord) (loc : Location) : Member := { ref := r.ref, loc := loc, copy := some r }

/-- The body that segment 0 holds: the one coded record. -/
def coldBody : Bytes := (cutRun 19796 [member coldRecord (.segment 0 0)] [] [] 0 none).2.1

def emptyPart : Partition := newPartition false

/-- Day 19,800, OPEN, with one voice record in a hot slot. -/
def hotPart : Partition := { emptyPart with live := { voice := 1, message := 0, data := 0, other := 0 }, hotCount := 1 }

/-- Day 19,796, PACKED, with one data record in segment 0. -/
def coldPart : Partition :=
  { emptyPart with state := .packed, dayClosed := true, quietElapsed := 1800, quietExpired := true,
                   live := { voice := 0, message := 0, data := 1, other := 0 }, segments := [0] }

def oneStored (charge : Nat) : Account := { Account.zero with stored := 1, storedSum := charge, live := 1 }

/-- The two days, their records, accounts and the segment, with the open file. -/
def archive : State :=
  ((((filing.mapPc fun _ => { parts := [(19796, coldPart), (19800, hotPart)] }).mapIx fun x =>
    { x with map := [(refOf 17 1000, hotRecord.entry (.hot 0)), (refOf 17 1002, coldRecord.entry (.segment 0 0))] }).mapHs fun _ =>
    { slots := [(0, hotRecord)] }).mapCs fun _ =>
    { dir := [(0, { segmentEntry 19796 [member coldRecord (.segment 0 0)] coldBody with state := .active, live := 1 })],
      bodies := [(0, coldBody)] }).mapAu fun a =>
    { a with accounts := [(accountKey 17 19796, oneStored 5), (accountKey 17 19800, oneStored 1250)] }

/-- A change of one day's partition. -/
def onDay (d : Nat) (f : Partition → Partition) (s : State) : State := updPart d f s

/-- A hold over one key, for all days and classes. -/
def hold (key bits : Nat) : Hold := { label := 7, key := key, maskBits := bits, firstDay := 0, lastDay := 49710, classMask := 15 }

theorem requested_of {k : Kind} {r : Request} {p : Params} {pool : Pool} {s : State}
    (h : s.lp.link = .opened ∧ frameWellFormed r = true ∧ s.lp.poolFor k.cls (blockNeed k.code r.payload) = some pool ∧
      Tab.get s.lp.tags r.tag.toNat = none ∧ checkedParams k r = some p) : Requested k r p pool s :=
  { opened := h.1, wellFormed := h.2.1, credit := h.2.2.1, tagFree := h.2.2.2.1, params := h.2.2.2.2 }

/-! ## Well-formedness -/

theorem test_wf_tag : Instr.wellFormed (.setTime (rq 64 (be 4 0))) = false := by decide
theorem test_wf_payload (p : Bytes) (h : p.length = 8193) : Instr.wellFormed (.records (rq 1 p)) = false := by
  simp [Instr.wellFormed, Request.wellFormed, frameWellFormed, rq, Config.payloadLimit, h]
theorem test_wf_frame : Instr.wellFormed (.frameCheck (requestBytes 0x01 (rq 1 (be 4 0)))) = false := by decide +kernel
theorem test_wf_kind : Instr.wellFormed (.unknownKind 0x01 (rq 1 [])) = false := by decide
theorem test_wf_unknownTag : Instr.wellFormed (.unknownKind 0xF0 (rq 64 [])) = false := by decide
theorem test_wf_day : Instr.wellFormed (.quietTimerExpiry 49711) = false := by decide
theorem test_wf_ctx : Instr.wellFormed (.fileIdleExpiry 32) = false := by decide
theorem test_wf_body (b : Bytes) (h : b.length = 524289) : Instr.wellFormed (.readCompletion (.altered b)) = false := by
  simp [Instr.wellFormed, ReadResult.wellFormed, Config.bodyLimit, h]

/-! ## Codings, against the spec's own figures -/

/-- R15's check value. -/
theorem test_crc : crc32 [0x31, 0x32, 0x33, 0x34, 0x35, 0x36, 0x37, 0x38, 0x39] = 0xCBF43926 := by decide +kernel
/-- R109: 3,600. -/
theorem test_varint : varint 3600 = [0x90, 0x1C] := by decide
theorem test_varint_groups : varint 16384 = [0x80, 0x80, 0x01] ∧ varint 127 = [0x7F] := by decide
/-- R11's record layout: length, format, amend count, source, sequence, key, start, duration, volume, charge, cell, partner. -/
theorem test_renderRecord : renderRecord coldRecord true =
    [0, 40, 0x5E, 0, 0, 17, 0, 0, 0, 0, 0x03, 0xEA, 0, 0x68, 0x3D, 0x01, 0xBF, 0x6C, 0x65, 0xF2, 0x3E, 0x0A, 0, 0, 0, 10, 0, 0, 0, 7,
     0, 0, 0, 5, 0, 0, 0, 9, 0, 3] := by decide
theorem test_decode : decodeBody (segmentEntry 19796 [member coldRecord (.segment 0 0)] coldBody) coldBody = some [coldRecord] := by decide +kernel

/-! ## Queue -/

theorem test_step_front : step { State.reset with pending := [.hello, .frameSend] } = exec .hello { State.reset with pending := [.frameSend] } := rfl
theorem test_step_idle : step State.reset = .next State.reset := rfl

/-! ## Commands -/

theorem test_powerOn : leads (exec (.powerOn false ⟨false, false⟩) (archive.mapPower fun p => { p with powered := false })) (fun t =>
    t.active && decide (t.ix = archive.ix) && !t.ck.clockSet && decide (t.lp.link = .resetting)) = true := by decide +kernel
theorem test_powerOn_lost : leads (exec (.powerOn false ⟨true, false⟩) (archive.mapPower fun p => { p with powered := false })) (fun t =>
    decide (t.ix.map = []) && decide (t.ck.archiveTime = 0) && decide (t.pc.parts = [])) = true := by decide +kernel
theorem test_resetPinAssert : leads (exec .resetPinAssert archive) (fun t =>
    t.power.warmReset && decide (t.lp.epoch = 1) && decide (t.ix = archive.ix) && decide (bankGet t.au.current .filesAborted = 1)) = true := by decide +kernel
theorem test_resetPinRelease : leads (exec .resetPinRelease (State.reset.mapPower fun p => { p with resetPin := true })) (fun t =>
    !t.power.resetPin) = true := by decide
theorem test_warmResetEnd : leads (exec .warmResetEnd ((onDay 19796 (fun p => { p with state := .quiet }) archive).mapPower fun p =>
    { p with warmReset := true })) (fun t => decide (t.wa.engine.map (·.kind) = some .pack) && !t.power.warmReset) = true := by decide +kernel
theorem test_laneLockLoss : leads (exec .laneLockLoss opened) (fun t => decide (t.lp.link = .resetting) && decide (t.lp.epoch = 1)) = true := by decide
theorem test_laneLockReturn : leads (exec .laneLockReturn (State.reset.mapPower fun p => { p with laneLock := false })) (fun t =>
    t.power.laneLock) = true := by decide
/-- R29: HELLO returns 4, 16, 8, 32 and 256 credits; the header's fields as 1.4 places them. -/
theorem test_hello : leads (exec .hello State.reset) (fun t => t.lp.wire.map (·.take 12) == [[0xFE, 0x80, 0, 0, 4, 16, 32, 1, 0, 8, 0, 0]]) = true := by decide
theorem test_frameSend : leads (exec .frameSend (opened.mapLp fun l =>
    { l with outQueue := [{ tag := 3, status := 0, payload := [0xAA], riders := 0, startsReset := false }], due := { Credits.zero with control := 1 },
             inUse := { Credits.zero with control := 2 } })) (fun t =>
    t.lp.wire.map (·.take 13) == [[3, 0, 0, 1, 1, 0, 0, 0, 0, 0, 0, 0, 0xAA]] && decide (t.lp.inUse.control = 1)) = true := by decide
theorem test_frameCheck_bad : leads (exec (.frameCheck [1, 2, 3]) opened) (fun t => State.lastFrame t == some (255, 0x83, [])) = true := by decide
theorem test_frameCheck_good : leads (exec (.frameCheck (requestBytes 0x01 (rq 5 (be 4 1710720000)))) opened) (fun t =>
    decide (t.ck.archiveTime = 1710720000)) = true := by decide +kernel
theorem test_unknownKind : leads (exec (.unknownKind 0xF0 (rq 5 [])) opened) (fun t => State.lastFrame t == some (5, 1, [])) = true := by decide
/-- R38: a rollover from day 0, and the time as left. -/
theorem test_setTime : leads (exec (.setTime (rq 5 (be 4 1710720000))) opened) (fun t =>
    decide (t.ck.rolloverDay = 19800) && State.lastFrame t == some (5, 0, [0x65, 0xF7, 0x84, 0x00, 1])) = true := by decide +kernel
theorem test_setTime_backward : leads (exec (.setTime (rq 5 (be 4 1710720999))) clocked) (fun t =>
    decide (t.ck = clocked.ck) && State.lastFrame t == some (5, 8, be 4 1710721000)) = true := by decide
theorem test_closeDay : leads (exec (.closeDay (rq 5 (be 2 19799))) ((onDay 19796 (fun p => { p with dayClosed := false }) archive).mapCk fun k =>
    { k with archiveTime := 1710374400 + 86400, rolloverDay := 19797 })) (fun t => State.lastFrame t == some (5, 3, [])) = true := by decide +kernel
theorem test_closeDay_closed : leads (exec (.closeDay (rq 5 (be 2 19796))) archive) (fun t => State.lastFrame t == some (5, 0, [4, 1])) = true := by decide +kernel
/-- R126: 5,000 days is held as 3,650 and listed as altered. -/
theorem test_setRetention : leads (exec (.setRetention (rq 5 (be 1 2 ++ be 2 5000 ++ be 1 0))) clocked) (fun t =>
    State.lastFrame t == some (5, 0, be 2 1 ++ be 1 2 ++ be 2 180 ++ be 2 3650)) = true := by decide
theorem test_setRetention_now : leads (exec (.setRetention (rq 5 (be 1 2 ++ be 2 3 ++ be 1 1))) archive) (fun t =>
    decide (t.ru.table.data = { active := 3, pending := 3 }) && decide (t.wa.engine.map (·.kind) = some .sweep)) = true := by decide +kernel
theorem test_placeHold : leads (exec (.placeHold (rq 5 (be 4 7 ++ be 6 447700123456 ++ be 1 8 ++ be 2 0 ++ be 2 49710 ++ be 1 15))) clocked) (fun t =>
    decide (t.ru.holds = [(1, hold 447700123456 8)]) && State.lastFrame t == some (5, 0, [1])) = true := by decide
theorem test_releaseHold : leads (exec (.releaseHold (rq 5 [1])) (archive.mapRu fun u => { u with holds := [(1, hold 1 0)] })) (fun t =>
    decide (t.ru.holds = []) && State.lastFrame t == some (5, 0, [0, 0])) = true := by decide +kernel
theorem test_listHolds : leads (exec (.listHolds (rq 5 [])) (clocked.mapRu fun u => { u with holds := [(2, hold 258 8)] })) (fun t =>
    State.lastFrame t == some (5, 0, [0, 1, 2, 0, 0, 0, 7, 0, 0, 0, 0, 1, 2, 8, 0, 0, 0xC2, 0x2E, 15])) = true := by decide
/-- R175: setting 1 clamped to 7, and setting 8 raised above setting 7. -/
theorem test_setConfig : leads (exec (.setConfig (rq 5 (be 2 2 ++ be 1 1 ++ be 4 9 ++ be 1 7 ++ be 4 9000000))) opened) (fun t =>
    decide (t.cl.settings.graceDays = 7) && decide (t.cl.settings.highWatermark = 9000001) &&
    State.lastFrame t == some (5, 0, [0, 2, 1, 8])) = true := by decide +kernel
theorem test_saveConfig : leads (exec (.saveConfig (rq 5 [])) opened) (fun t => decide (t.cl.saving.map (·.step) = some 1)) = true := by decide
theorem test_eepromWriteCompletion : leads (exec (.eepromWriteCompletion true) (opened.mapCl fun c =>
    { c with saving := some { step := 2, copied := [], tag := 5, epoch := 0 } })) (fun t =>
    decide (t.cl.saving = none) && State.lastFrame t == some (5, 17, [])) = true := by decide
theorem test_readStatus : leads (exec (.readStatus (rq 5 [0])) archive) (fun t => State.lastFrame t == some (5, 0,
    be 4 1710721000 ++ [1] ++ be 4 510 ++ be 4 1 ++ be 4 0 ++ be 4 0 ++ be 4 1 ++ be 4 0 ++ be 4 67108863 ++ be 8 2 ++ be 4 2 ++ be 4 1
      ++ be 4 0 ++ be 4 0 ++ [0, 1, 0, 0, 1])) = true := by decide +kernel
theorem test_readCounters : leads (exec (.readCounters (rq 5 [0])) opened) (fun t => State.lastFrame t == some (5, 0, List.replicate 173 0)) = true := by decide +kernel
theorem test_clearCounters : leads (exec (.clearCounters (rq 5 [])) (opened.mapAu fun a => { a with current := List.replicate 40 9 })) (fun t =>
    decide (t.au.current = List.replicate 40 0)) = true := by decide
theorem test_partitionInfo : leads (exec (.partitionInfo (rq 5 (be 2 19796 ++ be 4 0))) archive) (fun t => State.lastFrame t == some (5, 0,
    be 2 19796 ++ [4, 1] ++ be 4 1800 ++ [1] ++ be 8 0 ++ be 8 0 ++ be 8 1 ++ be 8 0 ++ be 8 0 ++ [0, 0, 0, 0, 0, 0, 0] ++ be 4 1 ++ be 2 1
      ++ be 4 0)) = true := by decide +kernel
theorem test_reset : leads (exec (.reset (rq 5 [])) opened) (fun t => decide (t.lp.outQueue.map (·.startsReset) = [false, true])) = true := by decide
theorem test_linkReset : leads (exec (.linkReset (rq 5 [])) archive) (fun t =>
    decide (t.lp.link = .resetting) && decide (t.lp.epoch = 1) && decide (t.ie = archive.ie)) = true := by decide +kernel
theorem test_fileOpen : leads (exec (.fileOpen (rq 5 (be 2 17 ++ be 4 6))) filing) (fun t => State.lastFrame t == some (5, 0, [1, 1])) = true := by decide +kernel
theorem test_fileOpen_again : leads (exec (.fileOpen (rq 5 (be 2 17 ++ be 4 5))) filing) (fun t => State.lastFrame t == some (5, 5, [0, 1])) = true := by decide +kernel
theorem test_records_empty : leads (exec (.records (rqFile 5 [])) filing) (fun t => State.lastFrame t == some (5, 0, List.replicate 10 0)) = true := by decide +kernel
theorem test_records : leads (exec (.records (rqFile 5 (renderRecord hotRecord false))) filing) (fun t =>
    decide (t.ie.queue.length = 1) && t.ie.drain.isSome && decide (t.lp.inUse.block = 1)) = true := by decide +kernel
/-- R74: 3 received of 4 declared is SHORT. -/
theorem test_fileClose : leads (exec (.fileClose (rqFile 5 ([1] ++ be 8 4 ++ be 8 1300))) filing) (fun t =>
    State.lastFrame t == some (5, 0, [1] ++ be 8 3 ++ be 8 2 ++ be 8 1 ++ be 8 0 ++ be 8 1300) &&
    decide (bankGet t.au.current .filesShort = 1)) = true := by decide +kernel
theorem test_fileAbort : leads (exec (.fileAbort (rqFile 5 [])) filing) (fun t =>
    (State.lastFrame t).map (fun f => f.2.2.take 1) == some [5] && decide (t.ie.contexts.head?.map (·.generation) = some 1)) = true := by decide +kernel
theorem test_fetch_hot : leads (exec (.fetch (rq 5 (be 8 (refOf 17 1000)))) archive) (fun t =>
    State.lastFrame t == some (5, 0, renderRecord hotRecord false) && decide (bankGet t.au.current .queriesServed = 1)) = true := by decide +kernel
theorem test_fetch_cold : leads (exec (.fetch (rq 5 (be 8 (refOf 17 1002)))) archive) (fun t =>
    decide (t.wa.engine.map (fun g => (g.quantum, g.seg)) = some (.decode, 0)) && decide ((t.part 19796).map (·.pins) = some 1)) = true := by decide +kernel
theorem test_querySubscriber : leads (exec (.querySubscriber (rq 5 (be 6 447700123456 ++ be 2 19800 ++ be 2 19800 ++ [15, 0, 0]))) archive) (fun t =>
    State.lastFrame t == some (5, 0, [0, 1] ++ be 2 19800 ++ be 4 1710720010 ++ be 8 (refOf 17 1000) ++ be 8 0 ++ be 2 1 ++ renderRecord hotRecord false)) = true := by decide +kernel
theorem test_amend : leads (exec (.amend (rq 5 (be 8 (refOf 17 1000) ++ [0] ++ be 4 1000 ++ [0, 0]))) archive) (fun t =>
    State.lastFrame t == some (5, 0, [1, 0, 0]) &&
    decide ((Tab.get t.au.accounts (accountKey 17 19800)).map (fun a => (a.amends, a.amendDelta)) = some (1, -250))) = true := by decide +kernel
theorem test_amend_conflict : leads (exec (.amend (rq 5 (be 8 (refOf 17 1000) ++ [1] ++ be 4 1000 ++ [0, 0]))) archive) (fun t =>
    State.lastFrame t == some (5, 10, [0])) = true := by decide +kernel
theorem test_readAccount : leads (exec (.readAccount (rq 5 (be 2 17 ++ be 2 19800))) archive) (fun t => State.lastFrame t == some (5, 0,
    be 8 1 ++ be 8 0 ++ be 8 1250 ++ be 8 0 ++ be 8 0 ++ be 8 0 ++ be 8 0 ++ be 8 1 ++ be 8 1250)) = true := by decide +kernel
/-- R156: one voice record of 100 s (bucket 2). -/
theorem test_auditScan : leads (exec (.auditScan (rq 5 (be 2 0 ++ be 2 0 ++ [1] ++ be 2 19800 ++ be 2 19800 ++ be 6 0 ++ be 6 0 ++ [0, 0]))) archive) (fun t =>
    State.lastFrame t == some (5, 0, be 4 1 ++ be 8 1 ++ be 8 100 ++ be 8 0 ++ be 8 1250 ++ be 8 0 ++ be 8 0 ++ be 8 1 ++ be 8 0 ++ be 8 0 ++ be 8 0
      ++ be 8 0 ++ [1] ++ be 4 1710720010 ++ [1] ++ be 4 1710720010)) = true := by decide +kernel
theorem test_verifyDays : leads (exec (.verifyDays (rq 5 (be 2 19796 ++ be 2 19800))) archive) (fun t =>
    decide (t.wa.engine.map (fun g => (g.quantum, g.seg)) = some (.check, 0)) && decide (t.au.slots.length = 1)) = true := by decide +kernel
theorem test_cancel : leads (exec (.cancel (rq 5 [9])) archive) (fun t => State.lastFrame t == some (5, 18, [])) = true := by decide +kernel

/-- A drain of one batch, the record at hand 20 s into day 19,800. -/
def batch (payload : Bytes) : BatchEntry := { kind := .records, tag := 6, ctx := 0, gen := 1, rsv := 0, epoch := 0, payload := payload }

def draining (payload : Bytes) : State := archive.mapIe fun e => { e with queue := [batch payload], drain := some newDrain }

def newRecord : CallRecord := { hotRecord with sequence := 2000, start := 1710720020, duration := 700000 }

theorem test_recordEvent_stores : leads (exec .recordEvent (draining (renderRecord newRecord false ++ renderRecord hotRecord false))) (fun t =>
    decide ((Tab.get t.hs.slots 1).map (fun r => (r.duration, r.clamped)) = some (604800, true)) &&
    decide ((t.part 19800).map (·.live.voice) = some 2) && decide (bankGet t.au.current .durationBucket5 = 1)) = true := by decide +kernel
/-- R73: one record, a duplicate and no conflict. -/
theorem test_recordEvent_duplicate : leads (exec .recordEvent (draining (renderRecord hotRecord false))) (fun t =>
    State.lastFrame t == some (6, 0, [1, 0, 1, 0, 0, 0, 0, 0, 0, 0]) && decide (t.ie.queue = [])) = true := by decide +kernel
theorem test_secondEvent : leads (exec .secondEvent archive) (fun t =>
    decide (t.ck.archiveTime = 1710721001) && decide (bankGet t.au.current .hotSlotSeconds = 1) &&
    decide ((t.part 19800).map (·.quietElapsed) = some 1)) = true := by decide +kernel
theorem test_secondEvent_rollover : leads (exec .secondEvent (archive.mapCk fun k => { k with archiveTime := 1710806399 })) (fun t =>
    decide (t.ck.rolloverDay = 19801) && decide (t.au.captureDay = some 19801)) = true := by decide +kernel

/-- Day 19,800 closed, its timer at the interval of code 8. -/
def timed : State := onDay 19800 (fun p => { p with dayClosed := true, quietElapsed := 1800 }) archive

theorem test_quietTimerExpiry : leads (exec (.quietTimerExpiry 19800) timed) (fun t =>
    decide ((t.part 19800).map (·.state) = some .packing) && decide (t.wa.engine.map (·.quantum) = some .sort)) = true := by decide +kernel
theorem test_quietTimerExpiry_early : leads (exec (.quietTimerExpiry 19800) archive) (fun t => decide (t = archive)) = true := by decide +kernel

def idle : State := filing.mapIe fun e => { e with contexts := e.contexts.set 0 { generation := 1, file := some { file5 with idle := 600 } } }

theorem test_fileIdleExpiry : leads (exec (.fileIdleExpiry 0) idle) (fun t =>
    decide (t.openContexts = 0) && decide (bankGet t.au.current .filesTimedOut = 1)) = true := by decide +kernel

def patrolled : State := archive.mapAu fun a => { a with patrolElapsed := 60 }

theorem test_patrolTimerExpiry : leads (exec .patrolTimerExpiry patrolled) (fun t =>
    decide (t.wa.engine.map (fun g => (g.quantum, g.who, g.seg)) = some (.check, .patrol, 0))) = true := by decide +kernel
theorem test_millisecondTick : leads (exec .millisecondTick (State.reset.mapWa fun w => { w with elapsed := 49 })) (fun t =>
    decide (t.wa.phase = .rest) && decide (t.wa.elapsed = 0) && decide (t.ck.tick = 1)) = true := by decide
theorem test_throttlePhaseEnd : leads (exec .throttlePhaseEnd (State.reset.mapWa fun w => { w with phase := .rest, elapsed := 5 })) (fun t =>
    decide (t.wa.phase = .active)) = true := by decide

/-- The pack job of day 19,800, its sort under way. -/
def sorting : State :=
  ((onDay 19800 (fun p => { p with state := .packing, dayClosed := true }) archive).mapCe fun c =>
    { c with job := some (newJob false 19800 .encoding [member hotRecord (.hot 0)] [member hotRecord (.hot 0)] []) }).mapWa fun w =>
    { w with engine := some { kind := .pack, who := .job, quantum := .sort, seg := 0 } }

theorem test_sortEnd : leads (exec .sortEnd sorting) (fun t =>
    decide (t.wa.engine.map (fun g => (g.quantum, g.seg)) = some (.write, 1)) && decide ((t.seg 1).map (·.state) = some .writing)) = true := by decide +kernel

/-- The body of the segment that the job of day 19,800 writes. -/
def writtenBody : Bytes := (cutRun 19800 [member hotRecord (.hot 0)] [] [] 0 none).2.1

/-- The same job, with its one segment's write under way. -/
def writing : State :=
  ((sorting.mapCe fun c => { c with job := c.job.map fun j => { j with run := [member hotRecord (.hot 0)], body := writtenBody, writing := some 1 } }).mapCs fun c =>
    { c with dir := Tab.put c.dir 1 (segmentEntry 19800 [member hotRecord (.hot 0)] writtenBody) }).mapWa fun w =>
    { w with engine := some { kind := .pack, who := .job, quantum := .write, seg := 1 } }

theorem test_writeCompletion : leads (exec (.writeCompletion false) writing) (fun t =>
    decide (t.hs.slots = []) && decide ((t.lookup (refOf 17 1000)).map (·.loc) = some (.segment 1 0)) &&
    decide ((t.part 19800).map (fun p => (p.state, p.hotCount, p.segments)) = some (.packed, 0, [1]))) = true := by decide +kernel
theorem test_writeCompletion_fault : leads (exec (.writeCompletion true) writing) (fun t =>
    decide (t.hs = archive.hs) && decide (t.cs = archive.cs) && decide (bankGet t.au.current .packFailures = 1)) = true := by decide +kernel

/-- A FETCH of the cold record that reads segment 0. -/
def fetching : State :=
  ((onDay 19796 (fun p => { p with pins := 1 }) archive).mapQa fun q =>
    { q with contexts := [(0, { tag := 6, epoch := 0, stage := .quantum, cancelling := false, day := 19796, seg := 0, ord := 0,
                                work := .fetch (refOf 17 1002) })] }).mapWa fun w =>
    { w with engine := some { kind := .query, who := .query 0, quantum := .decode, seg := 0 } }

theorem test_decodeCompletion : leads (exec (.decodeCompletion .stored) fetching) (fun t =>
    State.lastFrame t == some (6, 0, renderRecord coldRecord false) && decide (t.qa.contexts = [])) = true := by decide +kernel
theorem test_decodeCompletion_altered : leads (exec (.decodeCompletion (.altered [1, 2, 3])) fetching) (fun t =>
    State.lastFrame t == some (6, 9, []) && decide ((t.seg 0).map (·.state) = some .damaged) && t.au.damageFound) = true := by decide +kernel

/-- A patrol step that checks segment 0. -/
def checking : State :=
  ((onDay 19796 (fun p => { p with pins := 1 }) archive).mapAu fun a =>
    { a with patrol := some { began := some 19796, wrapped := false, day := 19796, seg := 0, place := 0, stage := .quantum } }).mapWa fun w =>
    { w with engine := some { kind := .patrol, who := .patrol, quantum := .check, seg := 0 } }

theorem test_readCompletion : leads (exec (.readCompletion .stored) checking) (fun t =>
    decide (t.au.patrol = none) && decide ((t.au.cursorDay, t.au.cursorPlace) = (19796, 1)) && !t.au.damageFound) = true := by decide +kernel
theorem test_readCompletion_fault : leads (exec (.readCompletion .fault) checking) (fun t =>
    t.au.damageFound && decide (bankGet t.au.current .segmentsDamaged = 1)) = true := by decide +kernel

/-- A sweep quantum on day 19,796, data retention 3 days, the entry of the cold record next. -/
def sweeping : State :=
  ((onDay 19796 (fun p => { p with expiryDue := { voice := false, message := false, data := true, other := false }, moverHolding := true }) archive).mapRu fun u =>
    { u with table := { u.table with data := { active := 3, pending := 3 } }, queue := [(19796, { walk := none, restart := false })],
             sweep := some { day := 19796, stage := .running, decided := 0 } }).mapWa fun w =>
    { w with engine := some { kind := .sweep, who := .sweep, quantum := .sweep, seg := 0 } }

theorem test_sweepDecision : leads (exec .sweepDecision sweeping) (fun t =>
    decide (t.lookup (refOf 17 1002) = none) && decide (t.part 19796 = none) && decide (t.cs.dir = []) &&
    decide (t.au.accounts.map (·.1) = [accountKey 17 19800]) && decide (bankGet t.au.current .recordsRetired = 1)) = true := by decide +kernel
theorem test_sweepDecision_held : leads (exec .sweepDecision (sweeping.mapRu fun u => { u with holds := [(1, hold 447700123500 0)] })) (fun t =>
    (t.lookup (refOf 17 1002)).isSome && decide ((t.part 19796).map (·.heldRemainder.data) = some true) && decide (bankGet t.au.current .heldSkips = 1)) = true := by decide +kernel
theorem test_lossOfNodePower : leads (exec .lossOfNodePower archive) (fun t =>
    !t.power.powered && decide (t.ix = archive.ix) && decide (t.ck.archiveTime = 1710721000) && !t.ck.clockSet) = true := by decide +kernel

/-! ## Witnesses: for each statement with hypotheses, states and operands that meet them -/

theorem settledOf {s : State} (h : internal Turn.placing s = none) : Settled s := h

theorem acceptedOf {k : Kind} {r : Request} {pool : Pool} {s : State}
    (h : s.lp.link = .opened ∧ frameWellFormed r = true ∧ s.lp.poolFor k.cls (blockNeed k.code r.payload) = some pool ∧
      Tab.get s.lp.tags r.tag.toNat = none) : Accepted k r pool s :=
  { opened := h.1, wellFormed := h.2.1, credit := h.2.2.1, tagFree := h.2.2.2 }

theorem drainsOf {k : Kind} {r : Request} {p : Params} {pool : Pool} {s : State}
    (h : s.lp.link = .opened ∧ frameWellFormed r = true ∧ s.lp.poolFor k.cls (blockNeed k.code r.payload) = some pool ∧
      Tab.get s.lp.tags r.tag.toNat = none ∧ headerOk k r.ctx.toNat r.gen.toNat r.rsv.toNat = true ∧ readParams k r.payload = some p ∧
      s.ie.queue = [] ∧ s.ie.drain = none ∧ internal Turn.placing s = none ∧ s.active = true) : DrainsAtOnce k r p pool s :=
  { opened := h.1, wellFormed := h.2.1, credit := h.2.2.1, tagFree := h.2.2.2.1, header := h.2.2.2.2.1, params := h.2.2.2.2.2.1,
    queueEmpty := h.2.2.2.2.2.2.1, noDrain := h.2.2.2.2.2.2.2.1, settled := h.2.2.2.2.2.2.2.2.1, active := h.2.2.2.2.2.2.2.2.2 }

theorem ofParts {P : Nat → Partition → Prop} {s : State} (h : ∀ e ∈ s.pc.parts, P e.1 e.2) (d : Nat) (p : Partition) (hp : s.part d = some p) :
    P d p := h (d, p) (Tab.mem_of_get hp)

theorem perClass {P : CallClass → Prop} (a : P .voice) (b : P .message) (c : P .data) (d : P .other) : ∀ c, P c
  | .voice => a
  | .message => b
  | .data => c
  | .other => d

theorem perKind {P : JobKind → Prop} (a : P .query) (b : P .pack) (c : P .repack) (d : P .sweep) (e : P .verify) (f : P .scan) (g : P .patrol) :
    ∀ k, P k
  | .query => a
  | .pack => b
  | .repack => c
  | .sweep => d
  | .verify => e
  | .scan => f
  | .patrol => g

/-! ### Invariants and whole-machine statements -/

/-- archive with a command in front of its queue. -/
def fronted (c : Instr) : State := { archive with pending := [c] }

theorem archive_keyed : TablesKeyed archive := by unfold TablesKeyed; decide +kernel
theorem fronted_keyed (c : Instr) : TablesKeyed (fronted c) := archive_keyed
theorem witness_StepRunsFrontCommand : (fronted .hello).pending = .hello :: [] ∧ archive.pending = [] := ⟨rfl, rfl⟩
theorem witness_ClockInvariantKept : ClockInv (fronted .secondEvent) ∧ ∃ t, step (fronted .secondEvent) = .next t :=
  ⟨⟨by decide, fun _ => by decide⟩, _, rfl⟩
theorem witness_SettingsStayInRange : SettingsInRange (fronted .secondEvent) ∧ ∃ t, step (fronted .secondEvent) = .next t := by
  refine ⟨?_, _, rfl⟩
  unfold SettingsInRange
  refine ⟨by decide, by decide, by decide, by decide, by decide, by decide, by decide, by decide, by decide, by decide, by decide, by decide,
    ?_, by decide, by decide, by decide, by decide, ?_⟩
  · exact perKind (by decide) (by decide) (by decide) (by decide) (by decide) (by decide) (by decide)
  · exact perClass (by decide) (by decide) (by decide) (by decide)
theorem witness_TablesStayKeyed : TablesKeyed (fronted .secondEvent) ∧ ∃ t, step (fronted .secondEvent) = .next t :=
  ⟨fronted_keyed _, _, rfl⟩

/-- A SAVE_CONFIG waits in the input frame buffer, a second event in front of the queue. -/
def buffered : State := (fronted .secondEvent).mapLp fun l =>
  { l with buffer := [{ kind := .saveConfig, tag := 5, epoch := 0, pool := .control, params := .saveConfig }] }

theorem buffered_within : WithinCapacity buffered :=
  { partitions := by decide +kernel, references := by decide +kernel, hotSlots := by decide +kernel, segments := by decide +kernel,
    accounts := by decide +kernel, holds := by decide +kernel, sweeps := by decide +kernel, tags := by decide +kernel,
    queryContexts := by decide +kernel, amendments := by decide +kernel, flights := by decide +kernel, scanSlots := by decide +kernel, fileContexts := by decide +kernel,
    banks := by decide +kernel, pointers := by decide +kernel }
theorem buffered_fits : BufferFits buffered := fun b h => by
  cases h with
  | head => exact ⟨by decide, [], rfl⟩
  | tail _ h => cases h
theorem witness_CapacitiesKept : TablesKeyed buffered ∧ WithinCapacity buffered ∧ CreditsCover buffered ∧ BufferFits buffered ∧
    ∃ t, step buffered = .next t :=
  ⟨archive_keyed, buffered_within,
   { pools := by decide +kernel, frames := by decide +kernel, blocks := by decide +kernel, resetting := by decide +kernel }, buffered_fits, _, rfl⟩

/-- Every credit in use, 32 entries in the Batch Queue and 256 blocks in the Staging Buffer. -/
def brimming : State := (buffered.mapLp fun l => { l with inUse := fullCredits }).mapIe fun e =>
  { e with queue := List.replicate 16 (batch (List.replicate 8192 0)) ++ List.replicate 16 (batch []) }

theorem witness_CapacitiesKept_full : brimming.ie.queue.length = 32 ∧ brimming.stagedBlocks = 256 ∧ TablesKeyed brimming ∧
    WithinCapacity brimming ∧ CreditsCover brimming ∧ BufferFits brimming ∧ ∃ t, step brimming = .next t := by
  have h : brimming.stagedBlocks = 256 := by decide +kernel
  obtain ⟨a, b, c, d, e, f, g, i, j, k, l, m, n, o, q⟩ := buffered_within
  exact ⟨by decide +kernel, h, archive_keyed, ⟨a, b, c, d, e, f, g, i, j, k, l, m, n, o, q⟩,
    { pools := by decide +kernel, frames := by decide +kernel, blocks := by decide +kernel, resetting := by decide +kernel }, buffered_fits, _, rfl⟩

/-- Day 19,796 with 8 pins and a mover behind a reader in its wait queue, day 19,800 held by a mover. -/
def shared : State := { onDay 19796 (fun p => { p with pins := 8, waitQueue := [.query 0, .move 1], moverWaiting := true })
  (onDay 19800 (fun p => { p with moverHolding := true, waitQueue := [.scan 0] }) archive) with pending := [.secondEvent] }

theorem witness_PinsAndMoversKept : TablesKeyed shared ∧ (∀ e ∈ shared.pc.parts, PinsAndMovers e.2) ∧ ∃ t, step shared = .next t := by
  refine ⟨by unfold TablesKeyed; decide +kernel, fun e he => ?_, _, rfl⟩
  have h : shared.pc.parts = [(19796, { coldPart with pins := 8, waitQueue := [.query 0, .move 1], moverWaiting := true }),
    (19800, { hotPart with moverHolding := true, waitQueue := [.scan 0] })] := by decide +kernel
  rw [h] at he
  simp only [List.mem_cons, List.not_mem_nil, or_false] at he
  obtain rfl | rfl := he
  · exact { pins := by decide, holding := by decide, waiting := ⟨fun _ => ⟨.move 1, by simp, .inr (.inr ⟨1, rfl⟩)⟩, fun _ => rfl⟩ }
  · refine { pins := by decide, holding := fun _ => rfl, waiting := ⟨fun h => (by cases h), fun ⟨w, hw, h⟩ => ?_⟩ }
    obtain rfl : w = .scan 0 := by simpa using hw
    obtain h | h | ⟨_, h⟩ := h <;> cases h

/-- Day 19,799 is QUIET and waits for a FREE segment slot. -/
def waitingDay (s : State) : State :=
  (s.mapPc fun t => { t with parts := Tab.put t.parts 19799 { emptyPart with state := .quiet, dayClosed := true } }).mapCe fun e =>
    { e with coldFull := true, coldWait := [19799] }

/-- What `QueuesAgree` asks, read off the entries. -/
theorem agreeOf {s : State} (h : (decide s.wa.packQueue.Nodup && s.wa.packQueue.all (fun d => decide ((s.part d).map (·.state) = some .quiet)) &&
    decide s.wa.repackQueue.Nodup && s.wa.repackQueue.all (fun d => decide ((s.part d).map (·.state) = some .packed)) &&
    decide (s.ce.coldWait.Pairwise (· < ·)) &&
    s.ce.coldWait.all (fun d => decide ((s.part d).map (·.state) = some .quiet) && decide (d ∉ s.wa.packQueue)) && s.active &&
    s.pc.parts.all (fun e => decide (e.2.state ≠ .quiet) || decide (e.1 ∈ s.wa.packQueue ∨ e.1 ∈ s.ce.coldWait)) &&
    s.ce.job.all (fun j => decide ((s.part j.day).map (·.state) = some (if j.repack then PartState.repacking else .packing))) &&
    s.ru.sweep.all fun w => decide ((s.part w.day).map (·.state) ≠ some .packing ∧ (s.part w.day).map (·.state) ≠ some .repacking)) = true) :
    QueuesAgree s := by
  simp only [Bool.and_eq_true, List.all_eq_true, Option.all_eq_true, Bool.or_eq_true, decide_eq_true_eq] at h
  obtain ⟨⟨⟨⟨⟨⟨⟨⟨⟨h1, h2⟩, h3⟩, h4⟩, h5⟩, h6⟩, h7⟩, h8⟩, h9⟩, h10⟩ := h
  exact .of_entries ⟨h1, h2⟩ ⟨h3, h4⟩ ⟨h5, h6⟩ h7 (fun e he hq => (h8 e he).resolve_left fun n => n hq) (fun j hj => h9 j hj) fun w hw => h10 w hw

/-- Each of the queues holds a day: 19,797 the pack queue, 19,796 the repack queue with a sweep waiting, 19,799 the wait, 19,800 the job. -/
def queued : State :=
  { (((waitingDay sorting).mapPc fun t => { t with parts := Tab.put t.parts 19797 { emptyPart with state := .quiet, dayClosed := true } }).mapWa fun w =>
      { w with packQueue := [19797], repackQueue := [19796] }).mapRu fun u =>
      { u with queue := [(19796, { walk := none, restart := false })], sweep := some { day := 19796, stage := .waiting, decided := 0 } } with
    pending := [.secondEvent] }

theorem witness_QueuesOfDaysAgree : TablesKeyed queued ∧ QueuesAgree queued ∧ ∃ t, step queued = .next t :=
  ⟨by unfold TablesKeyed; decide +kernel, agreeOf (by decide +kernel), _, rfl⟩
theorem witness_LiveRecordsStayLive : Instr.secondEvent ≠ .sweepDecision ∧ startsUp .secondEvent = false ∧
    (∃ t, exec .secondEvent archive = .next t) ∧ (archive.lookup (refOf 17 1000)).isSome := ⟨by decide, rfl, ⟨_, rfl⟩, by decide⟩
theorem witness_HoldsAndClockGuarded_holds : (∀ r, Instr.secondEvent ≠ .placeHold r) ∧ (∀ r, Instr.secondEvent ≠ .releaseHold r) ∧
    (∀ b, Instr.secondEvent ≠ .frameCheck b) ∧ (∀ k r, Instr.secondEvent ≠ .unknownKind k r) ∧ startsUp .secondEvent = false ∧
    ∃ t, exec .secondEvent archive = .next t := by
  refine ⟨?_, ?_, ?_, ?_, rfl, _, rfl⟩ <;> intros <;> exact Instr.noConfusion
theorem witness_HoldsAndClockGuarded_clock : startsUp .secondEvent = false ∧ (∃ t, exec .secondEvent archive = .next t) ∧
    Instr.secondEvent ≠ .lossOfNodePower ∧ archive.ck.clockSet = true := ⟨rfl, ⟨_, rfl⟩, by decide, rfl⟩

/-! ### Arrival -/

theorem witness_FrameCheckRow_resetting : State.reset.lp.link = .resetting ∧ Settled State.reset := ⟨rfl, settledOf (by decide)⟩

/-- Every credit in use. -/
def crowded : State := opened.mapLp fun l => { l with inUse := fullCredits }

theorem witness_CreditAndTagNotices_credit : crowded.lp.link = .opened ∧ frameWellFormed (rq 63 []) = true ∧ Settled crowded ∧
    (∀ k : Kind, crowded.lp.poolFor k.cls (blockNeed k.code (rq 63 []).payload) = none) ∧
    kindOfCode (0xF0 : Byte).toNat = none ∧ crowded.lp.poolFor .control 0 = none :=
  ⟨rfl, by decide, settledOf (by decide), fun k => by cases k <;> decide, by decide, by decide⟩

def tagged : State := opened.mapLp fun l => { l with tags := [(63, { code := 1, cls := .control, pool := .control, epoch := 0 })] }

theorem witness_CreditAndTagNotices_tag : tagged.lp.link = .opened ∧ frameWellFormed (rq 63 []) = true ∧ Settled tagged ∧
    Kind.setTime ≠ .linkReset ∧ tagged.lp.poolFor Kind.setTime.cls (blockNeed Kind.setTime.code (rq 63 []).payload) = some .control ∧
    (Tab.get tagged.lp.tags (rq 63 []).tag.toNat).isSome ∧ kindOfCode (0xF0 : Byte).toNat = none ∧ tagged.lp.poolFor .control 0 = some .control :=
  ⟨rfl, by decide, settledOf (by decide), by decide, by decide, by decide, by decide, by decide⟩
theorem witness_MalformedRequestAnswered : Kind.closeDay ≠ .linkReset ∧ Kind.closeDay.cls ≠ .ingest ∧ Accepted .closeDay (rq 0 [1]) .control opened ∧
    checkedParams .closeDay (rq 0 [1]) = none ∧ Settled opened ∧ kindOfCode (0xF0 : Byte).toNat = none :=
  ⟨by decide, by decide, acceptedOf (by decide), by decide, settledOf (by decide), by decide⟩

def saving : State := opened.mapCl fun c => { c with saving := some { step := 1, copied := defaultValues, tag := 9, epoch := 0 } }

theorem witness_RequestWaitsForItsBlock : Kind.saveConfig.server ≠ .ready ∧ Requested .saveConfig (rq 5 []) .saveConfig .control saving ∧
    saving.ready Kind.saveConfig.server = false ∧ Settled saving := ⟨by decide, requested_of (by decide), by decide, settledOf (by decide)⟩

/-- Every query context in use. -/
def busyUnit : State := archive.mapQa fun q =>
  { q with contexts := (List.range 64).map fun c =>
      (c, { tag := c, epoch := 1, stage := .grantWait, cancelling := false, day := 19796, seg := 0, ord := 0, work := .fetch 0 }) }

theorem witness_RequestWaitsForItsBlock_query : Kind.fetch.server ≠ .ready ∧ Requested .fetch (rq 5 (be 8 0)) (.fetch 0) .query busyUnit ∧
    busyUnit.ready Kind.fetch.server = false ∧ Settled busyUnit :=
  ⟨by decide, requested_of (by decide +kernel), by decide +kernel, settledOf (by decide +kernel)⟩
theorem witness_FrameCheckRow : opened.lp.link = .opened ∧ readFrame [] = none ∧
    (readFrame (requestBytes 0x01 (rq 5 []))).map (·.1) = some 1 ∧ (readFrame (requestBytes 0xF0 (rq 5 []))).map (·.1) = some 0xF0 ∧
    kindOfCode 1 = some .setTime ∧ kindOfCode 0xF0 = none ∧ Settled opened ∧ frameWellFormed (rq 64 []) = false :=
  ⟨rfl, by decide, by decide +kernel, by decide +kernel, by decide, by decide, settledOf (by decide), by decide⟩
theorem witness_FrameRoundTrip : 255 < 256 ∧ frameWellFormed (rq 63 [1, 2]) = true := by decide
/-- A warm reset in progress. -/
def warm : State := archive.mapPower fun p => { p with warmReset := true }

/-- Start-up waiting for the release of the RESET input. -/
def waitingStart : State := State.reset.mapPower fun p =>
  { p with startUp := some { eepromFault := false, resetDuring := false }, resetPin := true }

/-- HELLO's conditions hold, and fail one by one. -/
theorem witness_HelloAndThePins : (State.reset.active = true ∧ State.reset.lp.link = .resetting ∧ State.reset.power.laneLock = true ∧
      State.reset.ie.queue = [] ∧ State.reset.power.resetPin = false) ∧ warm.active = false ∧ opened.lp.link = .opened ∧
    (State.reset.mapPower fun p => { p with laneLock := false }).power.laneLock = false ∧
    (State.reset.mapIe fun e => { e with queue := [{ kind := .records, tag := 6, ctx := 0, gen := 1, rsv := 0, epoch := 0, payload := [] }] }).ie.queue ≠ [] ∧
    (State.reset.mapPower fun p => { p with resetPin := true }).power.resetPin = true ∧ State.reset.power.startUp = none := by decide
theorem witness_HelloAndThePins_pin : (∀ s ∈ [waitingStart, warm, State.reset.mapPower fun p => { p with resetPin := true }],
    (s.active && !s.power.resetPin) = false) := by decide +kernel

def sendable (starts : Bool) : State := opened.mapLp fun l =>
  { l with outQueue := [{ tag := 63, status := 0, payload := [], riders := 0, startsReset := starts }, creditUpdate 0] }

theorem witness_FrameSendSendsTheHead : opened.lp.outQueue = [] ∧
    (sendable false).lp.outQueue = { tag := 63, status := 0, payload := [], riders := 0, startsReset := false } :: [creditUpdate 0] ∧
    (sendable true).lp.outQueue = { tag := 63, status := 0, payload := [], riders := 0, startsReset := true } :: [creditUpdate 0] := by decide
theorem witness_LinkResetRestartsTheLink : archive.lp.link = .opened ∧ frameWellFormed (rq 63 []) = true ∧
    archive.lp.outQueue.any (·.startsReset) = false ∧ Settled archive ∧ archive.au.slots = [] ∧
    (∀ e ∈ archive.qa.contexts, e.2.isSubscriber = false) ∧ (sendable true).lp.link = .opened ∧
    (sendable true).lp.outQueue.any (·.startsReset) = true ∧ State.reset.lp.link = .resetting :=
  ⟨rfl, by decide, by decide, settledOf (by decide +kernel), rfl, by decide, rfl, by decide, rfl⟩

/-! ### Resets and power -/

theorem witness_HelloAndThePins_warm : (archive.active = true ∧ archive.power.resetPin = false ∧ archive.ce.job = none) ∧
    writing.active = true ∧ writing.power.resetPin = false ∧ writing.ce.job.isSome := by decide +kernel
theorem witness_WarmResetEndRebuilds : (warm.power.powered = true ∧ warm.power.warmReset = true ∧ warm.power.resetPin = false) ∧ TablesKeyed warm ∧
    warm.lp.withheld = 0 ∧ archive.power.warmReset = false := ⟨by decide, archive_keyed, rfl, rfl⟩

def off (pin : Bool) : State := archive.mapPower fun p => { p with powered := false, resetPin := pin }

theorem witness_StartUpPaths : (off false).power.powered = false ∧ (off false).power.resetPin = false ∧ (off true).power.powered = false ∧
    (off true).power.resetPin = true ∧ (off false).ix.signatureValid = true ∧ (off false).cl.image.valid = false ∧
    archive.power.powered = true ∧ waitingStart.power.powered = true ∧
    waitingStart.power.startUp = some { eepromFault := false, resetDuring := false } ∧ waitingStart.power.warmReset = false := by decide
theorem witness_StartUpPaths_resume : TablesKeyed (off false) := archive_keyed

/-- Without power, transient state in every block. -/
def dirtyOff : State := (((((waitingDay (off false)).mapLp fun l =>
  { l with withheld := 2, due := Pool.control.credits 0, buffer := buffered.lp.buffer }).mapIe fun e => { e with drain := some newDrain }).mapAu fun a =>
  { a with cursorDay := 5, cursorPlace := 2, patrolElapsed := 9, patrol := some { began := none, wrapped := false, day := 5, seg := 0, place := 2, stage := .pinWait } })).mapWa fun w =>
  { w with engine := fetching.wa.engine, requests := { w.requests with scan := [.slot 0] }, packQueue := [19797], repackQueue := [19796],
           pointers := [some .pack, none, none, none], phase := .rest, elapsed := 3 }

theorem witness_StartUpPaths_transient : dirtyOff.power.powered = false ∧ dirtyOff.power.resetPin = false := ⟨rfl, rfl⟩
/-- R30, R107, R161, R173: INITIALISE leaves none of it. -/
theorem test_powerOn_transient : leads (exec (.powerOn false ⟨true, false⟩) dirtyOff) (fun t =>
    decide ((t.lp.withheld, t.lp.due, t.lp.buffer) = (0, Credits.zero, [])) && decide (t.ie.drain = none) &&
    decide ((t.ce.coldFull, t.ce.coldWait) = (false, [])) && decide (t.au = State.reset.au) && decide (t.wa = State.reset.wa)) = true := by decide +kernel

/-- An image that a save of the defaults leaves. -/
def savedImage : ConfigImage := { marker := true, format := 1, settings := defaultValues, check := imageCheck 1 defaultValues }

theorem witness_StartUpPaths_image : ((off false).mapCl fun c => { c with image := savedImage }).cl.image.valid = true := by decide +kernel
theorem witness_StartUpPaths_first : ((off false).mapIx fun x => { x with signatureValid := false }).ix.signatureValid = false := rfl
/-- R179: a content lost before a start-up that waits at the RESET input, and that power leaves again, stays lost: INITIALISE. -/
theorem test_dram_lost_while_waiting : leads (exec (.powerOn false ⟨true, false⟩) (off true)) (fun t => decide (t.power.startUp.isSome) &&
    leads (exec .lossOfNodePower t) fun u => leads (exec (.powerOn false ⟨false, false⟩) (u.mapPower fun p => { p with resetPin := false })) fun v =>
      decide (u.ix.map ≠ []) && decide (v.ix = { map := [], signatureValid := true }) && decide (v.pc.parts = [])) = true := by decide +kernel
theorem witness_PowerLossKeepsTheArchive : archive.power.powered = true ∧ (off false).power.powered = false := by decide

/-! ### The clock and its timers -/

theorem witness_SetTimeServed : Requested .setTime (rq 5 (be 4 1710720999)) (.setTime 1710720999) .control clocked ∧
    1710720999 < clocked.ck.archiveTime ∧ Settled clocked ∧
    Requested .setTime (rq 5 (be 4 1710721000)) (.setTime 1710721000) .control clocked ∧ clocked.ck.archiveTime ≤ 1710721000 :=
  ⟨requested_of (by decide), by decide, settledOf (by decide), requested_of (by decide), by decide⟩
theorem witness_SecondEventAdvances : (archive.running = true ∧ archive.ck.archiveTime < 4294967295 ∧ archive.au.current.length = 40) ∧
    TablesKeyed archive ∧ archive.wa.packQueue = [] ∧
    4294967295 ≤ (archive.mapCk fun k => { k with archiveTime := 4294967295 }).ck.archiveTime := ⟨by decide, archive_keyed, rfl, by decide⟩
theorem witness_TimerExpiries_quiet : timed.running = true ∧
    timed.part 19800 = some { hotPart with dayClosed := true, quietElapsed := 1800 } ∧ timed.cl.settings.quietCode ≠ 0 ∧
    Config.intervalSeconds.getD timed.cl.settings.quietCode 0 ≤ 1800 := by decide
theorem witness_TimerExpiries_file : idle.ie.contexts[0]? = some { generation := 1, file := some { file5 with idle := 600 } } ∧
    idle.cl.settings.fileIdleCode ≠ 0 ∧ Config.intervalSeconds.getD idle.cl.settings.fileIdleCode 0 ≤ 600 ∧ Settled idle :=
  ⟨by decide, by decide, by decide, settledOf (by decide)⟩

def patrolledEmpty : State := State.reset.mapAu fun a => { a with patrolElapsed := 60 }

theorem witness_TimerExpiries_patrol : (∀ s ∈ [patrolledEmpty, patrolled], s.running = true ∧ s.au.patrol = none ∧ s.cl.settings.patrolCode ≠ 0 ∧
      Config.intervalSeconds.getD s.cl.settings.patrolCode 0 ≤ s.au.patrolElapsed) ∧
    patrolledEmpty.pc.parts = [] ∧ Settled patrolledEmpty ∧ patrolled.dayFrom patrolled.au.cursorDay 49710 = some 19796 ∧
    patrolled.part 19796 = some coldPart := ⟨by decide, rfl, settledOf (by decide), by decide, by decide⟩

/-- A patrol step at its pin on a day, begun at a day, wrapped or not. -/
def patrolAt (day began : Nat) (wrapped : Bool) (s : State) : State := s.mapAu fun a =>
  { a with patrol := some { began := some began, wrapped := wrapped, day := day, seg := 0, place := 0, stage := .pinWait } }

theorem witness_TimerExpiries_pinned : TablesKeyed (patrolAt 19796 19796 false archive) ∧
    (patrolAt 19796 19796 false archive).au.patrol.bind (·.began) = some 19796 ∧
    (patrolAt 19796 19796 false archive).part 19796 = some coldPart ∧ archive.au.cursorDay ≠ 19796 ∧ coldPart.segments[0]? = some 0 ∧
    archive.segActive 0 = true ∧
    TablesKeyed (patrolAt 19800 19796 true archive) ∧ (patrolAt 19800 19796 true archive).part 19800 = some hotPart ∧ hotPart.segments = [] :=
  ⟨archive_keyed, rfl, by decide, by decide, rfl, by decide +kernel, archive_keyed, by decide, rfl⟩
/-- R162: a day without an ACTIVE segment from the start place is left for the next; a search come round to the day it began at ends. -/
theorem test_patrol_next_day : (let t := patrolPinned (patrolAt 19796 19796 false (updSeg 0 (fun e => { e with state := .damaged }) archive))
    decide (t.au.patrol.map (fun w => (w.day, w.wrapped)) = some (19800, false)) && decide (t.au.cursorDay = 19797) &&
    decide ((t.part 19800).map (·.waitQueue) = some [.patrol])) = true := by decide +kernel
theorem test_patrol_ends : (let t := patrolPinned (patrolAt 19800 19796 false archive)
    decide (t.au.patrol = none) && decide ((t.au.cursorDay, t.au.cursorPlace) = (19796, 0))) = true := by decide +kernel

theorem witness_ThrottleWindowRuns : State.reset.running = true ∧ waitingStart.power.powered = true ∧ waitingStart.running = false := by decide

/-! ### CONTROL kinds -/

/-- Day 19,799 OPEN, past and not yet closed. -/
def unclosed : State := clocked.mapPc fun _ => { parts := [(19799, emptyPart)] }

theorem witness_CloseDayServed : Requested .closeDay (rq 5 (be 2 19800)) (.closeDay 19800) .control opened ∧ Settled opened ∧
    opened.ck.clockSet = false ∧ Requested .closeDay (rq 5 (be 2 19800)) (.closeDay 19800) .control clocked ∧ Settled clocked ∧
    clocked.ck.clockSet = true ∧ clocked.ck.archiveTime / 86400 ≤ 19800 ∧
    Requested .closeDay (rq 5 (be 2 19799)) (.closeDay 19799) .control clocked ∧ 19799 < clocked.ck.archiveTime / 86400 ∧
    clocked.part 19799 = none ∧ Requested .closeDay (rq 5 (be 2 19799)) (.closeDay 19799) .control unclosed ∧ Settled unclosed ∧
    unclosed.part 19799 = some emptyPart ∧ emptyPart.dayClosed = false :=
  ⟨requested_of (by decide), settledOf (by decide), rfl, requested_of (by decide), settledOf (by decide), rfl, by decide,
   requested_of (by decide), by decide, rfl, requested_of (by decide), settledOf (by decide), by decide, rfl⟩
theorem witness_CloseDayServed_closed : Requested .closeDay (rq 5 (be 2 19796)) (.closeDay 19796) .control archive ∧ Settled archive ∧
    archive.ck.clockSet = true ∧ 19796 < archive.ck.archiveTime / 86400 ∧ archive.part 19796 = some coldPart ∧ coldPart.dayClosed = true :=
  ⟨requested_of (by decide +kernel), settledOf (by decide +kernel), rfl, by decide, by decide, rfl⟩
theorem witness_ReadingKindsServed_info : Requested .partitionInfo (rq 5 (be 2 49711 ++ be 4 0)) (.partitionInfo 49711 0) .control archive ∧
    Requested .partitionInfo (rq 5 (be 2 49710 ++ be 4 0)) (.partitionInfo 49710 0) .control archive ∧ archive.part 49710 = none ∧
    Requested .partitionInfo (rq 5 (be 2 19796 ++ be 4 1)) (.partitionInfo 19796 1) .control archive ∧ archive.part 19796 = some coldPart :=
  ⟨requested_of (by decide +kernel), requested_of (by decide +kernel), by decide, requested_of (by decide +kernel), by decide⟩
theorem witness_SetRetentionServed : Requested .setRetention (rq 5 [4, 0, 1, 0]) (.setRetention 4 1 false) .control archive ∧ 3 < 4 ∧
    Requested .setRetention (rq 5 (be 1 3 ++ be 2 3651 ++ [0])) (.setRetention 3 3651 false) .control archive ∧
    Requested .setRetention (rq 5 (be 1 3 ++ be 2 3650 ++ [1])) (.setRetention 3 3650 true) .control archive ∧ CallClass.other.code = 3 ∧
    Settled archive ∧ archive.part 19796 = some coldPart :=
  ⟨requested_of (by decide +kernel), by decide, requested_of (by decide +kernel), requested_of (by decide +kernel), rfl, settledOf (by decide +kernel), by decide⟩

def holdRequest (bits first last mask : Nat) : Request :=
  rq 5 (be 4 7 ++ be 6 1 ++ be 1 bits ++ be 2 first ++ be 2 last ++ be 1 mask)
def holdOf (bits first last mask : Nat) : Hold :=
  { label := 7, key := 1, maskBits := bits, firstDay := first, lastDay := last, classMask := mask }

/-- Every Hold Table entry active. -/
def heldFull : State := clocked.mapRu fun u => { u with holds := (List.range 64).map fun i => (i + 1, hold 1 0) }
/-- Ids 1 and 3 in use. -/
def heldSome : State := clocked.mapRu fun u => { u with holds := [(1, hold 1 0), (3, hold 2 0)] }

theorem witness_PlaceAndListHolds_range :
    (Requested .placeHold (holdRequest 48 0 0 1) (.placeHold (holdOf 48 0 0 1)) .control clocked ∧ 47 < (holdOf 48 0 0 1).maskBits) ∧
    (Requested .placeHold (holdRequest 47 0 49711 1) (.placeHold (holdOf 47 0 49711 1)) .control clocked ∧ 49710 < (holdOf 47 0 49711 1).lastDay) ∧
    (Requested .placeHold (holdRequest 47 5 4 1) (.placeHold (holdOf 47 5 4 1)) .control clocked ∧ (holdOf 47 5 4 1).lastDay < (holdOf 47 5 4 1).firstDay) ∧
    (Requested .placeHold (holdRequest 47 5 5 0) (.placeHold (holdOf 47 5 5 0)) .control clocked ∧ (holdOf 47 5 5 0).classMask = 0) :=
  ⟨⟨requested_of (by decide), by decide⟩, ⟨requested_of (by decide), by decide⟩, ⟨requested_of (by decide), by decide⟩, requested_of (by decide), rfl⟩
theorem witness_PlaceAndListHolds : Requested .placeHold (holdRequest 47 49710 49710 1) (.placeHold (holdOf 47 49710 49710 1)) .control heldFull ∧
    64 ≤ heldFull.ru.holds.length ∧ Requested .placeHold (holdRequest 47 49710 49710 1) (.placeHold (holdOf 47 49710 49710 1)) .control heldSome ∧
    heldSome.ru.holds.length < 64 ∧ Tab.rising heldSome.ru.holds = true ∧ (∀ e ∈ heldSome.ru.holds, 1 ≤ e.1) ∧
    (holdOf 47 49710 49710 1).maskBits ≤ 47 ∧ (holdOf 47 49710 49710 1).firstDay ≤ (holdOf 47 49710 49710 1).lastDay ∧
    (holdOf 47 49710 49710 1).lastDay ≤ 49710 ∧ (holdOf 47 49710 49710 1).classMask ≠ 0 :=
  ⟨requested_of (by decide +kernel), by decide +kernel, requested_of (by decide), by decide, by decide, by decide, by decide, by decide, by decide, by decide⟩
theorem witness_ReleaseHoldServed : Requested .releaseHold (rq 5 [2]) (.releaseHold 2) .control heldSome ∧ Tab.get heldSome.ru.holds 2 = none ∧
    Settled heldSome ∧ Requested .releaseHold (rq 5 [3]) (.releaseHold 3) .control heldSome ∧ Tab.get heldSome.ru.holds 3 = some (hold 2 0) :=
  ⟨requested_of (by decide), by decide, settledOf (by decide), requested_of (by decide), by decide⟩
theorem witness_ReleaseHoldServed_part : TablesKeyed (archive.mapRu fun u => { u with holds := [(1, hold 447700123500 0)] }) ∧ Requested .releaseHold (rq 5 [1]) (.releaseHold 1) .control
      (archive.mapRu fun u => { u with holds := [(1, hold 447700123500 0)] }) ∧
    (archive.mapRu fun u => { u with holds := [(1, hold 447700123500 0)] }).part 19796 = some coldPart :=
  ⟨by unfold TablesKeyed; decide +kernel, requested_of (by decide +kernel), by decide⟩
theorem witness_PlaceAndListHolds_list : Requested .listHolds (rq 5 []) .listHolds .control heldSome ∧ heldSome.ru.holds.length ≤ 64 ∧
    Tab.rising heldSome.ru.holds = true := ⟨requested_of (by decide), by decide, by decide⟩
theorem witness_SetConfigServed : opened.cl.saving = none ∧ opened.waits .loader = false ∧ Settled opened ∧ opened.lp.withheld = 0 ∧
    (∀ els ∈ [[(0, 1)], [(24, 1)], [(1, 1), (1, 1)]], Requested .setConfig (rq 5 (be 2 els.length ++ els.flatMap fun e => be 1 e.1 ++ be 4 e.2))
      (.setConfig els) .control opened ∧ refusedElements els = true) ∧
    (∀ els ∈ [[], [(1, 9)], [(23, 1), (8, 1)]], Requested .setConfig (rq 5 (be 2 els.length ++ els.flatMap fun e => be 1 e.1 ++ be 4 e.2))
      (.setConfig els) .control opened ∧ refusedElements els = false) := by
  refine ⟨rfl, rfl, settledOf (by decide), rfl, ?_, ?_⟩ <;> intro els h <;> simp only [List.mem_cons, List.not_mem_nil, or_false] at h <;>
    obtain rfl | rfl | rfl := h <;> exact ⟨requested_of (by decide), by decide⟩

/-- Elements as a request carries them. -/
def configRequest (els : List (Nat × Nat)) : Request := rq 5 (be 2 els.length ++ els.flatMap fun e => be 1 e.1 ++ be 4 e.2)

/-- The engine BUSY, day 19,799 OPEN with its timer expired, day 19,800's timer at 1,000 s, context 0 idle for 700 s, the patrol timer at 100 s,
the ACTIVE phase at 30 ms. -/
def tunable : State :=
  (((onDay 19800 (fun p => { p with quietElapsed := 1000 }) fetching).mapPc fun t =>
    { t with parts := Tab.put t.parts 19799 { emptyPart with quietExpired := true } }).mapIe fun e =>
    { e with contexts := e.contexts.set 0 { generation := 1, file := some { file5 with idle := 700 } } }).mapAu (fun a =>
    { a with patrolElapsed := 100 }) |>.mapWa fun w => { w with elapsed := 30 }
def tuned : List (Nat × Nat) := [(1, 0), (2, 1), (4, 1), (16, 0), (18, 1)]
/-- Pressure set with two credits withheld and every slot but one free. -/
def withheldTwo : State := (archive.mapWa fun w => { w with pressure := true }).mapLp fun l => { l with withheld := 2 }

theorem witness_SetConfigServed_effects : Requested .setConfig (configRequest tuned) (.setConfig tuned) .control tunable ∧
    tunable.cl.saving = none ∧ tunable.waits .loader = false ∧ refusedElements tuned = false ∧ TablesKeyed tunable ∧ tunable.wa.packQueue = [] ∧
    Requested .setConfig (configRequest [(7, 3), (8, 4)]) (.setConfig [(7, 3), (8, 4)]) .control withheldTwo ∧ withheldTwo.cl.saving = none ∧
    withheldTwo.waits .loader = false ∧ withheldTwo.wa.pressure = true :=
  ⟨requested_of (by decide +kernel), rfl, rfl, by decide, by unfold TablesKeyed; decide +kernel, rfl, requested_of (by decide +kernel), rfl, rfl, rfl⟩
/-- R55, R45: grace 0 closes day 19,799, whose timer has expired; 10 s expires day 19,800's, which stays OPEN. R76, R168, R161: the file timed
out, the window in REST, the patrol on the lowest day. R26 before R175: the update of the withheld credits, then the response (log entry 9). -/
theorem test_setConfig_effects : leads (exec (.setConfig (configRequest tuned)) tunable) (fun t =>
      decide ((t.part 19799).map (fun p => (p.state, p.dayClosed)) = some (.quiet, true)) && decide (t.wa.packQueue = [19799]) &&
      decide ((t.part 19800).map (fun p => (p.state, p.quietExpired, p.dayClosed)) = some (.opened, true, false)) &&
      decide (t.ie.contexts[0]? = some { generation := 1, file := none }) && decide (bankGet t.au.current .filesTimedOut = 1) &&
      decide ((t.wa.phase, t.wa.elapsed) = (.rest, 0)) && decide (t.au.patrol.map (·.day) = some 19796)) = true ∧
    leads (exec (.setConfig (configRequest [(7, 3), (8, 4)])) withheldTwo) (fun t => !t.wa.pressure && decide (t.lp.withheld = 0) &&
      decide (t.lp.outQueue.map (fun f => (f.tag, f.riders)) = [(254, 0), (254, 2), (5, 0)])) = true := by decide +kernel
theorem witness_SaveAndResetServed : opened.cl.saving = none ∧ opened.waits .loader = false ∧
    Requested .saveConfig (rq 5 []) .saveConfig .control opened ∧ Requested .reset (rq 5 []) .reset .control opened :=
  ⟨rfl, rfl, requested_of (by decide), requested_of (by decide)⟩

def savingAt (step : Nat) : State := opened.mapCl fun c => { c with saving := some { step := step, copied := defaultValues, tag := 9, epoch := 0 } }

theorem witness_SaveAndResetServed_completion : (∀ n ∈ [1, 2, 3], (savingAt n).cl.saving = some { step := n, copied := defaultValues, tag := 9, epoch := 0 } ∧
      (savingAt n).waits .loader = false ∧ internal Turn.placing (savingAt n) = none) ∧ defaultValues.length = 23 ∧ opened.cl.saving = none ∧ internal Turn.placing opened = none := by
  decide
theorem witness_ReadStatusAndClearCounters : Requested .readStatus (rq 5 [1]) (.readStatus true) .control archive ∧
    Requested .clearCounters (rq 5 []) .clearCounters .control archive := ⟨requested_of (by decide +kernel), requested_of (by decide +kernel)⟩
theorem witness_ReadingKindsServed_counters : Requested .readCounters (rq 5 [2]) (.readCounters 2) .control archive ∧
    Requested .readCounters (rq 5 [0]) (.readCounters 0) .control archive ∧ Requested .readCounters (rq 5 [1]) (.readCounters 1) .control archive ∧
    archive.au.current.length = 40 ∧ archive.au.previous.length = 40 :=
  ⟨requested_of (by decide +kernel), requested_of (by decide +kernel), requested_of (by decide +kernel), by decide, by decide⟩
theorem witness_ReadingKindsServed_account : Requested .readAccount (rq 5 (be 2 0 ++ be 2 0)) (.readAccount 0 0) .query archive ∧
    Requested .readAccount (rq 5 (be 2 4096 ++ be 2 0)) (.readAccount 4096 0) .query archive ∧
    Requested .readAccount (rq 5 (be 2 4095 ++ be 2 49710)) (.readAccount 4095 49710) .query archive ∧
    Tab.get archive.au.accounts (accountKey 4095 49710) = none ∧
    Requested .readAccount (rq 5 (be 2 17 ++ be 2 19800)) (.readAccount 17 19800) .query archive ∧
    Tab.get archive.au.accounts (accountKey 17 19800) = some (oneStored 1250) ∧
    (oneStored 1250).storedSum + (oneStored 1250).amendDelta - (oneStored 1250).retiredSum = 1250 :=
  ⟨requested_of (by decide +kernel), requested_of (by decide +kernel), requested_of (by decide +kernel), by decide, requested_of (by decide +kernel),
   by decide, by decide⟩
theorem witness_WhatAnEventLeadsToKeeps : Settled archive ∧ archive.lp.buffer = [] := ⟨settledOf (by decide +kernel), rfl⟩

/-- A waiter at the head of day 19,796's wait queue, the day with some pins. -/
def headed (w : Waiter) (pins : Nat) : State :=
  onDay 19796 (fun p => { p with waitQueue := [w], pins := pins, moverWaiting := w.isMover }) archive

/-- R52 at its boundaries: a reader goes at 7 pins and not at 8, a mover at 0 and not at 1, and neither while a mover holds the day. -/
theorem witness_WhatAnEventLeadsToKeeps_waits : TablesKeyed (headed (.scan 0) 7) ∧ TablesKeyed (headed .job 0) ∧
    (headed (.scan 0) 7).part 19796 = some { coldPart with waitQueue := [.scan 0], pins := 7 } ∧
    (headed .job 0).part 19796 = some { coldPart with waitQueue := [.job], moverWaiting := true } ∧
    (∀ s ∈ [headed (.scan 0) 7, headed .job 0, headed .sweep 0, headed (.move 3) 0], (serveWaiters s).isSome = true ∧ grantEngine s = none ∧
      s.pc.parts.map (·.1) = [19796, 19800]) ∧
    ∀ s ∈ [headed (.scan 0) 8, headed .job 1, headed (.move 3) 1, onDay 19796 (fun p => { p with moverHolding := true }) (headed (.scan 0) 0)],
      serveWaiters s = none := by
  refine ⟨?_, ?_, ?_, ?_, ?_, ?_⟩ <;> first | (unfold TablesKeyed; decide +kernel) | decide +kernel

/-! ### INGEST kinds -/

theorem witness_FileKindsDrained_malformed : Kind.fileOpen.cls = .ingest ∧ Accepted .fileOpen (rq 5 [1]) .ingest filing ∧ filing.ie.queue = [] ∧
    filing.ie.drain = none ∧ Settled filing ∧ filing.active = true ∧ readParams .fileOpen (rq 5 [1]).payload = none ∧ Kind.fileOpen ≠ .records ∧
    Accepted .fileAbort { rqFile 5 [] with rsv := 1 } .ingest filing ∧ headerOk .fileAbort 0 1 1 = false :=
  ⟨rfl, acceptedOf (by decide), rfl, rfl, settledOf (by decide), rfl, by decide, by decide, acceptedOf (by decide), by decide⟩

/-- All 32 file contexts OPEN, context 0 for source 17 and file number 5. -/
def filesFull : State := clocked.mapIe fun e =>
  { e with contexts := (List.range 32).map fun i => { generation := 1, file := some { file5 with file := 5 + i } } }

theorem witness_FileKindsDrained_open : DrainsAtOnce .fileOpen (rq 5 (be 2 0 ++ be 4 5)) (.fileOpen 0 5) .ingest filing ∧
    DrainsAtOnce .fileOpen (rq 5 (be 2 4096 ++ be 4 5)) (.fileOpen 4096 5) .ingest filing ∧
    DrainsAtOnce .fileOpen (rq 5 (be 2 17 ++ be 4 5)) (.fileOpen 17 5) .ingest filing ∧
    filing.ie.contexts[0]? = some { generation := 1, file := some file5 } ∧ file5.source = 17 ∧ file5.file = 5 ∧
    DrainsAtOnce .fileOpen (rq 5 (be 2 4095 ++ be 4 5)) (.fileOpen 4095 5) .ingest filing ∧
    (∀ c ∈ filing.ie.contexts, ∀ f, c.file = some f → ¬ (f.source = 4095 ∧ f.file = 5)) ∧
    filing.ie.contexts[1]? = some { generation := 0, file := none } ∧ (∀ j c, j < 1 → filing.ie.contexts[j]? = some c → c.file.isSome) := by
  refine ⟨drainsOf (by decide), drainsOf (by decide), drainsOf (by decide), by decide, rfl, rfl, drainsOf (by decide), ?_, by decide, ?_⟩
  · intro c h f hf
    have : filing.ie.contexts.all (fun c => match c.file with | some f => f.source != 4095 | none => true) = true := by decide
    have := List.all_eq_true.mp this c h
    rw [hf] at this
    simp_all
  · intro j c hj hc
    obtain rfl : j = 0 := by omega
    cases hc
    rfl
theorem witness_FileKindsDrained_full : DrainsAtOnce .fileOpen (rq 5 (be 2 1 ++ be 4 5)) (.fileOpen 1 5) .ingest filesFull ∧
    (∀ c ∈ filesFull.ie.contexts, c.file.isSome) ∧ (∀ c ∈ filesFull.ie.contexts, ∀ f, c.file = some f → ¬ (f.source = 1 ∧ f.file = 5)) := by
  refine ⟨drainsOf (by decide +kernel), by decide +kernel, ?_⟩
  intro c h f hf
  have : filesFull.ie.contexts.all (fun c => match c.file with | some f => f.source != 1 | none => true) = true := by decide +kernel
  have := List.all_eq_true.mp this c h
  rw [hf] at this
  simp_all

/-- FILE_CLOSE under a generation that is not the context's. -/
def staleRequest (payload : Bytes) : Request := { rqFile 5 payload with gen := 2 }

theorem stale_of (payload : Bytes) : ∀ f, filing.ie.contexts[(staleRequest payload).ctx.toNat]? ≠
    some { generation := (staleRequest payload).gen.toNat, file := some f } := by
  intro f h
  have h2 : filing.ie.contexts[0]? = some { generation := 1, file := some file5 } := by decide
  have h3 : (staleRequest payload).ctx.toNat = 0 := rfl
  rw [h3, h2] at h
  cases h

theorem witness_FileKindsDrained_close : DrainsAtOnce .fileClose (staleRequest [0]) (.fileClose none) .ingest filing ∧
    DrainsAtOnce .fileClose (rqFile 5 [0]) (.fileClose none) .ingest filing ∧
    (∀ count sum : Nat, (count, sum) ∈ [(4, 1300), (2, 1300), (3, 1301), (3, 1300)] →
      DrainsAtOnce .fileClose (rqFile 5 ([1] ++ be 8 count ++ be 8 sum)) (.fileClose (some (count, (sum : Int)))) .ingest filing) ∧
    DrainsAtOnce .fileAbort (staleRequest []) .fileAbort .ingest filing ∧ DrainsAtOnce .fileAbort (rqFile 5 []) .fileAbort .ingest filing := by
  refine ⟨drainsOf (by decide), drainsOf (by decide), ?_, drainsOf (by decide), drainsOf (by decide)⟩
  intro count sum h
  simp only [List.mem_cons, List.not_mem_nil, or_false, Prod.mk.injEq] at h
  obtain ⟨rfl, rfl⟩ | ⟨rfl, rfl⟩ | ⟨rfl, rfl⟩ | ⟨rfl, rfl⟩ := h <;> exact drainsOf (by decide +kernel)

/-- A file is open and the clock unset. -/
def unsetFiling : State := filing.mapCk fun k => { k with clockSet := false }

theorem witness_RecordsDrainBegins : DrainsAtOnce .records (staleRequest [1]) .records .ingest filing ∧
    DrainsAtOnce .records (rqFile 5 [1]) .records .ingest unsetFiling ∧ unsetFiling.ck.clockSet = false ∧
    DrainsAtOnce .records (rqFile 5 []) .records .ingest filing ∧ DrainsAtOnce .records (rqFile 5 [1]) .records .ingest filing ∧
    filing.ck.clockSet = true ∧ filing.ie.contexts[0]? = some { generation := 1, file := some file5 } :=
  ⟨drainsOf (by decide), drainsOf (by decide), rfl, drainsOf (by decide), drainsOf (by decide), rfl, by decide⟩
theorem witness_RecordsDrainBegins_queue : Kind.records.cls = .ingest ∧ Accepted .records (rqFile 5 [1]) .ingest (draining [1]) ∧
    Accepted .fileClose (rqFile 5 [0]) .ingest (draining [1]) ∧ (draining [1]).ie.queue ≠ [] ∧ Settled (draining [1]) ∧
    (draining [1]).ie.contexts[0]? = some { generation := 1, file := some file5 } :=
  ⟨rfl, acceptedOf (by decide +kernel), acceptedOf (by decide +kernel), by decide, settledOf (by decide +kernel), by decide +kernel⟩

theorem recordOf {payload : Bytes} {size : Nat} (h : wholeSize payload = some size) :
    RecordAtHand (batch payload) newDrain file5 size (draining payload) :=
  { drain := rfl, deciding := rfl, head := rfl, opened := rfl, whole := h }

def wrongSource : Bytes := renderRecord { hotRecord with source := 18 } false

theorem witness_RecordEventRefuses : RecordAtHand (batch (wrongSource ++ wrongSource)) newDrain file5 36 (draining (wrongSource ++ wrongSource)) ∧
    firstRefusal (draining (wrongSource ++ wrongSource)) file5 (readDelivered (wrongSource ++ wrongSource)) = some .sourceMismatch ∧
    newDrain.offset + 36 < (wrongSource ++ wrongSource).length ∧ internal Turn.placing (draining (wrongSource ++ wrongSource)) = none ∧
    RecordAtHand (batch wrongSource) newDrain file5 36 (draining wrongSource) ∧
    firstRefusal (draining wrongSource) file5 (readDelivered wrongSource) = some .sourceMismatch ∧ wrongSource.length ≤ newDrain.offset + 36 ∧
    internal Turn.placing (draining wrongSource) = none ∧ wholeSize [0, 34] = none :=
  ⟨recordOf (by decide +kernel), by decide +kernel, by decide +kernel, by decide +kernel, recordOf (by decide +kernel), by decide +kernel,
   by decide +kernel, by decide +kernel, by decide⟩

/-- The drain of one refused record, its offset given. -/
def drainedTo (offset : Nat) : State := (draining wrongSource).mapIe fun e => { e with drain := some { newDrain with offset := offset } }

theorem witness_RecordEventRefuses_end : (drainedTo 36).ie.queue = batch wrongSource :: [] ∧ (batch wrongSource).payload.length = 36 ∧
    Settled (drainedTo 0) ∧ drainEnds (drainedTo 35) = none ∧ (drainEnds (drainedTo 36)).isSome = true :=
  ⟨rfl, by decide +kernel, settledOf (by decide +kernel), by decide +kernel, by decide +kernel⟩

def twoNew : Bytes := renderRecord newRecord false ++ renderRecord { newRecord with sequence := 2001 } false

theorem witness_RecordEventStores : RecordAtHand (batch twoNew) newDrain file5 36 (draining twoNew) ∧
    Tab.rising (draining twoNew).hs.slots = true ∧ firstRefusal (draining twoNew) file5 (readDelivered twoNew) = none ∧
    (draining twoNew).lookup (refOf 17 2000) = none ∧ newDrain.offset + 36 < twoNew.length :=
  ⟨recordOf (by decide +kernel), by decide +kernel, by decide +kernel, by decide +kernel, by decide +kernel⟩

/-- The same record on a day that is QUIET and in the pack queue, without pressure and with it, and on a day with no partition, long past. -/
def newOn (quiet pressure : Bool) : State :=
  (onDay 19800 (fun p => if quiet then { p with state := .quiet, dayClosed := true, quietExpired := true } else p) (draining twoNew)).mapWa fun w =>
    { w with packQueue := if quiet then [19800] else [], pressure := pressure }
def newLate : State := ((draining twoNew).mapCk fun k => { k with archiveTime := 1711000000 }).mapPc fun _ => { parts := [(19796, coldPart)] }

theorem recordIn {payload : Bytes} {size : Nat} {s : State} (h : wholeSize payload = some size) (hs : s.ie = (draining payload).ie) :
    RecordAtHand (batch payload) newDrain file5 size s :=
  { drain := by rw [hs]; rfl, deciding := rfl, head := by rw [hs]; rfl, opened := by unfold State.openFile; rw [hs]; rfl, whole := h }
theorem witness_RecordEventStores_days : ∀ s ∈ [newOn true false, newOn true true, newOn false true, newLate],
    RecordAtHand (batch twoNew) newDrain file5 36 s ∧ Tab.rising s.hs.slots = true ∧ firstRefusal s file5 (readDelivered twoNew) = none ∧
    s.lookup (refOf 17 2000) = none := by
  intro s h
  simp only [List.mem_cons, List.not_mem_nil, or_false] at h
  obtain rfl | rfl | rfl | rfl := h <;> exact ⟨recordIn (by decide +kernel) rfl, by decide +kernel, by decide +kernel, by decide +kernel⟩
/-- R46, R48: a store on a QUIET day returns it to OPEN, out of the pack queue, with its timer at 0; a day with no partition long past is LATE. -/
theorem test_store_on_quiet : leads (exec .recordEvent (newOn true false)) (fun t =>
    decide ((t.part 19800).map (fun p => (p.state, p.quietElapsed, p.quietExpired)) = some (.opened, 0, false)) && decide (t.wa.packQueue = [])) = true := by
  decide +kernel
theorem test_store_late : leads (exec .recordEvent newLate) (fun t =>
    decide ((t.part 19800).map (fun p => (p.state, p.dayClosed)) = some (.opened, true)) && decide (bankGet t.au.current .storedLate = 1)) = true := by
  decide +kernel

def twiceHot : Bytes := renderRecord hotRecord false ++ renderRecord hotRecord false
def againCold : Bytes := renderRecord { coldRecord with late := false } false

theorem witness_RecordEventDuplicates : RecordAtHand (batch twiceHot) newDrain file5 36 (draining twiceHot) ∧
    firstRefusal (draining twiceHot) file5 (readDelivered twiceHot) = none ∧
    (draining twiceHot).lookup (refOf 17 1000) = some (hotRecord.entry (.hot 0)) ∧
    Tab.get (draining twiceHot).hs.slots 0 = some hotRecord ∧ newDrain.offset + 36 < twiceHot.length ∧ internal Turn.placing (draining twiceHot) = none ∧
    RecordAtHand (batch againCold) newDrain file5 40 (draining againCold) ∧ firstRefusal (draining againCold) file5 (readDelivered againCold) = none ∧
    (draining againCold).lookup (refOf 17 1002) = some (coldRecord.entry (.segment 0 0)) ∧ (draining againCold).part 19796 = some coldPart :=
  ⟨recordOf (by decide +kernel), by decide +kernel, by decide +kernel, by decide +kernel, by decide +kernel, by decide +kernel,
   recordOf (by decide +kernel), by decide +kernel, by decide +kernel, by decide +kernel⟩

/-! ### QUERY kinds -/

/-- The cold record's segment is DAMAGED. -/
def damaged : State := updSeg 0 (fun e => { e with state := .damaged }) archive

theorem archive_unit : archive.qa.contexts.length < 64 ∧ archive.waits .queryUnit = false ∧ Settled archive :=
  ⟨by decide, by decide, settledOf (by decide +kernel)⟩
theorem damaged_unit : damaged.qa.contexts.length < 64 ∧ damaged.waits .queryUnit = false ∧ Settled damaged :=
  ⟨by decide, by decide, settledOf (by decide +kernel)⟩

theorem witness_FetchServed : Requested .fetch (rq 5 (be 8 1000)) (.fetch 1000) .query archive ∧
    Requested .fetch (rq 5 (be 8 (refOf 4095 1099511627775))) (.fetch (refOf 4095 1099511627775)) .query archive ∧
    archive.lookup (refOf 4095 1099511627775) = none ∧
    Requested .fetch (rq 5 (be 8 (refOf 17 1002))) (.fetch (refOf 17 1002)) .query damaged ∧
    damaged.lookup (refOf 17 1002) = some (coldRecord.entry (.segment 0 0)) ∧ damaged.segActive 0 = false :=
  ⟨requested_of (by decide +kernel), requested_of (by decide +kernel), by decide +kernel, requested_of (by decide +kernel), by decide +kernel, by decide +kernel⟩
theorem witness_FetchServed_read : Requested .fetch (rq 5 (be 8 (refOf 17 1000))) (.fetch (refOf 17 1000)) .query archive ∧
    archive.lookup (refOf 17 1000) = some (hotRecord.entry (.hot 0)) ∧ Tab.get archive.hs.slots 0 = some hotRecord ∧
    archive.part 19800 = some hotPart ∧ hotPart.waitQueue = [] ∧ hotPart.moverHolding = false ∧ hotPart.moverWaiting = false ∧ hotPart.pins < 8 ∧
    archive.active = true ∧ TablesKeyed archive ∧ archive.qa.inFlight = [] ∧ archive.cl.settings.activityMask.testBit 2 = false ∧
    Requested .fetch (rq 5 (be 8 (refOf 17 1002))) (.fetch (refOf 17 1002)) .query archive ∧
    archive.lookup (refOf 17 1002) = some (coldRecord.entry (.segment 0 0)) ∧ archive.segActive 0 = true ∧ archive.part 19796 = some coldPart ∧
    Tab.rising archive.qa.contexts = true :=
  ⟨requested_of (by decide +kernel), by decide +kernel, by decide, by decide, rfl, rfl, rfl, by decide, rfl, archive_keyed, rfl, by decide,
   requested_of (by decide +kernel), by decide +kernel, by decide +kernel, by decide, rfl⟩

/-- Day 19,800 with 8 pins, behind a waiting mover, and under a mover. -/
def pinHeld : List State := [onDay 19800 (fun p => { p with pins := 8 }) archive,
  onDay 19800 (fun p => { p with pins := 1, waitQueue := [.sweep], moverWaiting := true }) archive, onDay 19800 (fun p => { p with moverHolding := true }) archive]

theorem witness_FetchServed_waits : ∀ s ∈ pinHeld, Requested .fetch (rq 5 (be 8 (refOf 17 1000))) (.fetch (refOf 17 1000)) .query s ∧ Settled s ∧
    s.lookup (refOf 17 1000) = some (hotRecord.entry (.hot 0)) ∧ Tab.rising s.qa.contexts = true ∧
    (∃ p, s.part 19800 = some p ∧ (p.waitQueue ≠ [] ∨ p.moverHolding = true ∨ 8 ≤ p.pins)) := by
  intro s h
  simp only [pinHeld, List.mem_cons, List.not_mem_nil, or_false] at h
  obtain rfl | rfl | rfl := h <;>
    exact ⟨requested_of (by decide +kernel), settledOf (by decide +kernel), by decide +kernel, rfl, _, rfl, by decide⟩
/-- R51, R85: a FETCH of a hot record behind 8 pins waits in its context. -/
theorem test_fetch_waits : pinHeld.all (fun s => leads (exec (.fetch (rq 5 (be 8 (refOf 17 1000)))) s) fun t =>
    decide ((t.part 19800).map (·.waitQueue.getLast?) = some (some (.query 0))) && (t.queryCtx 0).isSome) = true := by decide +kernel

/-- A FETCH of the cold record's reference at its pin on day 19,796: the entry gone, moved to a hot slot, its segment DAMAGED, ACTIVE. -/
theorem witness_FetchServed_pinned : ∀ s ∈ [dropEntry (refOf 17 1002) fetching, putEntry (refOf 17 1002) (coldRecord.entry (.hot 0)) fetching,
      updSeg 0 (fun e => { e with state := .damaged }) fetching, fetching],
    s.queryCtx 0 = fetching.queryCtx 0 ∧ (s.queryCtx 0).map (fun q => (q.work, q.epoch)) = some (.fetch (refOf 17 1002), s.lp.epoch) ∧ TablesKeyed s := by
  unfold TablesKeyed; decide +kernel
theorem witness_FetchServed_places : (dropEntry (refOf 17 1002) fetching).lookup (refOf 17 1002) = none ∧
    (putEntry (refOf 17 1002) (coldRecord.entry (.hot 0)) fetching).lookup (refOf 17 1002) = some (coldRecord.entry (.hot 0)) ∧
    (Tab.get fetching.hs.slots 0).isSome ∧ fetching.lookup (refOf 17 1002) = some (coldRecord.entry (.segment 0 0)) ∧
    (updSeg 0 (fun e => { e with state := .damaged }) fetching).segActive 0 = false ∧ fetching.segActive 0 = true := by decide +kernel

/-- Every kind of activity restarts the quiet timer (setting 3 at 7); day 19,800 QUIET and in the pack queue. -/
def monitored : State :=
  ((onDay 19800 (fun p => { p with state := .quiet, dayClosed := true, quietElapsed := 1800, quietExpired := true }) archive).mapCl fun c =>
    { c with settings := { c.settings with activityMask := 7 } }).mapWa fun w => { w with engine := fetching.wa.engine, packQueue := [19800] }

theorem witness_FetchServed_monitored : Requested .fetch (rq 5 (be 8 (refOf 17 1000))) (.fetch (refOf 17 1000)) .query monitored ∧
    monitored.cl.settings.activityMask.testBit 2 = true ∧ (monitored.part 19800).map (fun p => (p.state, p.waitQueue)) = some (.quiet, []) ∧
    TablesKeyed monitored ∧ Settled monitored ∧ monitored.waits .queryUnit = false :=
  ⟨requested_of (by decide +kernel), by decide, by decide, by unfold TablesKeyed; decide +kernel, settledOf (by decide +kernel), by decide⟩
/-- R46, R48: a monitored read takes the QUIET day back to OPEN and out of the pack queue; under pressure it does not. -/
theorem test_fetch_monitored : leads (exec (.fetch (rq 5 (be 8 (refOf 17 1000)))) monitored) (fun t =>
    decide ((t.part 19800).map (fun p => (p.state, p.quietElapsed, p.quietExpired)) = some (.opened, 0, false)) && decide (t.wa.packQueue = [])) = true := by
  decide +kernel

def subscriberRequest (first last mask : Nat) (resume : Bytes) : Request :=
  rq 5 (be 6 447700123456 ++ be 2 first ++ be 2 last ++ be 1 mask ++ [0] ++ resume)
def subscriberOf (first last mask : Nat) (resume : Option Position) : SubscriberParams :=
  { key := 447700123456, firstDay := first, lastDay := last, classMask := mask, limit := 1, resume := resume }

theorem witness_QuerySubscriberServed :
    (Requested .querySubscriber (subscriberRequest 0 49711 1 [0]) (.querySubscriber (subscriberOf 0 49711 1 none)) .query archive) ∧
    (Requested .querySubscriber (subscriberRequest 5 4 1 [0]) (.querySubscriber (subscriberOf 5 4 1 none)) .query archive) ∧
    (Requested .querySubscriber (subscriberRequest 5 5 0 [0]) (.querySubscriber (subscriberOf 5 5 0 none)) .query archive) ∧
    (Requested .querySubscriber (subscriberRequest 5 5 1 ([1] ++ be 2 6 ++ be 4 0 ++ be 8 0))
      (.querySubscriber (subscriberOf 5 5 1 (some { day := 6, start := 0, ref := 0 }))) .query archive) ∧
    (Requested .querySubscriber (subscriberRequest 0 19795 15 [0]) (.querySubscriber (subscriberOf 0 19795 15 none)) .query archive) ∧
    (∀ d q, archive.part d = some q → ¬ (0 ≤ d ∧ d ≤ 19795)) ∧
    (Requested .querySubscriber (subscriberRequest 0 49710 15 [0]) (.querySubscriber (subscriberOf 0 49710 15 none)) .query archive) ∧
    archive.part 19796 = some coldPart ∧ (∀ d q, archive.part d = some q → 0 ≤ d → 19796 ≤ d) :=
  ⟨requested_of (by decide +kernel), requested_of (by decide +kernel), requested_of (by decide +kernel), requested_of (by decide +kernel),
   requested_of (by decide +kernel), ofParts (P := fun d _ => ¬ (0 ≤ d ∧ d ≤ 19795)) (by decide), requested_of (by decide +kernel), by decide,
   ofParts (P := fun d _ => 0 ≤ d → 19796 ≤ d) (by decide)⟩

def amendRequest (ref expected charge : Nat) : Request := rq 5 (be 8 ref ++ be 1 expected ++ be 4 charge ++ [0, 0])
def amendOf (ref expected charge : Nat) : AmendParams := { ref := ref, expected := expected, charge := charge, duration := none, volume := none }

theorem witness_AmendServed_range : Requested .amend (amendRequest (refOf 17 1000) 0 2147483648) (.amend (amendOf (refOf 17 1000) 0 2147483648)) .query archive ∧
    Requested .amend (amendRequest (refOf 4095 1) 0 2147483647) (.amend (amendOf (refOf 4095 1) 0 2147483647)) .query archive ∧
    archive.lookup (refOf 4095 1) = none ∧
    Requested .amend (amendRequest (refOf 17 1000) 1 0) (.amend (amendOf (refOf 17 1000) 1 0)) .query archive ∧
    archive.lookup (refOf 17 1000) = some (hotRecord.entry (.hot 0)) ∧ (hotRecord.entry (.hot 0)).amendCount ≠ 1 ∧
    Requested .amend (amendRequest (refOf 17 1002) 0 1) (.amend (amendOf (refOf 17 1002) 0 1)) .query damaged ∧
    damaged.lookup (refOf 17 1002) = some (coldRecord.entry (.segment 0 0)) ∧ damaged.segActive 0 = false :=
  ⟨requested_of (by decide +kernel), requested_of (by decide +kernel), by decide +kernel, requested_of (by decide +kernel), by decide +kernel, by decide,
   requested_of (by decide +kernel), by decide +kernel, by decide +kernel⟩

/-- A moving amendment of the hot record's reference in flight. -/
def amending : State := archive.mapQa fun _ =>
  { contexts := [(0, { tag := 6, epoch := 0, stage := .grantWait, cancelling := false, day := 19800, seg := 0, ord := 0,
                       work := .amend (amendOf (refOf 17 1000) 0 1) })],
    inFlight := [(0, { params := amendOf (refOf 17 1000) 0 1, day := 19800, loc := .hot 0, copy := none, phase := .reading })] }

/-- The hot record at its 255th amendment. -/
def amended255 : State := putEntry (refOf 17 1000) { hotRecord.entry (.hot 0) with amendCount := 255 } archive

/-- The hot record's day PACKING. -/
def packing : State := onDay 19800 (fun p => { p with state := .packing }) archive

theorem witness_AmendServed_busy : Requested .amend (amendRequest (refOf 17 1000) 0 1) (.amend (amendOf (refOf 17 1000) 0 1)) .query amending ∧
    (∃ e ∈ amending.qa.inFlight, e.2.params.ref = refOf 17 1000) ∧ Settled amending ∧
    Requested .amend (amendRequest (refOf 17 1000) 255 1) (.amend (amendOf (refOf 17 1000) 255 1)) .query amended255 ∧
    (amended255.lookup (refOf 17 1000)).map (·.amendCount) = some 255 ∧ Settled amended255 :=
  ⟨requested_of (by decide +kernel), by decide +kernel, settledOf (by decide +kernel), requested_of (by decide +kernel), by decide +kernel,
   settledOf (by decide +kernel)⟩
theorem witness_AmendServed : Requested .amend (amendRequest (refOf 17 1000) 0 2147483647) (.amend (amendOf (refOf 17 1000) 0 2147483647)) .query archive ∧
    archive.lookup (refOf 17 1000) = some (hotRecord.entry (.hot 0)) ∧ Tab.get archive.hs.slots 0 = some hotRecord ∧
    archive.part 19800 = some hotPart ∧ hotPart.state ≠ .packing ∧ hotPart.state ≠ .repacking ∧ TablesKeyed archive ∧
    Requested .amend (amendRequest (refOf 17 1002) 0 1) (.amend (amendOf (refOf 17 1002) 0 1)) .query archive ∧
    archive.lookup (refOf 17 1002) = some (coldRecord.entry (.segment 0 0)) ∧ archive.segActive 0 = true ∧ archive.part 19796 = some coldPart ∧
    Requested .amend (amendRequest (refOf 17 1000) 0 1) (.amend (amendOf (refOf 17 1000) 0 1)) .query packing ∧
    packing.part 19800 = some { hotPart with state := .packing } ∧ Settled packing :=
  ⟨requested_of (by decide +kernel), by decide +kernel, by decide, by decide, by decide, by decide, archive_keyed, requested_of (by decide +kernel),
   by decide +kernel, by decide +kernel, by decide, requested_of (by decide +kernel), by decide, settledOf (by decide +kernel)⟩

def scanRequest (f : ScanFilter) : Request :=
  rq 5 (be 2 f.sourceMatch ++ be 2 f.sourceMask ++ be 1 f.classMask ++ be 2 f.firstDay ++ be 2 f.lastDay ++ be 6 f.keyMatch ++ be 6 f.keyMask
    ++ be 1 f.flagsMatch ++ be 1 f.flagsMask)
def allRecords : ScanFilter :=
  { sourceMatch := 4095, sourceMask := 0, classMask := 1, firstDay := 0, lastDay := 49710, keyMatch := 0, keyMask := 0, flagsMatch := 0, flagsMask := 0 }

/-- The filters that R153 refuses, one for each of its checks. -/
def badFilters : List ScanFilter :=
  [{ allRecords with sourceMatch := 4096 }, { allRecords with sourceMask := 4096 }, { allRecords with classMask := 0 },
   { allRecords with lastDay := 49711 }, { allRecords with firstDay := 5, lastDay := 4 }, { allRecords with flagsMatch := 1 }]

/-- Every scan slot held. -/
def slotsFull : State := archive.mapAu fun a =>
  { a with slots := (List.range 4).map fun n =>
      (n, { tag := n, epoch := 1, stage := .quantum, cancelling := false, visiting := 19796, toRead := [0], work := .verify 0 1 VerifyResult.zero }) }

theorem witness_ScansTaken_refused : (∀ f ∈ badFilters, Requested .auditScan (scanRequest f) (.auditScan f) .query archive ∧ f.outOfRange = true) ∧
    Requested .verifyDays (rq 5 (be 2 0 ++ be 2 49711)) (.verifyDays 0 49711) .query archive ∧
    Requested .verifyDays (rq 5 (be 2 1 ++ be 2 0)) (.verifyDays 1 0) .query archive ∧
    Requested .auditScan (scanRequest allRecords) (.auditScan allRecords) .query slotsFull ∧
    Requested .verifyDays (rq 5 (be 2 0 ++ be 2 49710)) (.verifyDays 0 49710) .query slotsFull ∧ 4 ≤ slotsFull.au.slots.length ∧
    Settled slotsFull ∧ TablesKeyed slotsFull := by
  refine ⟨?_, requested_of (by decide +kernel), requested_of (by decide +kernel), requested_of (by decide +kernel), requested_of (by decide +kernel),
    by decide +kernel, settledOf (by decide +kernel), by unfold TablesKeyed; decide +kernel⟩
  intro f h
  simp only [badFilters, List.mem_cons, List.not_mem_nil, or_false] at h
  obtain rfl | rfl | rfl | rfl | rfl | rfl := h <;> exact ⟨requested_of (by decide +kernel), by decide⟩
theorem witness_ScansTaken : Requested .auditScan (scanRequest { allRecords with lastDay := 19795 }) (.auditScan { allRecords with lastDay := 19795 }) .query archive ∧
    Requested .verifyDays (rq 5 (be 2 0 ++ be 2 19795)) (.verifyDays 0 19795) .query archive ∧
    (∀ d q, archive.part d = some q → ¬ (0 ≤ d ∧ d ≤ 19795)) ∧
    Requested .auditScan (scanRequest allRecords) (.auditScan allRecords) .query archive ∧
    Requested .verifyDays (rq 5 (be 2 0 ++ be 2 49710)) (.verifyDays 0 49710) .query archive ∧ allRecords.outOfRange = false ∧
    archive.au.slots.length < 4 ∧ archive.part 19796 = some coldPart ∧ (∀ d q, archive.part d = some q → 0 ≤ d → 19796 ≤ d) ∧ Settled archive ∧
    TablesKeyed archive :=
  ⟨requested_of (by decide +kernel), requested_of (by decide +kernel), ofParts (P := fun d _ => ¬ (0 ≤ d ∧ d ≤ 19795)) (by decide),
   requested_of (by decide +kernel), requested_of (by decide +kernel), by decide, by decide, by decide,
   ofParts (P := fun d _ => 0 ≤ d → 19796 ≤ d) (by decide), settledOf (by decide +kernel), archive_keyed⟩

/-- A QUERY_SUBSCRIBER under tag 63 at a stage. -/
def querying (stage : Stage) : State := archive.mapQa fun q =>
  { q with
    contexts := [(0, { tag := 63, epoch := 0, stage := stage, cancelling := false, day := 19796, seg := 0, ord := 0,
                       work := .subscriber (subscriberOf 0 49710 15 none) { toRead := [0], candidates := [], dayUnreadable := 0, list := [], unreadable := 0 } })] }
/-- A VERIFY_DAYS under tag 63 at a stage. -/
def verifying (stage : Stage) : State := archive.mapAu fun a =>
  { a with slots := [(0, { tag := 63, epoch := 0, stage := stage, cancelling := false, visiting := 19796, toRead := [0, 1], work := .verify 0 49710 VerifyResult.zero })] }

theorem witness_CancelServed : Requested .cancel (rq 5 [64]) (.cancel 64) .query archive ∧ Requested .cancel (rq 5 [63]) (.cancel 63) .query archive ∧
    Settled archive ∧ (∀ e ∈ archive.au.slots, (e.2.tag == 63 && e.2.epoch == archive.lp.epoch) = false) ∧
    (∀ e ∈ archive.qa.contexts, e.2.isSubscriber = true → (e.2.tag == 63 && e.2.epoch == archive.lp.epoch) = false) ∧
    (∀ st ∈ [Stage.pinWait, .grantWait, .quantum], Requested .cancel (rq 5 [63]) (.cancel 63) .query (querying st) ∧ Settled (querying st) ∧
      (Tab.first (querying st).qa.contexts (fun _ x => x.isSubscriber && x.tag == 63 && x.epoch == (querying st).lp.epoch)).isSome ∧
      Requested .cancel (rq 5 [63]) (.cancel 63) .query (verifying st) ∧ Settled (verifying st) ∧
      (Tab.first (verifying st).au.slots (fun _ x => x.tag == 63 && x.epoch == (verifying st).lp.epoch)).isSome) := by
  refine ⟨requested_of (by decide +kernel), requested_of (by decide +kernel), settledOf (by decide +kernel), by decide, by decide, ?_⟩
  intro st h
  simp only [List.mem_cons, List.not_mem_nil, or_false] at h
  obtain rfl | rfl | rfl := h <;>
    exact ⟨requested_of (by decide +kernel), settledOf (by decide +kernel), by decide +kernel, requested_of (by decide +kernel),
      settledOf (by decide +kernel), by decide +kernel⟩

/-! ### Completions and the sweep -/

def packJob : Job := newJob false 19800 .encoding [member hotRecord (.hot 0)] [member hotRecord (.hot 0)] []
def writingJob : Job := { packJob with run := [member hotRecord (.hot 0)], body := writtenBody, writing := some 1 }

theorem witness_SortAndWriteCompletions : sorting.ce.job = some packJob ∧
    sorting.wa.engine = some { kind := .pack, who := .job, quantum := .sort, seg := 0 } ∧ writing.ce.job = some writingJob ∧
    writing.wa.engine = some { kind := .pack, who := .job, quantum := .write, seg := 1 } ∧ writingJob.writing = some 1 ∧
    writingJob.rest.drop writingJob.run.length = [] ∧
    writing.part 19800 = some { hotPart with state := .packing, dayClosed := true } ∧ archive.wa.engine = none ∧ Settled archive :=
  ⟨by decide +kernel, rfl, by decide +kernel, rfl, rfl, by decide, by decide, rfl, settledOf (by decide +kernel)⟩

/-- The same job with a second member left after the run. -/
def writingMore : State := writing.mapCe fun c => { c with job := some { writingJob with rest := [member hotRecord (.hot 0), member newRecord (.hot 1)] } }

theorem witness_SortAndWriteCompletions_more : ∃ j, writingMore.ce.job = some j ∧ j.writing = some 1 ∧ j.rest.drop j.run.length ≠ [] ∧
    writingMore.wa.engine = some { kind := .pack, who := .job, quantum := .write, seg := 1 } := ⟨_, rfl, by decide, by decide, rfl⟩

theorem witness_DecodeAndCheckCompletions_fetch : fetching.wa.engine = some { kind := .query, who := .query 0, quantum := .decode, seg := 0 } ∧
    (∃ q, fetching.queryCtx 0 = some q ∧ q.work = .fetch (refOf 17 1002) ∧ q.epoch = fetching.lp.epoch ∧ q.ord = 0 ∧
      fetching.part q.day = some { coldPart with pins := 1 }) ∧
    fetching.decoded 0 .stored = some [coldRecord] ∧ fetching.cl.settings.activityMask.testBit 2 = false ∧ fetching.decoded 0 .fault = none ∧
    fetching.decoded 0 (.altered []) = none ∧ fetching.segActive 0 = true ∧ TablesKeyed fetching :=
  ⟨rfl, ⟨_, rfl, rfl, rfl, rfl, by decide⟩, by decide +kernel, by decide, rfl, by decide +kernel, by decide +kernel,
   by unfold TablesKeyed; decide +kernel⟩

def verifyChecks : State := (verifying .quantum).mapWa fun w => { w with engine := some { kind := .verify, who := .slot 0, quantum := .check, seg := 0 } }

theorem witness_DecodeAndCheckCompletions_check : verifyChecks.wa.engine = some { kind := .verify, who := .slot 0, quantum := .check, seg := 0 } ∧
    (∃ q, verifyChecks.scanSlot 0 = some q ∧ q.work = .verify 0 49710 VerifyResult.zero ∧ q.cancelling = false ∧ q.toRead = 0 :: 1 :: []) ∧
    verifyChecks.segActive 0 = true ∧ verifyChecks.checkPasses 0 .stored = true ∧ verifyChecks.checkPasses 0 .fault = false ∧
    checking.wa.engine = some { kind := .patrol, who := .patrol, quantum := .check, seg := 0 } ∧
    (∃ w, checking.au.patrol = some w ∧ checking.part w.day = some { coldPart with pins := 1 }) ∧ checking.checkPasses 0 .stored = true ∧
    archive.wa.engine = none ∧ Settled archive :=
  ⟨rfl, ⟨_, rfl, rfl, rfl, rfl⟩, by decide +kernel, by decide +kernel, by decide +kernel, rfl, ⟨_, rfl, by decide⟩, by decide +kernel, rfl,
   settledOf (by decide +kernel)⟩

def later : CallRecord := { coldRecord with sequence := 1003 }

/-- A sweep quantum on day 19,796 with two entries left, the flags and the retention given. -/
def sweepingTwo (due : Bool) (days : Nat) (holds : Tab Hold) : State :=
  ((((onDay 19796 (fun p => { p with expiryDue := { voice := false, message := false, data := due, other := false }, moverHolding := true,
                                     live := { voice := 0, message := 0, data := 2, other := 0 } }) sweeping).mapIx fun x =>
    { x with map := Tab.put x.map later.ref (later.entry (.segment 0 1)) }).mapRu fun u =>
    { u with table := { u.table with data := { active := days, pending := days } }, holds := holds }))

theorem witness_SweepDecisionDecides_state (due : Bool) (days : Nat) (holds : Tab Hold) (h : Tab.rising holds = true) :
    (sweepingTwo due days holds).wa.engine = some { kind := .sweep, who := .sweep, quantum := .sweep, seg := 0 } ∧
    (sweepingTwo due days holds).ru.sweep = some { day := 19796, stage := .running, decided := 0 } ∧
    Tab.get (sweepingTwo due days holds).ru.queue 19796 = some { walk := none, restart := false } ∧
    (sweepingTwo due days holds).nextEntry 19796 none = some (refOf 17 1002, coldRecord.entry (.segment 0 0)) ∧
    (∃ e ∈ (sweepingTwo due days holds).ix.map, e.2.day = 19796 ∧ refOf 17 1002 < e.1) ∧
    (∃ p, (sweepingTwo due days holds).part 19796 = some p ∧ p.expiryDue.get .data = due) ∧ TablesKeyed (sweepingTwo due days holds) := by
  refine ⟨rfl, rfl, rfl, ?_, ?_, ⟨_, rfl, rfl⟩, ?_⟩
  · have : (sweepingTwo true 0 []).nextEntry 19796 none = some (refOf 17 1002, coldRecord.entry (.segment 0 0)) := by decide +kernel
    exact this
  · have : ∃ e ∈ (sweepingTwo true 0 []).ix.map, e.2.day = 19796 ∧ refOf 17 1002 < e.1 := by decide +kernel
    exact this
  · have : TablesKeyed (sweepingTwo true 0 []) := by unfold TablesKeyed; decide +kernel
    exact ⟨this.1, this.2.1, this.2.2.1, this.2.2.2.1, this.2.2.2.2.1, this.2.2.2.2.2.1, this.2.2.2.2.2.2.1, this.2.2.2.2.2.2.2.1, h,
      this.2.2.2.2.2.2.2.2.2⟩

/-- Retention of 3 days has expired on day 19,796 and of 4 days has not; a hold on the key covers the entry. -/
theorem witness_SweepDecisionDecides : (sweepingTwo true 3 []).ck.archiveTime / 86400 = 19800 ∧ 19796 + 3 < 19800 ∧ ¬ 19796 + 4 < 19800 ∧
    ((sweepingTwo true 3 []).ru.holds.any fun e => e.2.covers 447700123500 19796 .data) = false ∧
    ((sweepingTwo true 3 [(1, hold 447700123500 0)]).ru.holds.any fun e => e.2.covers 447700123500 19796 .data) = true := by decide +kernel

/-- The same with 4,095 entries decided and day 19,799 in the wait for a FREE segment slot. -/
def sweepingLast (holds : Tab Hold) : State :=
  (waitingDay (sweepingTwo true 3 holds)).mapRu fun u => { u with sweep := some { day := 19796, stage := .running, decided := 4095 } }
/-- The next entry in hot slot 0, the cold record's behind it. -/
def sweepingHot : State := (onDay 19796 (fun p => { p with hotCount := 1 }) (sweepingTwo true 3 [])).mapIx fun x =>
  { x with map := Tab.put x.map (refOf 17 1000) { hotRecord.entry (.hot 0) with day := 19796, cls := .data } }

theorem witness_SweepDecisionDecides_last : TablesKeyed (sweepingLast []) ∧ QueuesAgree (sweepingLast []) ∧
    (sweepingLast []).nextEntry 19796 none = some (refOf 17 1002, coldRecord.entry (.segment 0 0)) ∧ ((sweepingLast []).seg 0).map (·.live) = some 1 ∧
    (sweepingLast []).wa.engine = some { kind := .sweep, who := .sweep, quantum := .sweep, seg := 0 } ∧ TablesKeyed sweepingHot ∧
    sweepingHot.nextEntry 19796 none = some (refOf 17 1000, { hotRecord.entry (.hot 0) with day := 19796, cls := .data }) ∧
    (∃ e ∈ sweepingHot.ix.map, e.2.day = 19796 ∧ refOf 17 1000 < e.1) :=
  ⟨by unfold TablesKeyed; decide +kernel, agreeOf (by decide +kernel), by decide +kernel, by decide +kernel, rfl, by unfold TablesKeyed; decide +kernel,
   by decide +kernel, by decide +kernel⟩
/-- R138, R140, R104: the 4,096th decision retires, frees segment 0, and day 19,799 has joined the pack queue: its job begins; or keeps a held
record. A retired hot record lowers the hot count. -/
theorem test_sweep_last : leads (exec .sweepDecision (sweepingLast [])) (fun t =>
      decide (t.ru.queue = [(19796, { walk := some (refOf 17 1002), restart := false })]) && decide (t.cs.dir = []) &&
      !t.ce.coldFull && decide (t.ce.coldWait = []) && decide ((t.part 19799).map (·.state) = some .packing)) = true ∧
    leads (exec .sweepDecision (sweepingLast [(1, hold 447700123500 0)])) (fun t => (t.lookup (refOf 17 1002)).isSome &&
      decide (t.ru.queue = [(19796, { walk := some (refOf 17 1002), restart := false })])) = true ∧
    leads (exec .sweepDecision sweepingHot) (fun t =>
      decide (t.hs.slots = []) && decide ((t.part 19796).map (fun p => (p.hotCount, p.live.data)) = some (0, 1))) = true := by decide +kernel

/-- Days in the Sweep Queue, the partition of day 19,796 in a state. -/
def sweepable (st : PartState) (days : List Nat) : State :=
  (onDay 19796 (fun p => { p with state := st }) archive).mapRu fun u => { u with queue := days.map fun d => (d, { walk := none, restart := false }) }

theorem witness_SweepDecisionDecides_start :
    (∀ s ∈ [sweepable .packed [19796, 19800], sweepable .packing [19796, 19800]], s.ru.sweep = none ∧ Tab.rising s.ru.queue = true ∧
      (startSweep s).isSome = true) ∧ TablesKeyed (sweepable .packed [19796, 19800]) ∧ TablesKeyed (sweepable .packing [19796, 19800]) ∧
    startSweep (sweepable .packing [19796]) = none ∧ startSweep (sweepable .packed []) = none := by
  unfold TablesKeyed; decide +kernel
/-- R137: the lowest eligible day, a PACKING one passed over. -/
theorem test_sweep_start : (startSweep (sweepable .packed [19796, 19800])).map (fun t => t.ru.sweep.map (·.day)) = some (some 19796) ∧
    (startSweep (sweepable .packing [19796, 19800])).map (fun t => t.ru.sweep.map (·.day)) = some (some 19800) := by decide +kernel

/-- A sweep of the PACKED day 19,796, waiting as a mover or admitted, the day at the head of the repack queue or, QUIET, of the pack queue. -/
def swept (st : PartState) (stage : SweepStage) : State :=
  ((sweepable st [19796]).mapRu fun u => { u with sweep := some { day := 19796, stage := stage, decided := 0 } }) |>.mapWa fun w =>
    { w with packQueue := if st = .quiet then [19796] else [], repackQueue := if st = .packed then [19796] else [],
             requests := if stage = .admitted then { w.requests with sweep := [.sweep] } else w.requests }
def sweptDay (st : PartState) (stage : SweepStage) : State := onDay 19796 (fun p =>
  if stage = .admitted then { p with moverHolding := true } else { p with waitQueue := [.sweep, .query 0], moverWaiting := true }) (swept st stage)

theorem witness_SweepDecisionDecides_withdraw : ∀ stage ∈ [SweepStage.waiting, .admitted],
    TablesKeyed (sweptDay .quiet stage) ∧ TablesKeyed (sweptDay .packed stage) ∧
    (sweptDay .quiet stage).ru.sweep = some { day := 19796, stage := stage, decided := 0 } ∧
    (sweptDay .packed stage).ru.sweep = some { day := 19796, stage := stage, decided := 0 } ∧
    (sweptDay .quiet stage).decision = some (1, .pack) ∧ (sweptDay .packed stage).decision = some (2, .repack) ∧
    (sweptDay .quiet stage).wa.packQueue.head? = some 19796 ∧ (sweptDay .packed stage).wa.repackQueue.head? = some 19796 ∧
    (sweptDay .quiet stage).wa.engine = none ∧ (sweptDay .quiet stage).ce.job = none ∧ ((sweptDay .quiet stage).part 19796).isSome := by
  unfold TablesKeyed; decide +kernel
theorem test_sweep_withdrawn : ∀ st ∈ [PartState.quiet, .packed], ∀ stage ∈ [SweepStage.waiting, .admitted],
    (grantEngine (sweptDay st stage)).any (fun t => decide (t.ru.sweep = none) && decide (t.wa.requests.get .sweep = []) &&
      (t.part 19796).any fun p => !p.moverHolding && !p.moverWaiting && decide (p.waitQueue = if stage = .admitted then [] else [.query 0])) = true := by
  decide +kernel

/-! ### Codings, holds and the arbiter -/

theorem witness_VarintAndRecordCoding : 562949953421311 < 562949953421312 ∧ (varint 127)[0]? = some 127 := by decide
theorem coldRecord_inRange : RecordInRange 19796 coldRecord :=
  ⟨by decide, by decide, by decide, by decide, by decide, by decide, by decide, by decide, by decide, by decide, by decide,
   fun c h => by cases h; decide, fun c h => by cases h; decide⟩
theorem witness_VarintAndRecordCoding_record : RecordInRange 19796 coldRecord ∧
    (∀ k t, some (447700123500, coldRecord.start) = some (k, t) →
      t / 86400 = 19796 ∧ (k < coldRecord.key ∨ (k = coldRecord.key ∧ t ≤ coldRecord.start))) :=
  ⟨coldRecord_inRange, fun k t h => by cases h; decide⟩
theorem witness_SegmentRoundTrip : [member coldRecord (.segment 0 0)].map (·.copy) = [coldRecord].map some ∧
    List.Pairwise (fun a b => recordLe a b = true) [coldRecord] ∧ ∀ r ∈ [coldRecord], RecordInRange 19796 r :=
  ⟨rfl, by simp, fun r h => by cases h with | head => exact coldRecord_inRange | tail _ h => cases h⟩
/-- An entry for a body of the cold record, with another body and check, then changed. -/
def coldEntry (f : SegEntry → SegEntry) (body : Bytes) : SegEntry :=
  f { segmentEntry 19796 [member coldRecord (.segment 0 0)] coldBody with check := crc32 body }
/-- The stored body, one that its check does not fit, and a FREE entry. -/
theorem witness_SegmentRoundTrip_reads : (archive.seg 0).isSome = true ∧ Tab.get archive.cs.bodies 0 = some coldBody ∧ archive.seg 9 = none ∧
    archive.decoded 0 .stored = some [coldRecord] ∧ archive.checkPasses 0 .stored = true ∧ archive.decoded 0 (.altered (coldBody ++ [0])) = none ∧
    archive.checkPasses 0 (.altered (coldBody ++ [0])) = false := by decide +kernel
/-- R114: a key difference of 0 may take two bytes; each of these fails though its CRC-32 is the entry's check: a byte left, a byte missing, S set,
a key difference of 1, two records counted, another day, a start before the earliest and after the latest, another last key, source 0. -/
theorem test_decode_refuses :
    (let padded := coldBody.take 1 ++ [0x80, 0x00] ++ coldBody.drop 2; decodeBody (coldEntry id padded) padded) = some [coldRecord] ∧
    ([(coldBody ++ [0], id), (coldBody.dropLast, id), (coldBody.modify 0 (· ||| 1), id), (coldBody.set 1 1, id), (coldBody, fun e => { e with records := 2 }),
      (coldBody, fun e => { e with day := 19797 }), (coldBody, fun e => { e with earliest := e.earliest + 1 }),
      (coldBody, fun e => { e with latest := e.latest - 1 }), (coldBody, fun e => { e with lastKey := e.lastKey + 1 }),
      (coldBody.map fun b => if b = 17 then 0 else b, id)] : List (Bytes × (SegEntry → SegEntry))).all
      (fun x => decide (decodeBody (coldEntry x.2 x.1) x.1 = none)) = true := by decide +kernel
theorem witness_HoldMatch : (hold 447700123456 8).firstDay ≤ 49710 ∧ 49710 ≤ (hold 447700123456 8).lastDay ∧
    maskSelects (hold 447700123456 8).classMask .other = true ∧ (hold 1 0).maskBits = 0 ∧ (hold 447700123456 8).key = 447700123456 ∧
    (hold 447700123456 8).maskBits = 8 := by decide

/-- A PACK and a SCAN request wait in the REST phase. -/
def contending : State := archive.mapWa fun w =>
  { w with requests := { w.requests with scan := [.slot 0] }, packQueue := [19800], phase := .rest, pressure := true }

theorem witness_GrantOrderAndPressure : contending.decision = some (0, .pack) ∧ archive.decision = none ∧ archive.wa.pressure = false ∧
    contending.wa.pressure = true := by decide

/-- Pressure set with every slot but one free, and clear with as many free. -/
def relieved : State := archive.mapWa fun w => { w with pressure := true }
def pressing : State := archive.mapCl fun c => { c with settings := { c.settings with lowWatermark := 67108864, highWatermark := 67108864 } }

theorem witness_GrantOrderAndPressure_due : ∀ s ∈ [relieved, pressing], (evalPressure s).wa.pressure ≠ s.wa.pressure ∧ serveWaiters s = none ∧
    startSweep s = none ∧ takeWaiting .queryUnit s = none ∧ takeWaiting .loader s = none ∧ grantEngine s = none := by decide +kernel
/-- Pressure that becomes set with a closed OPEN day, and becomes clear with two credits withheld. -/
def pressingClosed : State := onDay 19800 (fun p => { p with dayClosed := true }) pressing
theorem witness_GrantOrderAndPressure_effects : TablesKeyed pressingClosed ∧ pressingClosed.wa.packQueue = [] ∧ pressingClosed.wa.pressure = false ∧
    67108864 - pressingClosed.hs.slots.length < pressingClosed.cl.settings.lowWatermark ∧ withheldTwo.wa.pressure = true ∧
    withheldTwo.cl.settings.highWatermark ≤ 67108864 - withheldTwo.hs.slots.length ∧ withheldTwo.lp.withheld = 2 := by
  unfold TablesKeyed; decide +kernel
theorem test_pressure_effects : ((evalPressure pressingClosed).part 19800).map (·.state) = some .quiet ∧ (evalPressure pressingClosed).wa.packQueue = [19800] ∧
    (evalPressure withheldTwo).lp.outQueue.map (·.riders) = [2] ∧ (evalPressure withheldTwo).lp.inUse.frame = 2 := by decide +kernel

/-! ### The requests' and records' forms, waiting requests, the link reset -/

theorem witness_RecordAndParameterForms : coldRecord.source < 65536 ∧ coldRecord.sequence < 1099511627776 ∧ coldRecord.key < 281474976710656 ∧
    coldRecord.start < 4294967296 ∧ coldRecord.duration < 4294967296 ∧ coldRecord.volume < 4294967296 ∧ coldRecord.charge < 4294967296 ∧
    coldRecord.amendCount < 256 ∧ (∀ v, coldRecord.cell = some v → v < 4294967296) ∧ (∀ v, coldRecord.partner = some v → v < 65536) ∧
    (1099511627776 ≤ 281474976710655 ∧ { coldRecord with sequence := 281474976710655 }.sequence < 281474976710656) :=
  ⟨by decide, by decide, by decide, by decide, by decide, by decide, by decide, by decide, fun v h => by cases h; decide,
   fun v h => by cases h; decide, by decide⟩

/-- Two SET_CONFIGs wait behind the last step of a save. -/
def savingTwo : State := (savingAt 3).mapLp fun l =>
  { l with buffer := [{ kind := .setConfig, tag := 5, epoch := 0, pool := .control, params := .setConfig [(1, 3)] },
                      { kind := .setConfig, tag := 6, epoch := 0, pool := .control, params := .setConfig [(1, 4)] }] }

theorem witness_RequestWaitsForItsBlock_completion : savingTwo.cl.saving = some { step := 3, copied := defaultValues, tag := 9, epoch := 0 } ∧
    Settled savingTwo ∧ savingTwo.active = true ∧ (savingTwo.lp.buffer.filter fun b => b.kind.server == .loader).length = 2 :=
  ⟨rfl, settledOf (by decide), rfl, by decide⟩

/-- A QUERY_SUBSCRIBER and a VERIFY_DAYS at a stage. -/
def bothAt (stage : Stage) : State := (querying stage).mapAu fun _ => (verifying stage).au

theorem bothAt_keyed : ∀ st ∈ [Stage.pinWait, .grantWait, .quantum], TablesKeyed (bothAt st) := by
  unfold TablesKeyed; decide +kernel
theorem witness_LinkResetRestartsTheLink_ends : ∀ st ∈ [Stage.pinWait, .grantWait, .quantum], (bothAt st).lp.link = .opened ∧
    (bothAt st).lp.outQueue.any (·.startsReset) = false ∧ TablesKeyed (bothAt st) ∧ (∀ e ∈ (bothAt st).au.slots, e.2.epoch ≤ (bothAt st).lp.epoch) ∧
    (∀ e ∈ (bothAt st).qa.contexts, e.2.epoch ≤ (bothAt st).lp.epoch) := by
  intro st h
  refine ⟨rfl, ?_, bothAt_keyed st h, ?_, ?_⟩ <;> revert st <;> decide +kernel

/-! ### INGEST kinds with bad headers, and a duplicate's decode -/

theorem witness_RecordsDrainBegins_header : Accepted .records { rqFile 5 [] with rsv := 1 } .ingest filing ∧
    Accepted .records { staleRequest [] with rsv := 1 } .ingest filing ∧ headerOk .records 0 1 1 = false ∧ filing.ie.queue = [] ∧
    filing.ie.drain = none ∧ Settled filing ∧ filing.active = true ∧
    Accepted .records (staleRequest [1]) .ingest (draining [1]) ∧ Settled (draining [1]) :=
  ⟨acceptedOf (by decide), acceptedOf (by decide), by decide, rfl, rfl, settledOf (by decide), rfl, acceptedOf (by decide +kernel),
   settledOf (by decide +kernel)⟩

/-- The duplicate of the cold record whose segment is being decoded. -/
def coldDup : PendingDuplicate :=
  { record := (readDelivered againCold).clampedRecord, delivered := 5, size := 40, day := 19796, seg := 0, ord := 0, stage := .quantum }

def comparing : State :=
  ((onDay 19796 (fun p => { p with pins := 1 }) (draining (againCold ++ againCold))).mapIe fun e =>
    { e with drain := some { newDrain with dup := some coldDup } }).mapWa fun w =>
    { w with engine := some { kind := .query, who := .ingest, quantum := .decode, seg := 0 } }

theorem witness_RecordEventDuplicates_decode : comparing.ie.drain = some { newDrain with dup := some coldDup } ∧
    comparing.ie.queue.head? = some (batch (againCold ++ againCold)) ∧ comparing.openFile 0 1 = some file5 ∧
    newDrain.offset + coldDup.size < (againCold ++ againCold).length ∧
    comparing.wa.engine = some { kind := .query, who := .ingest, quantum := .decode, seg := 0 } ∧ comparing.decoded 0 .stored = some [coldRecord] ∧
    comparing.decoded 0 .fault = none ∧
    comparing.lookup (refOf coldDup.record.source coldDup.record.sequence) = some (coldRecord.entry (.segment 0 0)) :=
  ⟨rfl, rfl, by decide +kernel, by decide +kernel, rfl, by decide +kernel, rfl, by decide +kernel⟩

/-- The same duplicate at its pin, before it asks for a decode. -/
def pinnedDup : State := (comparing.mapIe fun e =>
  { e with drain := some { newDrain with dup := some { coldDup with stage := .pinWait } } }).mapWa fun w => { w with engine := none }

theorem witness_RecordEventDuplicates_first : RecordAtHand (batch againCold) newDrain file5 40 (draining againCold) ∧
    (let d := readDelivered againCold
     d.mustBeZero = true ∧ 1 ≤ d.source ∧ d.source ≤ 4095 ∧ d.source = file5.source ∧ d.charge ≤ 2147483647) :=
  ⟨recordOf (by decide +kernel), by decide +kernel⟩
theorem witness_RecordEventDuplicates_pinned : pinnedDup.ie.drain = some { newDrain with dup := some { coldDup with stage := .pinWait } } ∧
    pinnedDup.ie.queue.head? = some (batch (againCold ++ againCold)) ∧ pinnedDup.openFile 0 1 = some file5 ∧
    (dropEntry (refOf 17 1002) pinnedDup).lookup (refOf 17 1002) = none ∧
    (putEntry (refOf 17 1002) (coldRecord.entry (.hot 0)) pinnedDup).lookup (refOf 17 1002) = some (coldRecord.entry (.hot 0)) ∧
    (Tab.get pinnedDup.hs.slots 0).isSome ∧ pinnedDup.lookup (refOf 17 1002) = some (coldRecord.entry (.segment 0 0)) ∧
    (updSeg 0 (fun e => { e with state := .damaged }) pinnedDup).segActive 0 = false ∧ pinnedDup.segActive 0 = true := by decide +kernel
/-- R68 at the pin grant: the entry gone, the record is decided afresh and stored; its segment DAMAGED, the map entry is compared. -/
theorem test_duplicate_gone : (let t := ingestPinned (dropEntry (refOf 17 1002) pinnedDup)
    decide ((t.ie.drain.map fun d => (d.stored, d.duplicates, d.dup)) = some (1, 0, none)) && decide ((t.part 19796).map (·.pins) = some 0) &&
    (t.lookup (refOf 17 1002)).isSome) = true := by decide +kernel
theorem test_duplicate_unreadable : (let t := ingestPinned (updSeg 0 (fun e => { e with state := .damaged }) pinnedDup)
    decide ((t.ie.drain.map fun d => (d.duplicates, d.conflicts)) = some (1, 0)) && decide ((t.part 19796).map (·.pins) = some 0)) = true := by
  decide +kernel

theorem test_duplicate_decoded : leads (exec (.decodeCompletion .stored) comparing) (fun t =>
    decide ((t.ie.drain.map fun d => (d.duplicates, d.conflicts, d.dup)) = some (1, 0, none)) && decide (t.wa.engine = none)) = true := by decide +kernel

/-! ### Cancellation at a completion -/

/-- The QUERY_SUBSCRIBER and the VERIFY_DAYS, their cancellation pending, one of them in the engine. -/
def cancelling (who : Requester) (quantum : Quantum) : State :=
  (((bothAt .quantum).mapQa fun q => { q with contexts := Tab.upd q.contexts 0 fun x => { x with cancelling := true } }).mapAu fun a =>
    { a with slots := Tab.upd a.slots 0 fun x => { x with cancelling := true } }).mapWa fun w =>
    { w with engine := some { kind := .query, who := who, quantum := quantum, seg := 0 } }

/-- The slot holds an AUDIT_SCAN instead. -/
def cancellingScan : State := (cancelling (.slot 0) .decode).mapAu fun a =>
  { a with slots := Tab.upd a.slots 0 fun x => { x with work := .scan allRecords ScanResult.zero } }

theorem witness_CancelServed_completion :
    (∃ q p g, (cancelling (.query 0) .decode).queryCtx 0 = some q ∧ q.work = .subscriber p g ∧ q.cancelling = true) ∧
    (∃ q a b r, (cancelling (.slot 0) .check).scanSlot 0 = some q ∧ q.work = .verify a b r ∧ q.cancelling = true) ∧
    (∃ q f r, cancellingScan.scanSlot 0 = some q ∧ q.work = .scan f r ∧ q.cancelling = true) ∧
    (cancelling (.query 0) .decode).wa.engine = some { kind := .query, who := .query 0, quantum := .decode, seg := 0 } ∧
    (cancelling (.slot 0) .check).wa.engine = some { kind := .query, who := .slot 0, quantum := .check, seg := 0 } ∧
    cancellingScan.wa.engine = some { kind := .query, who := .slot 0, quantum := .decode, seg := 0 } :=
  ⟨⟨_, _, _, rfl, rfl, rfl⟩, ⟨_, _, _, _, rfl, rfl, rfl⟩, ⟨_, _, _, rfl, rfl, rfl⟩, rfl, rfl, rfl⟩
theorem test_cancelled_at_completion : leads (exec (.decodeCompletion .stored) (cancelling (.query 0) .decode)) (fun t =>
    State.lastFrame t == some (63, 16, []) && decide (t.qa.contexts = [])) = true := by decide +kernel

/-! ### Readers: QUERY_SUBSCRIBER, scans, verification -/

def subscriberCtx (p : SubscriberParams) (g : SubscriberProgress) (stage : Stage) : QueryContext :=
  { tag := 63, epoch := 0, stage := stage, cancelling := false, day := 19796, seg := 0, ord := 0, work := .subscriber p g }
def noneYet (toRead : List Nat) : SubscriberProgress := { toRead := toRead, candidates := [], dayUnreadable := 0, list := [], unreadable := 0 }

/-- The query of the cold record's key at its pin on day 19,796, and at the decode of segment 0. -/
def readingDay (last : Nat) (toRead : List Nat) (stage : Stage) : State :=
  (onDay 19796 (fun p => { p with pins := 1 }) archive).mapQa fun q =>
    { q with contexts := [(0, subscriberCtx { subscriberOf 0 last 15 none with key := 447700123500 } (noneYet toRead) stage)] }

theorem readingDay_keyed : TablesKeyed (readingDay 49710 [0] .quantum) := by unfold TablesKeyed; decide +kernel
theorem witness_SubscriberReads : (readingDay 49710 [] .pinWait).queryCtx 0 =
      some (subscriberCtx { subscriberOf 0 49710 15 none with key := 447700123500 } (noneYet []) .pinWait) ∧
    (readingDay 49710 [] .pinWait).part 19796 = some { coldPart with pins := 1 } ∧
    TablesKeyed (readingDay 49710 [] .pinWait) ∧ (readingDay 49710 [] .pinWait).lp.epoch = 0 ∧
    ([0].filter (readingDay 49710 [] .pinWait).segActive) = [0] ∧
    ([0].filter (onDay 19796 (fun p => { p with segments := [] }) (readingDay 49710 [] .pinWait)).segDamaged) = [] ∧
    (readingDay 49710 [0] .quantum).decoded 0 .stored = some [coldRecord] ∧ (readingDay 49710 [0] .quantum).decoded 0 .fault = none :=
  ⟨by decide +kernel, by decide +kernel, readingDay_keyed, rfl, by decide +kernel, by decide +kernel, by decide +kernel, rfl⟩

/-- The decode of segment 0 for it. -/
def readingSegment (last : Nat) : State := (readingDay last [0] .quantum).mapWa fun w =>
  { w with engine := some { kind := .query, who := .query 0, quantum := .decode, seg := 0 } }

theorem witness_SubscriberReads_decode : TablesKeyed (readingSegment 49710) ∧ (readingSegment 49710).lp.epoch = 0 ∧
    (readingSegment 49710).wa.engine = some { kind := .query, who := .query 0, quantum := .decode, seg := 0 } := ⟨readingDay_keyed, rfl, rfl⟩
/-- R90 with limit 1: a later non-FREE day of the range makes more 1. -/
theorem test_subscriber_more : leads (exec (.decodeCompletion .stored) (readingSegment 49710)) (fun t =>
    State.lastFrame t == some (63, 0, [1, 1] ++ be 2 19796 ++ be 4 1710374410 ++ be 8 (refOf 17 1002) ++ be 8 0 ++ be 2 1 ++ renderRecord coldRecord false)) = true := by
  decide +kernel
theorem test_subscriber_fault : leads (exec (.decodeCompletion .fault) (readingSegment 19796)) (fun t =>
    State.lastFrame t == some (63, 0, [0, 0] ++ be 8 1 ++ be 2 0)) = true := by decide +kernel

/-- An AUDIT_SCAN or VERIFY_DAYS at its pin on day 19,796. -/
def visiting (work : ScanWork) (toRead : List Nat) : State :=
  (onDay 19796 (fun p => { p with pins := 1 }) archive).mapAu fun a =>
    { a with slots := [(0, { tag := 63, epoch := 0, stage := .quantum, cancelling := false, visiting := 19796, toRead := toRead, work := work })] }
def allFilter : ScanFilter := { allRecords with classMask := 15, lastDay := 19796, flagsMatch := 2, flagsMask := 15 }
def inEngine (quantum : Quantum) (s : State) : State :=
  s.mapWa fun w => { w with engine := some { kind := .scan, who := .slot 0, quantum := quantum, seg := 0 } }

theorem visiting_keyed (work : ScanWork) (toRead : List Nat) : TablesKeyed (visiting work toRead) := by
  have h : TablesKeyed (onDay 19796 (fun p => { p with pins := 1 }) archive) := by unfold TablesKeyed; decide +kernel
  exact ⟨h.1, h.2.1, h.2.2.1, h.2.2.2.1, h.2.2.2.2.1, h.2.2.2.2.2.1, h.2.2.2.2.2.2.1, h.2.2.2.2.2.2.2.1, h.2.2.2.2.2.2.2.2.1,
    h.2.2.2.2.2.2.2.2.2.1, h.2.2.2.2.2.2.2.2.2.2.1, rfl⟩
theorem witness_ScanVisits (work : ScanWork) : (∃ q, (visiting work [0]).scanSlot 0 = some q ∧ q.work = work ∧ q.visiting = 19796 ∧
      q.toRead = [0] ∧ q.cancelling = false ∧ q.epoch = (visiting work [0]).lp.epoch) ∧ TablesKeyed (visiting work [0]) ∧
    (visiting work [0]).part 19796 = some { coldPart with pins := 1 } ∧ allFilter.flagsMask < 16 ∧
    (inEngine .decode (visiting work [0])).wa.engine = some { kind := .scan, who := .slot 0, quantum := .decode, seg := 0 } ∧
    (inEngine .check (visiting work [0])).wa.engine = some { kind := .scan, who := .slot 0, quantum := .check, seg := 0 } :=
  ⟨⟨_, rfl, rfl, rfl, rfl, rfl, rfl⟩, visiting_keyed work [0], rfl, by decide, rfl, rfl⟩
/-- R154, R156: the LATE data record of 10 s matches the flags LATE of all four; one record, bucket 1. -/
theorem test_scan_decoded : leads (exec (.decodeCompletion .stored) (inEngine .decode (visiting (.scan allFilter ScanResult.zero) [0]))) (fun t =>
    State.lastFrame t == some (63, 0, be 4 1 ++ be 8 1 ++ be 8 10 ++ be 8 7 ++ be 8 5 ++ be 8 0 ++ be 8 1 ++ be 8 0 ++ be 8 0 ++ be 8 0 ++ be 8 0
      ++ be 8 0 ++ [1] ++ be 4 1710374410 ++ [1] ++ be 4 1710374410)) = true := by decide +kernel
theorem test_verify_last : leads (exec (.readCompletion .fault) (inEngine .check (visiting (.verify 0 19796 VerifyResult.zero) [0]))) (fun t =>
    State.lastFrame t == some (63, 0, be 4 1 ++ be 4 1 ++ be 4 1 ++ be 4 0) && t.au.damageFound && decide (t.au.slots = [])) = true := by decide +kernel

/-! ### Moving amendments -/

/-- A moving amendment in flight, its reference, the location noted, the copy read. -/
def moving (ref : Nat) (day : Nat) (loc : Location) (copy : Option CallRecord) (s : State) : State := s.mapQa fun _ =>
  { contexts := [(0, { tag := 63, epoch := 0, stage := .quantum, cancelling := false, day := day, seg := 0, ord := 0, work := .amend (amendOf ref 0 9) })],
    inFlight := [(0, { params := amendOf ref 0 9, day := day, loc := loc, copy := copy, phase := .moverWait })] }

/-- Of the cold record, admitted; of the hot record in the snapshot of the pack job, admitted. -/
def movingCold : State := moving (refOf 17 1002) 19796 (.segment 0 0) (some coldRecord) archive
def movingHot : State := moving (refOf 17 1000) 19800 (.hot 0) (some hotRecord) sorting

theorem witness_MovingAmendment : (∃ q f, movingCold.queryCtx 0 = some q ∧ q.work = .amend (amendOf (refOf 17 1002) 0 9) ∧ q.epoch = movingCold.lp.epoch ∧
      Tab.get movingCold.qa.inFlight 0 = some f ∧ f.loc = .segment 0 0 ∧ f.copy = some coldRecord ∧ movingCold.part q.day = some coldPart ∧
      coldRecord.start / 86400 = q.day) ∧
    movingCold.lookup (refOf 17 1002) = some (coldRecord.entry (.segment 0 0)) ∧ movingCold.segActive 0 = true ∧
    movingCold.hs.slots.length < 67108864 ∧ movingCold.wa.pressure = false ∧ (movingCold.seg 0).map (·.day) = some 19796 ∧ TablesKeyed movingCold :=
  ⟨⟨_, _, rfl, rfl, rfl, rfl, rfl, rfl, by decide, by decide⟩, by decide +kernel, by decide +kernel, by decide, rfl, by decide +kernel,
   by unfold TablesKeyed; decide +kernel⟩
theorem witness_MovingAmendment_hot : (∃ q f, movingHot.queryCtx 0 = some q ∧ Tab.get movingHot.qa.inFlight 0 = some f ∧ f.loc = .hot 0 ∧
      f.copy = some hotRecord ∧ (movingHot.part q.day).map (·.state) = some .packing ∧ hotRecord.start / 86400 = q.day) ∧
    movingHot.lookup (refOf 17 1000) = some (hotRecord.entry (.hot 0)) ∧ (Tab.get movingHot.hs.slots 0).isSome ∧ TablesKeyed movingHot :=
  ⟨⟨_, _, rfl, rfl, rfl, rfl, by decide +kernel, by decide⟩, by decide +kernel, by decide +kernel, by unfold TablesKeyed; decide +kernel⟩

/-- The amendment waits as a mover behind a reader; QA takes other requests. -/
def besideMove : State := onDay 19796 (fun p => { p with pins := 1, waitQueue := [.move 0], moverWaiting := true }) movingCold

theorem witness_FetchServed_beside : Requested .fetch (rq 5 (be 8 (refOf 17 1000))) (.fetch (refOf 17 1000)) .query besideMove ∧
    (∀ c, Tab.get besideMove.qa.contexts c = none → Tab.get besideMove.qa.inFlight c = none) ∧ besideMove.qa.inFlight ≠ [] ∧ Settled besideMove ∧
    besideMove.waits .queryUnit = false ∧ besideMove.part 19800 = some hotPart ∧ TablesKeyed besideMove :=
  ⟨requested_of (by decide +kernel), fun c h => by
      by_cases e : c = 0
      · subst e; cases h
      · exact if_neg e,
   by decide, settledOf (by decide +kernel), rfl, by decide +kernel, by unfold TablesKeyed; decide +kernel⟩
theorem witness_QuerySubscriberServed_beside :
    Requested .querySubscriber (subscriberRequest 0 19795 15 [0]) (.querySubscriber (subscriberOf 0 19795 15 none)) .query besideMove ∧
    Requested .querySubscriber (subscriberRequest 0 49710 15 [0]) (.querySubscriber (subscriberOf 0 49710 15 none)) .query besideMove ∧
    (besideMove.part 19796).map (·.waitQueue) = some [.move 0] :=
  ⟨requested_of (by decide +kernel), requested_of (by decide +kernel), by decide +kernel⟩
theorem test_fetch_beside : leads (exec (.fetch (rq 5 (be 8 (refOf 17 1000)))) besideMove) (fun t =>
    State.lastFrame t == some (5, 0, renderRecord hotRecord false) && decide (t.qa = besideMove.qa)) = true := by decide +kernel

/-- The move that frees segment 0 while day 19,799 waits for a FREE slot. -/
theorem witness_MovingAmendment_freed : TablesKeyed (waitingDay movingCold) ∧ QueuesAgree (waitingDay movingCold) ∧
    ((waitingDay movingCold).seg 0).map (fun e => (e.day, e.live)) = some (19796, 1) ∧ (waitingDay movingCold).part 19796 = some coldPart ∧
    (waitingDay movingCold).lookup (refOf 17 1002) = some (coldRecord.entry (.segment 0 0)) ∧ (waitingDay movingCold).qa = movingCold.qa :=
  ⟨by unfold TablesKeyed; decide +kernel, agreeOf (by decide +kernel), by decide +kernel, by decide +kernel, by decide +kernel, rfl⟩
theorem test_moving_freed : (let t := moveAdmitted 0 (waitingDay movingCold)
    !t.ce.coldFull && decide (t.ce.coldWait = []) && decide (t.wa.packQueue = [19799])) = true := by decide +kernel

/-- The same amendments where a test of R96 or R97 turns them away: the record gone, amended since, moved since, its segment DAMAGED; the day OPEN. -/
theorem witness_MovingAmendment_turned : (dropEntry (refOf 17 1002) movingCold).lookup (refOf 17 1002) = none ∧
    ((putEntry (refOf 17 1002) { coldRecord.entry (.segment 0 0) with amendCount := 1 } movingCold).lookup (refOf 17 1002)).map (·.amendCount) = some 1 ∧
    ((putEntry (refOf 17 1002) (coldRecord.entry (.segment 1 0)) movingCold).lookup (refOf 17 1002)).map (·.loc) = some (.segment 1 0) ∧
    (updSeg 0 (fun e => { e with state := .damaged }) movingCold).segActive 0 = false ∧
    ((onDay 19800 (fun p => { p with state := .opened }) movingHot).part 19800).map (·.state) = some .opened ∧
    ((movingCold.mapWa fun w => { w with engine := some { kind := .query, who := .query 0, quantum := .decode, seg := 0 } }).decoded 0 .stored) =
      some [coldRecord] := by decide +kernel
theorem test_moving_cold : (let t := moveAdmitted 0 movingCold
    State.lastFrame t == some (63, 0, [1, 1, 0]) && decide (t.cs.dir = []) && decide ((t.lookup (refOf 17 1002)).map (·.loc) = some (.hot 1)) &&
    decide ((t.part 19796).map (fun p => (p.hotCount, p.segments)) = some (1, []))) = true := by decide +kernel
theorem test_moving_snapshot : (let t := moveAdmitted 0 movingHot
    State.lastFrame t == some (63, 0, [1, 1, 0]) && decide (t.hs.slots.map (·.1) = [0, 1]) &&
    decide ((t.part 19800).map (·.hotCount) = some 2)) = true := by decide +kernel

/-! ### The switch-over and the repack job -/

/-- The pack job admitted to its switch-over, a second member retired since the snapshot. -/
def switching : State :=
  (updPart 19800 (fun p => { p with moverHolding := true }) writing).mapCe fun c =>
    { c with job := some { packJob with rest := [], phase := .switchWait, members := [member hotRecord (.hot 0), member newRecord (.hot 1)],
                                        written := [(1, [member hotRecord (.hot 0), member newRecord (.hot 1)])] } }

/-- A repack job of day 19,796 admitted to its switch-over from segment 0 to segment 1. -/
def reswitching : State :=
  ((onDay 19796 (fun p => { p with state := .repacking, moverHolding := true }) archive).mapCe fun c =>
    { c with job := some { newJob true 19796 .switchWait [member coldRecord (.segment 0 0)] [] [] with
                             written := [(1, [member coldRecord (.segment 0 0)])] } }).mapCs fun c =>
    { c with dir := Tab.put c.dir 1 (segmentEntry 19796 [member coldRecord (.segment 0 0)] coldBody) }

theorem switchable {s : State} {j : Job} {n : Nat} {ms : List Member} (hj : s.ce.job = some j) (hw : j.written = [(n, ms)]) (hn : (s.seg n).isSome)
    (hr : (ms.map (·.ref)).Nodup) (hl : ∀ m ∈ ms, m.inSegment n = false) (hd : ∀ m ∈ ms, ∀ k, m.inSegment k = true → ∀ e, s.seg k = some e → e.day = j.day) :
    s.ce.job = some j ∧ (j.written.map (·.1)).Nodup ∧ (∀ w ∈ j.written, (s.seg w.1).isSome) ∧ ((j.written.flatMap (·.2)).map (·.ref)).Nodup ∧
    ∀ k, 0 < (j.written.flatMap (·.2)).countP (fun m => m.stays s && m.inSegment k) →
      k ∉ j.written.map (·.1) ∧ ∀ e, s.seg k = some e → e.day = j.day := by
  refine ⟨hj, by simp [hw], by simpa [hw] using hn, by simpa [hw] using hr, fun k hk => ?_⟩
  obtain ⟨m, hm, h⟩ := List.countP_pos_iff.mp hk
  simp only [hw, List.flatMap_cons, List.flatMap_nil, List.append_nil] at hm
  simp only [Bool.and_eq_true] at h
  refine ⟨fun hmem => ?_, hd m hm k h.2⟩
  simp only [hw, List.map_cons, List.map_nil, List.mem_singleton] at hmem
  subst hmem
  simp [hl m hm] at h
theorem witness_SwitchOverMoves : ∃ j, switching.ce.job = some j ∧ (j.written.map (·.1)).Nodup ∧ (∀ w ∈ j.written, (switching.seg w.1).isSome) ∧
    ((j.written.flatMap (·.2)).map (·.ref)).Nodup ∧
    ∀ k, 0 < (j.written.flatMap (·.2)).countP (fun m => m.stays switching && m.inSegment k) →
      k ∉ j.written.map (·.1) ∧ ∀ e, switching.seg k = some e → e.day = j.day :=
  ⟨_, switchable rfl rfl (by decide +kernel) (by decide) (by decide) (fun m hm k hk => by
    obtain rfl | rfl : m = member hotRecord (.hot 0) ∨ m = member newRecord (.hot 1) := by simpa using hm
    all_goals cases hk)⟩
theorem witness_SwitchOverMoves_repack : ∃ j, reswitching.ce.job = some j ∧ (j.written.map (·.1)).Nodup ∧
    (∀ w ∈ j.written, (reswitching.seg w.1).isSome) ∧ ((j.written.flatMap (·.2)).map (·.ref)).Nodup ∧
    ∀ k, 0 < (j.written.flatMap (·.2)).countP (fun m => m.stays reswitching && m.inSegment k) →
      k ∉ j.written.map (·.1) ∧ ∀ e, reswitching.seg k = some e → e.day = j.day :=
  ⟨_, switchable rfl rfl (by decide +kernel) (by decide) (by decide) (fun m hm k hk e he => by
    obtain rfl : m = member coldRecord (.segment 0 0) := by simpa using hm
    obtain rfl : 0 = k := of_decide_eq_true hk
    have h : reswitching.seg 0 = some { segmentEntry 19796 [member coldRecord (.segment 0 0)] coldBody with state := .active, live := 1 } := by
      decide +kernel
    rw [h] at he
    cases he
    rfl)⟩
/-- The same with day 19,799 in the wait for a FREE slot; the job is the same. -/
theorem witness_SwitchOverMoves_freed : QueuesAgree (waitingDay reswitching) ∧ (waitingDay reswitching).ce.job = reswitching.ce.job ∧
    (waitingDay reswitching).cs = reswitching.cs ∧ (waitingDay reswitching).ix = reswitching.ix ∧
    (reswitching.ce.job.any fun j => (j.written.flatMap (·.2)).any fun m => m.stays reswitching && m.inSegment 0) = true ∧
    (reswitching.seg 0).map (fun e => (e.day, e.live)) = some (19796, 1) :=
  ⟨agreeOf (by decide +kernel), rfl, rfl, rfl, by decide +kernel, by decide +kernel⟩
/-- R104: the old segment FREE, the day that waited joins the pack queue. -/
theorem test_switchOver_freed : (let t := switchOver (waitingDay reswitching)
    !t.ce.coldFull && decide (t.ce.coldWait = []) && decide (t.wa.packQueue = [19799]) &&
    decide (t.part 19799 = (waitingDay reswitching).part 19799)) = true := by decide +kernel
/-- A DAMAGED segment 5 of the same first key behind segment 0 in the list. -/
def reswitchingBeside : State := (onDay 19796 (fun p => { p with segments := [0, 5] }) reswitching).mapCs fun c =>
  { c with dir := Tab.put c.dir 5 { segmentEntry 19796 [member coldRecord (.segment 0 0)] coldBody with state := .damaged, live := 1 } }

theorem witness_SwitchOverMoves_order : ((reswitchingBeside.seg 0).map (·.firstKey) = some coldRecord.key) ∧
    (reswitchingBeside.seg 5).map (·.firstKey) = some coldRecord.key ∧ (reswitchingBeside.seg 1).map (·.firstKey) = some coldRecord.key ∧
    (reswitchingBeside.part 19796).map (·.segments) = some [0, 5] ∧ reswitchingBeside.ce = reswitching.ce := by decide +kernel
/-- R41: the new segment stands after the one with the same first key. -/
theorem test_switchOver_order : ((switchOver reswitchingBeside).part 19796).map (·.segments) = some [5, 1] := by decide +kernel
/-- R123: the old segment is freed and the new one ACTIVE with its one live record. -/
theorem test_switchOver_repack : (let t := switchOver reswitching
    decide (t.cs.dir.map (fun e => (e.1, e.2.state, e.2.live)) = [(1, .active, 1)]) &&
    decide ((t.part 19796).map (fun p => (p.state, p.segments)) = some (.packed, [1])) &&
    decide ((t.lookup (refOf 17 1002)).map (·.loc) = some (.segment 1 0))) = true := by decide +kernel

/-- A day at the head of the repack queue. -/
def repackable (d : Nat) (s : State) : State := s.mapWa fun w => { w with repackQueue := [d] }
/-- Day 19,800 PACKED with its one hot record; a PACKED day without records. -/
def packedHot : State := onDay 19800 (fun p => { p with state := .packed }) archive
def packedEmpty : State := packedHot.mapIx fun x => { x with map := [] }

theorem witness_RepackJob : ∀ s ∈ [repackable 19796 archive, repackable 19800 packedHot, repackable 19800 packedEmpty],
    s.wa.engine = none ∧ s.decision = some (2, .repack) ∧ s.wa.requests.get .repack = [] ∧ s.ce.job = none ∧
    (∃ d, s.wa.repackQueue = [d] ∧ (s.part d).isSome) ∧ s.ru.sweep = none ∧
    (∀ e ∈ s.ix.map, ∀ n ∈ [0], e.2.loc = .hot n → (Tab.get s.hs.slots n).isSome) := by
  intro s h
  simp only [List.mem_cons, List.not_mem_nil, or_false] at h
  obtain rfl | rfl | rfl := h
  · exact ⟨rfl, by decide +kernel, rfl, rfl, ⟨19796, rfl, by decide⟩, rfl, by decide +kernel⟩
  · exact ⟨rfl, by decide +kernel, rfl, rfl, ⟨19800, rfl, by decide⟩, rfl, by decide +kernel⟩
  · exact ⟨rfl, by decide +kernel, rfl, rfl, ⟨19800, rfl, by decide⟩, rfl, by decide +kernel⟩
/-- The job is DECODING segment 0, then others. -/
def decoding (members : List Member) (rest : List Nat) : State :=
  ((onDay 19796 (fun p => { p with state := .repacking }) archive).mapCe fun c =>
    { c with job := some (newJob true 19796 .decoding members [] (0 :: rest)) }).mapWa fun w =>
    { w with engine := some { kind := .repack, who := .job, quantum := .decode, seg := 0 } }
def coldMember : Member := { ref := refOf 17 1002, loc := .segment 0 0, copy := none }

theorem witness_RepackJob_decode : ∀ rest ∈ [[], [3]], ∃ j, (decoding [coldMember] rest).ce.job = some j ∧ j.repack = true ∧ j.toDecode = 0 :: rest ∧
    (decoding [coldMember] rest).wa.engine = some { kind := .repack, who := .job, quantum := .decode, seg := 0 } ∧
    ((decoding [coldMember] rest).part j.day).isSome ∧ (decoding [coldMember] rest).decoded 0 .stored = some [coldRecord] ∧
    (decoding [coldMember] rest).decoded 0 .fault = none := by
  intro rest h
  simp only [List.mem_cons, List.not_mem_nil, or_false] at h
  obtain rfl | rfl := h <;> exact ⟨_, rfl, rfl, rfl, rfl, by decide, by decide +kernel, rfl⟩
theorem test_repack_decoded : leads (exec (.decodeCompletion .stored) (decoding [coldMember] [])) (fun t =>
    decide (t.ce.job.map (fun j => (j.phase, j.rest.length)) = some (.encoding, 1)) && decide (t.wa.engine.map (·.quantum) = some .write)) = true := by
  decide +kernel
theorem test_repack_damaged : leads (exec (.decodeCompletion .fault) (decoding [coldMember] [])) (fun t =>
    decide (t.ce.job = none) && decide ((t.part 19796).map (·.state) = some .packed) && decide ((t.seg 0).map (·.state) = some .damaged)) = true := by
  decide +kernel

/-! ### Grants -/

/-- One request in the queue of its kind. -/
def asked (k : JobKind) (who : Requester) (s : State) : State := s.mapWa fun w => { w with engine := none, requests := w.requests.set k [who] }
/-- A patrol step that waits for its grant; a sweep that holds its day. -/
def patrolAsking : State := asked .patrol .patrol checking
def sweepAsking : State := asked .sweep .sweep sweeping
def packAsking : State := archive.mapWa fun w => { w with packQueue := [19800] }
def encodeAsking : State := asked .pack .job sorting

theorem witness_GrantTaken :
    ((asked .query (.query 0) fetching).decision = some (0, .query) ∧ ((asked .query (.query 0) fetching).queryCtx 0).isSome) ∧
    ((asked .query .ingest comparing).decision = some (0, .query) ∧ ((asked .query .ingest comparing).ie.drain.bind (·.dup)).isSome) ∧
    ((asked .scan (.slot 0) (visiting (.scan allFilter ScanResult.zero) [0])).decision = some (3, .scan)) ∧
    ((asked .verify (.slot 0) (verifying .grantWait)).decision = some (2, .verify) ∧ (verifying .grantWait).segActive 0 = true) ∧
    (patrolAsking.decision = some (3, .patrol) ∧ patrolAsking.au.patrol.isSome) ∧
    (sweepAsking.decision = some (2, .sweep) ∧ sweepAsking.ru.sweep.isSome) ∧
    (packAsking.decision = some (1, .pack) ∧ packAsking.wa.requests.get .pack = [] ∧ packAsking.ce.job = none ∧ packAsking.ru.sweep = none ∧
      packAsking.part 19800 = some hotPart) ∧
    (encodeAsking.decision = some (1, .pack) ∧ encodeAsking.ce.job = some packJob ∧ encodeAsking.seg 1 = none ∧ (encodeAsking.seg 0).isSome) ∧
    fetching.wa.engine ≠ none ∧ archive.decision = none := by decide +kernel
theorem witness_GrantTaken_keyed : TablesKeyed encodeAsking := by unfold TablesKeyed; decide +kernel

/-- Segment 0 is DAMAGED. -/
def spoiled (s : State) : State := updSeg 0 (fun e => { e with state := .damaged }) s
/-- The verification with segment 0 its last. -/
def verifyingLast : State := (verifying .grantWait).mapAu fun a => { a with slots := Tab.upd a.slots 0 fun q => { q with toRead := [0] } }

/-- R106, R159: a request at its grant whose segment is no longer ACTIVE. -/
theorem witness_GrantTaken_unreadable :
    (∀ e ∈ [(JobKind.query, Requester.query 0, fetching), (.query, .ingest, comparing), (.scan, .slot 0, visiting (.scan allFilter ScanResult.zero) [0]),
        (.verify, .slot 0, verifying .grantWait), (.verify, .slot 0, verifyingLast), (.patrol, .patrol, checking)],
      let s := spoiled (asked e.1 e.2.1 e.2.2)
      s.wa.engine = none ∧ s.decision.map (·.2) = some e.1 ∧ s.wa.requests.get e.1 = [e.2.1] ∧ s.segActive 0 = false) ∧
    ((spoiled fetching).queryCtx 0).map (fun q => (q.seg, q.epoch)) = some (0, fetching.lp.epoch) ∧
    ((spoiled comparing).ie.drain.bind (·.dup)).map (·.seg) = some 0 ∧
    ((spoiled (verifying .grantWait)).scanSlot 0).map (fun q => (q.cancelling, q.toRead)) = some (false, [0, 1]) ∧
    ((spoiled verifyingLast).scanSlot 0).map (fun q => (q.cancelling, q.toRead)) = some (false, [0]) ∧
    (spoiled checking).au.patrol.map (·.seg) = some 0 := by decide +kernel
theorem test_grant_fetch_unreadable : (grantEngine (spoiled (asked .query (.query 0) fetching))).any (fun t =>
    decide (t.wa.engine = none) && State.lastFrame t == some (6, 9, []) && !t.au.damageFound && decide ((t.part 19796).map (·.pins) = some 0)) = true := by
  decide +kernel
/-- R159: the segment DAMAGED since the pin grant counts as already damaged, and the next segment is asked for. -/
theorem test_grant_verify_damaged : (grantEngine (spoiled (asked .verify (.slot 0) (verifying .grantWait)))).any (fun t =>
    decide (t.wa.engine = none) && decide (t.wa.requests.get .verify = [.slot 0]) &&
    decide ((t.scanSlot 0).map (fun q => (q.toRead, q.work)) = some ([1], .verify 0 49710 { VerifyResult.zero with alreadyDamaged := 1 }))) = true := by
  decide +kernel

/-- A REPACK job asks for the decode of segment 0: with a cold member, then with more to decode; with a hot member beside it. -/
def decodeAsking (members : List Member) (rest : List Nat) : State := asked .repack .job (decoding members rest)

/-- R122: the decode at its grant, the segment ACTIVE, or DAMAGED with a decode left, with a copied member left, with none. -/
theorem witness_GrantTaken_decoding :
    ∀ e ∈ [([coldMember], [3]), ([coldMember, member hotRecord (.hot 0)], []), ([coldMember], [])],
      let s := decodeAsking e.1 e.2
      s.wa.engine = none ∧ s.decision = some (2, .repack) ∧ s.wa.requests.get .repack = [.job] ∧
      (∃ j, s.ce.job = some j ∧ j.repack = true ∧ j.phase = .decoding ∧ j.toDecode = 0 :: e.2 ∧ j.members = e.1 ∧ (s.part j.day).isSome) ∧
      s.segActive 0 = true ∧ (spoiled s).segActive 0 = false ∧ (spoiled s).decision = some (2, .repack) := by
  intro e h
  simp only [List.mem_cons, List.not_mem_nil, or_false] at h
  obtain rfl | rfl | rfl := h <;>
    exact ⟨rfl, by decide +kernel, rfl, ⟨_, rfl, rfl, rfl, rfl, rfl, by decide⟩, by decide +kernel, by decide +kernel, by decide +kernel⟩
theorem test_grant_decode : (grantEngine (decodeAsking [coldMember] [])).map (fun t => (t.wa.engine.map (·.quantum), t.wa.requests.get .repack)) =
      some (some .decode, []) ∧
    (grantEngine (spoiled (decodeAsking [coldMember] []))).map (fun t => (t.wa.engine, t.ce.job, (t.part 19796).map (·.state))) =
      some (none, none, some .packed) ∧
    (grantEngine (spoiled (decodeAsking [coldMember] [3]))).map (fun t =>
      (t.wa.requests.get .repack, t.ce.job.map fun j => (j.members.length, j.toDecode))) = some ([.job], some (0, [3])) ∧
    (grantEngine (spoiled (decodeAsking [coldMember, member hotRecord (.hot 0)] []))).map (fun t =>
      t.ce.job.map fun j => (j.phase, j.members.length, j.rest.length)) = some (some (.encoding, 1, 1)) := by decide +kernel

/-- R113: the fields of the entry that the encode quantum takes. -/
theorem test_grant_encode : (grantEngine encodeAsking).bind (fun t => (t.seg 1).map fun e =>
    decide (e.state = .writing ∧ e.day = 19800) && decide ([e.records, e.firstKey, e.lastKey, e.earliest, e.latest] =
      [1, hotRecord.key, hotRecord.key, hotRecord.start, hotRecord.start])) = some true := by decide +kernel

/-- The first n entries of the Segment Directory in use. -/
def filled (n : Nat) : State := encodeAsking.mapCs fun c => { c with dir := (List.range n).map fun i => (i, segmentEntry 19796 [] []) }

theorem rising_range (n k : Nat) (f : Nat → SegEntry) : Tab.rising ((List.range' k n).map fun i => (i, f i)) = true := by
  induction n generalizing k with
  | zero => rfl
  | succ n ih =>
    cases n with
    | zero => rfl
    | succ n =>
      have h := ih (k + 1)
      simp only [List.range'_succ, List.map_cons, Tab.rising] at h ⊢
      simp [h]
theorem isSome_of_mem {t : Tab SegEntry} {k : Nat} {v : SegEntry} (h : (k, v) ∈ t) : (Tab.get t k).isSome := by
  induction t with
  | nil => cases h
  | cons e t ih =>
    simp only [Tab.get]
    split
    · rfl
    · cases h with
      | head => contradiction
      | tail _ h => exact ih h
theorem filled_keyed (n : Nat) : TablesKeyed (filled n) ∧ ∀ i, i < n → ((filled n).seg i).isSome := by
  obtain ⟨a, b, c, d, e, f, _, h⟩ := witness_GrantTaken_keyed
  have hr : Tab.rising (filled n).cs.dir = true := by
    have := rising_range n 0 fun _ => segmentEntry 19796 [] []
    rwa [← List.range_eq_range'] at this
  refine ⟨⟨a, b, c, d, e, f, hr, h⟩, fun i hi => ?_⟩
  have hm : (i, segmentEntry 19796 [] []) ∈ (filled n).cs.dir := List.mem_map.mpr ⟨i, List.mem_range.mpr hi, rfl⟩
  exact isSome_of_mem hm
theorem witness_GrantTaken_full : TablesKeyed (filled 1048576) ∧ (∀ i, i < 1048576 → ((filled 1048576).seg i).isSome) ∧
    (filled 1048576).ce.job = some packJob ∧ (filled 1048576).decision = encodeAsking.decision := by
  have h (n : Nat) : (filled n).ce.job = encodeAsking.ce.job ∧ (filled n).decision = encodeAsking.decision := ⟨rfl, rfl⟩
  exact ⟨(filled_keyed _).1, (filled_keyed _).2, (h _).1, (h _).2⟩

/-- R167: two readers leave one wait queue in one event. At an IDLE engine the first request placed is granted; at a completion the higher level. -/
def twoReaders : State :=
  (onDay 19796 (fun p => { p with waitQueue := [.scan 0, .query 0] }) (visiting (.scan allFilter ScanResult.zero) [])).mapQa fun q =>
    { q with contexts := [(0, subscriberCtx { subscriberOf 0 19796 15 none with key := 447700123500 } (noneYet []) .pinWait)] }
theorem test_grant_first_placed : decide ((settle twoReaders).wa.engine.map (·.kind) = some .scan) = true := by decide +kernel
theorem test_grant_at_completion : decide ((settleCompletion twoReaders).wa.engine.map (·.kind) = some .query) = true := by decide +kernel
/-- A sweep whose day's one record lies in hot slot 0; pressure set, the free count one below the high watermark. -/
def retiring : State :=
  (((putEntry (refOf 17 1000) { hotRecord.entry (.hot 0) with day := 19796, cls := .data } sweeping).mapIx fun x =>
    { x with map := x.map.filter fun e => e.1 == refOf 17 1000 }).mapCl fun c =>
      { c with settings := { c.settings with lowWatermark := 1, highWatermark := 67108864 } }).mapWa fun w => { w with pressure := true }
/-- R170: the free count that a decision leaves decides pressure at the event's end. -/
theorem test_pressure_cleared : leads (exec .sweepDecision retiring) (fun t => decide (t.hs.slots = []) && !t.wa.pressure) = true := by decide +kernel

/-- Two sweep entries left on day 19,796: the cold record and one in hot slot 0, the sweep's quantum at its last decision; a moving amendment of
the cold one waits as a mover. -/
def retiringThenMoving : State :=
  let hot : MapEntry := { hotRecord.entry (.hot 0) with day := 19796, cls := .data }
  ((((onDay 19796 (fun p => { p with live := { p.live with data := 2 }, hotCount := 1, waitQueue := [.move 0], moverWaiting := true })
    (moving (refOf 17 1002) 19796 (.segment 0 0) (some coldRecord) sweeping)).mapIx fun x => { x with map := Tab.put x.map (refOf 17 1000) hot }).mapRu fun u =>
      { u with sweep := some { day := 19796, stage := .running, decided := 4095 } }).mapCl fun c =>
        { c with settings := { c.settings with lowWatermark := 1, highWatermark := 67108864 } }).mapWa fun w => { w with pressure := true }
/-- The decision frees slot 0, which brings the count to the high watermark; the move then admitted takes a slot, and pressure stays set. -/
theorem test_pressure_at_the_end : leads (exec .sweepDecision retiringThenMoving) (fun t =>
    t.wa.pressure && decide (t.hs.slots.length = 1) && decide ((t.lookup (refOf 17 1002)).map (·.amendCount) = some 1) &&
    decide (t.lookup (refOf 17 1000) = none)) = true := by decide +kernel
/-- R26, R171: a commit that sets pressure withholds the frame credit of the drain it ends. -/
theorem test_pressure_withholds : leads (exec .recordEvent ((draining (renderRecord newRecord false)).mapCl fun c =>
      { c with settings := { c.settings with lowWatermark := 67108863, highWatermark := 67108864 } })) (fun t =>
    t.wa.pressure && decide (t.lp.withheld = 1) && decide (t.ie.queue = [])) = true := by decide +kernel
/-- R31: one SET_CONFIG is taken at the event, the second waits for the next. -/
theorem test_one_request_per_event : leads (exec (.eepromWriteCompletion false) savingTwo) (fun t =>
    decide (t.cl.settings.graceDays = 3) && decide (t.lp.buffer.length = 1) &&
    leads (exec .laneLockReturn t) (fun u => decide (u.cl.settings.graceDays = 4) && decide (u.lp.buffer = []))) = true := by decide +kernel
/-- R179: the RESET input asserted during start-up: no warm reset, and HELLO waits for the release. -/
theorem test_reset_during_start : leads (exec (.powerOn false ⟨false, true⟩) (off false)) (fun t =>
    t.active && !t.power.warmReset && leads (exec .hello t) (fun u => decide (u = t)) &&
    leads (exec .resetPinRelease t) (fun u => leads (exec .hello u) fun v => decide (v.lp.link = .opened))) = true := by decide +kernel
/-- R162: a step that has wrapped past the day at which it began, since freed, ends. -/
theorem test_patrol_wraps : leads (exec .laneLockReturn ((onDay 19796 (fun p => { p with segments := [], waitQueue := [.patrol] }) archive).mapAu fun a =>
    { a with patrol := some { began := some 19900, wrapped := true, day := 19796, seg := 0, place := 0, stage := .pinWait } })) (fun t =>
    decide (t.au.patrol = none) && decide ((t.au.cursorDay, t.au.cursorPlace) = (19900, 0))) = true := by decide +kernel

/-! ### The end of a sweep walk -/

theorem sweeping_keyed : TablesKeyed sweeping := by unfold TablesKeyed; decide +kernel
theorem witness_WalkEnds : sweeping.wa.engine = some { kind := .sweep, who := .sweep, quantum := .sweep, seg := 0 } ∧
    sweeping.ru.sweep = some { day := 19796, stage := .running, decided := 0 } ∧
    Tab.get sweeping.ru.queue 19796 = some { walk := none, restart := false } ∧
    sweeping.nextEntry 19796 none = some (refOf 17 1002, coldRecord.entry (.segment 0 0)) ∧
    (∀ e ∈ sweeping.ix.map, e.2.day = 19796 → e.1 = refOf 17 1002) ∧
    (∃ p, sweeping.part 19796 = some p ∧ p.expiryDue.get .data = true ∧ p.live.get .data = 1 ∧ p.live.total = 1 ∧ p.waitQueue = []) ∧
    sweeping.expired 19796 .data = true ∧ sweeping.held 447700123500 19796 .data = false ∧ sweeping.wa.pressure = false ∧
    sweeping.cl.settings.lowWatermark ≤ sweeping.freeSlots ∧ TablesKeyed sweeping :=
  ⟨rfl, rfl, rfl, by decide +kernel, by decide +kernel, ⟨_, rfl, rfl, rfl, rfl, rfl⟩, by decide +kernel, by decide +kernel, rfl, by decide +kernel,
   sweeping_keyed⟩
/-- The same with day 19,799 in the wait for a FREE slot. -/
theorem witness_WalkEnds_freed : TablesKeyed (waitingDay sweeping) ∧ QueuesAgree (waitingDay sweeping) ∧
    (waitingDay sweeping).nextEntry 19796 none = some (refOf 17 1002, coldRecord.entry (.segment 0 0)) ∧
    (waitingDay sweeping).part 19796 = sweeping.part 19796 ∧ ((waitingDay sweeping).seg 0).map (·.live) = some 1 :=
  ⟨by unfold TablesKeyed; decide +kernel, agreeOf (by decide +kernel), by decide +kernel, by decide +kernel, by decide +kernel⟩
/-- A last entry whose class is not due, and whose retention of 4 days is not outlived. -/
theorem witness_WalkEnds_passed : (∀ s ∈ [onDay 19796 (fun p => { p with expiryDue := PerClass.all false }) sweeping,
      sweeping.mapRu fun u => { u with table := { u.table with data := { active := 4, pending := 4 } } }],
    s.nextEntry 19796 none = some (refOf 17 1002, coldRecord.entry (.segment 0 0)) ∧ TablesKeyed s ∧
    (s.part 19796).map (·.live.total) = some 1 ∧ s.ru.sweep = sweeping.ru.sweep) ∧ sweeping.ck.archiveTime / 86400 = 19800 := by
  unfold TablesKeyed; decide +kernel
/-- The second of two entries, the first decided: its retirement leaves one live record. -/
def sweepingSecond : State := (sweepingTwo true 3 []).mapRu fun u => { u with queue := [(19796, { walk := some (refOf 17 1002), restart := false })] }
theorem witness_WalkEnds_remaining : sweepingSecond.nextEntry 19796 (some (refOf 17 1002)) = some (later.ref, later.entry (.segment 0 1)) ∧
    (∀ e ∈ sweepingSecond.ix.map, e.2.day = 19796 → e.1 ≤ later.ref) ∧ TablesKeyed sweepingSecond ∧
    (∃ p, sweepingSecond.part 19796 = some p ∧ p.expiryDue.get .data = true ∧ 0 < p.live.get .data ∧ 1 < p.live.total) :=
  ⟨by decide +kernel, by decide +kernel, by unfold TablesKeyed; decide +kernel, _, rfl, by decide⟩
/-- R141: the walk over, the flags clear and the day out of the Sweep Queue: an entry passed by, and one retired while another stays. -/
theorem test_walk_over : [onDay 19796 (fun p => { p with expiryDue := PerClass.all false }) sweeping, sweepingSecond].all (fun s =>
    leads (exec .sweepDecision s) fun t => decide (t.ru.queue = []) && decide (t.ru.sweep = none) &&
      decide ((t.part 19796).map (fun p => (p.expiryDue, p.live.data, p.moverHolding)) = some (PerClass.all false, 1, false))) = true := by decide +kernel
/-- Two FETCHes wait for the day that the last retirement frees. -/
def sweepingAwaited : State := (onDay 19796 (fun p => { p with waitQueue := [.query 1, .query 0] }) sweeping).mapQa fun q =>
  { q with contexts := [0, 1].map fun c => (c, { tag := 6 + c, epoch := 0, stage := .pinWait, cancelling := false, day := 19796, seg := 0, ord := 0,
                                                 work := .fetch (refOf 17 1002) }) }
theorem witness_WalkEnds_awaited : TablesKeyed sweepingAwaited ∧ (sweepingAwaited.part 19796).map (·.waitQueue) = some [.query 1, .query 0] := by
  unfold TablesKeyed; decide +kernel
/-- R52: both are answered NOT_FOUND, in arrival order (log entry 37). -/
theorem test_walk_releases : leads (exec .sweepDecision sweepingAwaited) (fun t => decide (t.qa.contexts = []) &&
    decide (t.lp.outQueue.map (fun f => (f.tag, f.status)) = [(7, Status.notFound), (6, Status.notFound)])) = true := by decide +kernel
/-- The same with a hold on the key, once with a restart due. -/
theorem witness_WalkEnds_held : ∀ restart : Bool,
    let s := sweeping.mapRu fun u => { u with holds := [(1, hold 447700123500 0)], queue := [(19796, { walk := none, restart := restart })] }
    s.held 447700123500 19796 .data = true ∧ Tab.get s.ru.queue 19796 = some { walk := none, restart := restart } ∧ TablesKeyed s := by
  intro restart
  have h : (sweeping.mapRu fun u => { u with holds := [(1, hold 447700123500 0)] }).held 447700123500 19796 .data = true := by decide +kernel
  obtain ⟨a, b, c, d, e, f, g, i, _, _, j⟩ := sweeping_keyed
  exact ⟨h, rfl, a, b, c, d, e, f, g, i, rfl, rfl, j⟩
end Sys2Proof.Tests
end

section
/-! The bytes of the Request Link: fields most significant byte first, written and read back, and the frame made of them (O17). -/

namespace Sys2Proof.Wire

/-! ## Numbers in bytes -/

@[simp] theorem be_length (n v : Nat) : (be n v).length = n := by
  induction n with
  | zero => rfl
  | succ n ih => simp [be, ih]

theorem readBE_cons (b : Byte) (bs : Bytes) : readBE (b :: bs) = b.toNat * 256 ^ bs.length + readBE bs := by
  have fold (bs : Bytes) (a : Nat) :
      bs.foldl (fun a b => a * 256 + b.toNat) a = a * 256 ^ bs.length + bs.foldl (fun a b => a * 256 + b.toNat) 0 := by
    induction bs generalizing a with
    | nil => simp
    | cons x bs ih =>
      rw [List.foldl_cons, ih, List.foldl_cons, ih (0 * 256 + x.toNat), List.length_cons]
      ring
  simpa [readBE] using fold bs b.toNat

theorem readBE_lt (bs : Bytes) : readBE bs < 256 ^ bs.length := by
  induction bs with
  | nil => simp [readBE]
  | cons b bs ih =>
    have hb : b.toNat + 1 ≤ 256 := b.isLt
    calc readBE (b :: bs) < (b.toNat + 1) * 256 ^ bs.length := by rw [readBE_cons]; linarith
      _ ≤ 256 * 256 ^ bs.length := Nat.mul_le_mul_right _ hb
      _ = 256 ^ (b :: bs).length := by rw [List.length_cons, pow_succ]; ring

/-- Reading a number back gives it at the width of its field. -/
@[simp] theorem readBE_be (n v : Nat) : readBE (be n v) = v % 256 ^ n := by
  induction n with
  | zero => simp [be, readBE, Nat.mod_one]
  | succ n ih =>
    have hm : v % (256 ^ n * 256) = v % 256 ^ n + 256 ^ n * (v / 256 ^ n % 256) := Nat.mod_mul
    rw [be, readBE_cons, ih, be_length, BitVec.toNat_ofNat, pow_succ 256 n, hm, mul_comm, add_comm]

theorem readBE_be_of_lt {n v : Nat} (h : v < 256 ^ n) : readBE (be n v) = v := by rw [readBE_be, Nat.mod_eq_of_lt h]

/-- Only the low bytes of a number enter its field. -/
theorem be_add_mul (n v w : Nat) : be n (v * 256 ^ n + w) = be n w := by
  induction n generalizing v with
  | zero => rfl
  | succ n ih =>
    have e : v * 256 ^ (n + 1) + w = v * 256 * 256 ^ n + w := by ring
    rw [be, be, e, ih, add_comm, Nat.add_mul_div_right _ _ (by positivity)]
    congr 1
    exact BitVec.eq_of_toNat_eq (by simp)

/-- A byte string is the field of its length that spells its number. -/
theorem be_readBE (bs : Bytes) : be bs.length (readBE bs) = bs := by
  induction bs with
  | nil => rfl
  | cons b bs ih =>
    rw [List.length_cons, be, readBE_cons, be_add_mul, ih, add_comm, Nat.add_mul_div_right _ _ (by positivity),
      Nat.div_eq_of_lt (readBE_lt bs)]
    simp

theorem byte_eq_be (b : Byte) : [b] = be 1 b.toNat := by simp [be]

/-- A byte string of length n + m is a field of n bytes and m bytes more. -/
theorem exists_be {n m : Nat} {b : Bytes} (h : b.length = n + m) : ∃ v c, v < 256 ^ n ∧ c.length = m ∧ b = be n v ++ c := by
  have hl : (b.take n).length = n := by simp [h]
  have hr := be_readBE (b.take n)
  have hlt := readBE_lt (b.take n)
  rw [hl] at hr hlt
  exact ⟨readBE (b.take n), b.drop n, hlt, by simp [h], by rw [hr, List.take_append_drop]⟩

/-! ## Fields -/

theorem field_lt (bs : Bytes) (off n : Nat) : field bs off n < 256 ^ n :=
  (readBE_lt _).trans_le (Nat.pow_le_pow_right (by norm_num) (by simp))

/-- The field at the head. -/
@[simp] theorem field_be (n v : Nat) (rest : Bytes) : field (be n v ++ rest) 0 n = v % 256 ^ n := by
  simp [field]

/-- A field behind another part. -/
theorem field_append {part : Bytes} {off : Nat} (h : part.length ≤ off) (rest : Bytes) (n : Nat) :
    field (part ++ rest) off n = field rest (off - part.length) n := by
  simp [field, List.drop_append, List.drop_eq_nil_of_le h]

/-- A field behind a field. -/
theorem field_skip {m off : Nat} (h : m ≤ off) (v : Nat) (rest : Bytes) (n : Nat) :
    field (be m v ++ rest) off n = field rest (off - m) n := by
  rw [field_append (by simpa using h), be_length]

/-- A field that the bytes hold whole, whatever follows them. -/
theorem field_append_left {bs : Bytes} {off n : Nat} (h : off + n ≤ bs.length) (rest : Bytes) :
    field (bs ++ rest) off n = field bs off n := by
  simp [field, List.drop_append_of_le_length (by omega : off ≤ bs.length), List.take_append_of_le_length (by simp; omega : n ≤ (bs.drop off).length)]

/-! ## The frame check -/

theorem crcBit_lt {c : Nat} (h : c < 2 ^ 32) : crcBit c < 2 ^ 32 := by
  have h2 : c / 2 < 2 ^ 32 := by omega
  unfold crcBit
  split
  · exact Nat.xor_lt_two_pow h2 (by norm_num)
  · exact h2

theorem crcByte_lt {c : Nat} (b : Byte) (h : c < 2 ^ 32) : crcByte c b < 2 ^ 32 := by
  have hb : b.toNat < 2 ^ 32 := by have := b.isLt; omega
  have h0 := Nat.xor_lt_two_pow h hb
  unfold crcByte
  iterate 8 apply crcBit_lt
  exact h0

/-- The CRC-32 fills four bytes. -/
theorem crc32_lt (bs : Bytes) : crc32 bs < 256 ^ 4 := by
  have fold (bs : Bytes) (c : Nat) (h : c < 2 ^ 32) : bs.foldl crcByte c < 2 ^ 32 := by
    induction bs generalizing c with
    | nil => exact h
    | cons b bs ih => exact ih _ (crcByte_lt b h)
  exact Nat.xor_lt_two_pow (n := 32) (fold bs _ (by norm_num)) (by norm_num)

end Sys2Proof.Wire

namespace Sys2Proof.Machine
open Wire

/-! ## Request frames -/

/-- What precedes the frame check in a request frame. -/
def frameBody (code : Nat) (r : Request) : Bytes :=
  be 1 code ++ (be 1 r.tag.toNat ++ (be 2 r.payload.length ++ (be 1 r.ctx.toNat ++ (be 1 r.gen.toNat ++ (be 2 r.rsv.toNat ++ r.payload)))))

theorem requestBytes_eq (code : Nat) (r : Request) : requestBytes code r = frameBody code r ++ be 4 (crc32 (frameBody code r)) := by
  have hb : be 1 code ++ [r.tag] ++ be 2 r.payload.length ++ [r.ctx, r.gen] ++ be 2 r.rsv.toNat ++ r.payload = frameBody code r := by
    rw [show [r.ctx, r.gen] = [r.ctx] ++ [r.gen] from rfl, byte_eq_be r.tag, byte_eq_be r.ctx, byte_eq_be r.gen]
    simp only [frameBody, List.append_assoc]
  simp only [requestBytes, hb]

@[simp] theorem frameBody_length (code : Nat) (r : Request) : (frameBody code r).length = 8 + r.payload.length := by
  simp [frameBody]
  omega

theorem readFrame_code_lt {frame : Bytes} {code : Nat} {r : Request} (h : readFrame frame = some (code, r)) : code < 256 := by
  unfold readFrame at h
  split at h
  · cases h
  · simp only [Option.some.injEq, Prod.mk.injEq] at h
    rw [← h.1]
    exact field_lt frame 0 1

theorem frameBody_drop (code : Nat) (r : Request) : (frameBody code r).drop 8 = r.payload := by
  simp only [frameBody, ← List.append_assoc]
  exact List.drop_left' (by simp)

theorem requestBytes_length (code : Nat) (r : Request) : (requestBytes code r).length = 12 + r.payload.length := by
  simp [requestBytes_eq]
  omega

theorem requestBytes_body (code : Nat) (r : Request) :
    (requestBytes code r).take ((requestBytes code r).length - 4) = frameBody code r := by
  have hl : (requestBytes code r).length - 4 = (frameBody code r).length := by rw [requestBytes_length, frameBody_length]; omega
  rw [hl, requestBytes_eq, List.take_left]

theorem requestBytes_check (code : Nat) (r : Request) :
    field (requestBytes code r) ((requestBytes code r).length - 4) 4 = crc32 (frameBody code r) := by
  have hl : (requestBytes code r).length - 4 = (frameBody code r).length := by rw [requestBytes_length, frameBody_length]; omega
  rw [hl, requestBytes_eq, field_append le_rfl, Nat.sub_self, ← List.append_nil (be 4 _), field_be, Nat.mod_eq_of_lt (crc32_lt _)]

/-- The header's fields are those of the part before the frame check. -/
theorem requestBytes_header (code : Nat) (r : Request) {off n : Nat} (h : off + n ≤ 8) :
    field (requestBytes code r) off n = field (frameBody code r) off n := by
  rw [requestBytes_eq, field_append_left (by rw [frameBody_length]; omega)]

/-- Settles O17: each field of the header read at its offset, and the frame check that the sender computed. -/
theorem frameRoundTrip : Obligations.FrameRoundTrip := by
  intro code r hcode hw
  obtain ⟨htag, hlen⟩ : r.tag.toNat < 64 ∧ r.payload.length ≤ Config.payloadLimit := by
    rw [frameWellFormed, Bool.and_eq_true, decide_eq_true_eq, decide_eq_true_eq] at hw
    exact hw
  have hlen' : r.payload.length ≤ 8192 := hlen
  have head {off n : Nat} (h : off + n ≤ 8) := requestBytes_header code r h
  have h0 : field (requestBytes code r) 0 1 = code := by simp [head, frameBody]; omega
  have h1 : field (requestBytes code r) 1 1 = r.tag.toNat := by simp [head, frameBody, field_skip]; omega
  have h2 : field (requestBytes code r) 2 2 = r.payload.length := by simp [head, frameBody, field_skip]; omega
  have h4 : field (requestBytes code r) 4 1 = r.ctx.toNat := by simp [head, frameBody, field_skip, r.ctx.isLt]
  have h5 : field (requestBytes code r) 5 1 = r.gen.toNat := by simp [head, frameBody, field_skip, r.gen.isLt]
  have h6 : field (requestBytes code r) 6 2 = r.rsv.toNat := by simp [head, frameBody, field_skip, r.rsv.isLt]
  have hp : ((requestBytes code r).drop 8).take r.payload.length = r.payload := by
    rw [requestBytes_eq, List.drop_append_of_le_length (by rw [frameBody_length]; omega), frameBody_drop, List.take_left]
  unfold readFrame
  rw [requestBytes_check, requestBytes_body, h0, h1, h2, h4, h5, h6, hp, requestBytes_length]
  simp [htag.not_ge, hlen.not_gt]

end Sys2Proof.Machine
end

section
/-! Request rows: what each does before the event settles, the four outcomes of its arrival, and the statements on malformed requests and on
frames given byte by byte (O13, O15). -/

namespace Sys2Proof.Machine

variable {k : Kind} {r : Request} {pool : Pool} {s : State}

/-- What the row of a kind other than LINK_RESET does before the event settles. -/
def arrival (k : Kind) (r : Request) (s : State) : State :=
  if k.cls = .ingest then queued k r s else if k.server = .ready then served k r s else servedOrWaiting k r s

theorem exec_requestRow (r : Request) (s : State) (hk : k ≠ .linkReset) :
    exec (requestRow k r) s = .next (settle (arrival k r s)) := by
  cases k with
  | linkReset => exact absurd rfl hk
  | _ => rfl

theorem exec_linkReset_opened (r : Request) (h : s.lp.link = .opened) : exec (.linkReset r) s =
    .next (settle (if frameWellFormed r then linkReset s else notice Status.frameCheck [] s)) := by
  simp only [exec, execLinkReset, h]

theorem exec_linkReset_resetting (r : Request) (h : s.lp.link = .resetting) : exec (.linkReset r) s = .next (settle s) := by
  simp only [exec, execLinkReset, h]

/-! ## Kind codes -/

theorem kindOfCode_code (k : Kind) : kindOfCode k.code = some k := by cases k <;> rfl

theorem code_of_kindOfCode {code : Nat} (h : kindOfCode code = some k) : k.code = code := by
  simpa using List.find?_some h

/-- An unknown kind needs no block credits (R21). -/
theorem blockNeed_unknown {code : Nat} (h : kindOfCode code = none) (payload : Bytes) : blockNeed code payload = 0 := by
  refine if_neg fun hc => ?_
  rw [hc, kindOfCode_code] at h
  cases h

theorem blockNeed_notIngest (h : k.cls ≠ .ingest) (payload : Bytes) : blockNeed k.code payload = 0 := by
  cases k with
  | records => exact absurd rfl h
  | _ => rfl

theorem deliver_known {code : Nat} (h : kindOfCode code = some k) : deliver code r s = exec (requestRow k r) s := by
  unfold deliver
  rw [h]
  cases k <;> rfl

theorem deliver_unknown {code : Nat} (h : kindOfCode code = none) : deliver code r s = .next (settle (answerUnknown code r s)) := by
  unfold deliver
  rw [h]

/-! ## The outcomes of an arrival -/

/-- An arrival comes to nothing, or ill formed to the notice, whatever the serving block would do with it. -/
theorem arrival_of_arrive {x : State} (h : ∀ g, arrive k.code k.cls r g s = x) : arrival k r s = x := by
  unfold arrival queued servedOrWaiting served
  repeat' split
  all_goals exact h _

theorem arrival_resetting (h : s.lp.link = .resetting) : arrival k r s = s :=
  arrival_of_arrive fun g => arrive_resetting _ _ g h

theorem arrival_illFormed (h : s.lp.link = .opened) (hf : frameWellFormed r = false) : arrival k r s = notice Status.frameCheck [] s :=
  arrival_of_arrive fun g => arrive_illFormed _ _ g h hf

/-- A CONTROL or QUERY request that fails a check is answered at its acceptance, be its block ready or not (R20). -/
theorem arrival_malformed (h : Accepted k r pool s) (hk : k.cls ≠ .ingest) (hc : checkedParams k r = none) :
    arrival k r s = replied k r pool Status.malformed [] s := by
  have hs := served_malformed h hc
  unfold arrival
  rw [if_neg hk]
  split
  · exact hs
  · unfold servedOrWaiting
    split
    · exact hs
    · rw [arrive_accepted _ h] at *
      simp only [hc]
      rw [← hs, served, arrive_accepted _ h]
      simp only [hc]

/-- A frame of an unknown kind that obtains its credit and its tag is answered as a malformed CONTROL request (R12, R20). -/
theorem answerUnknown_accepted {code : Nat} (hk : kindOfCode code = none) (h : s.lp.link = .opened) (hf : frameWellFormed r = true)
    (hp : s.lp.poolFor .control 0 = some pool) (ht : Tab.get s.lp.tags r.tag.toNat = none) :
    answerUnknown code r s = answered r.tag.toNat Status.malformed []
      (creditsPending (pool.credits 0) (acceptedAs code .control r pool s)) := by
  unfold answerUnknown
  rw [arrive_acceptedAs _ _ _ h hf (by rwa [blockNeed_unknown hk]) ht, answerMalformed, respond_current]
  · rfl
  · simp [creditsPending]

/-- A state that differs from a settled one in the Link Port alone, with the same buffered requests, is the answer as it stands. -/
theorem Answers.of_exec {c : Instr} {x : State} (h : exec c s = .next (settle x)) (hx : Settled s → Settled x) : Answers c s x :=
  ⟨h, fun hs => by rw [h, settle_of_settled (hx hs)]⟩

theorem settled_notice (status : Nat) (payload : Bytes) (h : Settled s) : Settled (notice status payload s) := h.mapLp rfl

/-- Settles O13: the two ways to a MALFORMED_REQUEST answer are `arrival_malformed` and `answerUnknown_accepted`. -/
theorem malformedRequestAnswered : Obligations.MalformedRequestAnswered := by
  refine ⟨fun k r pool s hk hcls ha hc => ?_, fun code r pool s hk ho hf hp ht => ?_⟩
  · exact .of_exec (by rw [exec_requestRow r s hk, arrival_malformed ha hcls hc]) settled_replied
  · refine .of_exec ?_ fun hs => (((hs.mapLp rfl).mapLp rfl).mapLp (by simp)).mapLp rfl
    show deliver code.toNat r s = _
    rw [deliver_unknown hk, answerUnknown_accepted hk ho hf hp ht]

/-! ## Frames given byte by byte -/

theorem exec_frameCheck_illFormed {frame : Bytes} (h : s.lp.link = .opened) (hn : readFrame frame = none) :
    exec (.frameCheck frame) s = .next (settle (notice Status.frameCheck [] s)) := by
  simp only [exec, execFrameCheck, h, hn]

theorem exec_frameCheck_read {frame : Bytes} {code : Nat} (h : s.lp.link = .opened) (hr : readFrame frame = some (code, r)) :
    exec (.frameCheck frame) s = deliver code r s := by
  simp only [exec, execFrameCheck, h, hr]

/-- In RESETTING every request row leaves a settled state as it is (R19). -/
theorem exec_requestRow_resetting (k : Kind) (r : Request) (h : s.lp.link = .resetting) (hs : Settled s) :
    exec (requestRow k r) s = .next s := by
  by_cases hk : k = .linkReset
  · rw [hk]
    exact (exec_linkReset_resetting r h).trans (by rw [settle_of_settled hs])
  · rw [exec_requestRow r s hk, arrival_resetting h, settle_of_settled hs]

theorem exec_unknownKind_resetting (code : Byte) (r : Request) (h : s.lp.link = .resetting) (hs : Settled s) :
    exec (.unknownKind code r) s = .next s := by
  show deliver code.toNat r s = _
  cases hk : kindOfCode code.toNat with
  | none => rw [deliver_unknown hk, answerUnknown, arrive_resetting _ _ _ h, settle_of_settled hs]
  | some k => rw [deliver_known hk, exec_requestRow_resetting k r h hs]

/-- Settles O15. -/
theorem frameCheckRow : Obligations.FrameCheckRow := by
  refine ⟨fun s ho => ⟨fun frame hn => ?_, fun frame code r hr => ⟨fun k hk => ?_, fun hk => ?_⟩, fun k r hf => ?_⟩, fun s hl hs =>
    ⟨fun k r => exec_requestRow_resetting k r hl hs, fun code r => exec_unknownKind_resetting code r hl hs, fun frame => ?_⟩⟩
  · exact .of_exec (exec_frameCheck_illFormed ho hn) (settled_notice _ _)
  · exact (exec_frameCheck_read ho hr).trans (deliver_known hk)
  · rw [exec_frameCheck_read ho hr]
    show _ = deliver (BitVec.ofNat 8 code).toNat r s
    rw [BitVec.toNat_ofNat, Nat.mod_eq_of_lt (readFrame_code_lt hr)]
  · refine .of_exec ?_ (settled_notice _ _)
    by_cases hk : k = .linkReset
    · rw [hk]
      exact (exec_linkReset_opened r ho).trans (by rw [hf]; rfl)
    · rw [exec_requestRow r s hk, arrival_illFormed ho hf]
      rfl
  · show execFrameCheck frame s = _
    simp only [execFrameCheck, hl, settle_of_settled hs]

end Sys2Proof.Machine
end

section
/-! The Reference Map through an event: the operations that leave the Index Controller as it is, those that write a map entry, and that no
command but a sweep decision and the beginning of a start-up takes a live reference out (O8). -/

namespace Sys2Proof.Machine

/-! ## The operations that leave the Index Controller as it is -/

/-- A fold of operations that each leave the Index Controller leaves it. -/
theorem foldl_ix {α : Type} (g : State → α → State) (h : ∀ s a, (g s a).ix = s.ix) (l : List α) (s : State) :
    (l.foldl g s).ix = s.ix := by
  induction l generalizing s with
  | nil => rfl
  | cons a l ih => rw [List.foldl_cons, ih, h]

/-! ### Entries and queues -/

@[simp] theorem countUp_ix (c : Counter) (n : Nat) (s : State) : (countUp c n s).ix = s.ix := rfl
@[simp] theorem updAccount_ix (source day : Nat) (f : Account → Account) (s : State) : (updAccount source day f s).ix = s.ix := rfl
@[simp] theorem writeSlot_ix (n : Nat) (r : CallRecord) (s : State) : (writeSlot n r s).ix = s.ix := rfl
@[simp] theorem releaseSlot_ix (n : Nat) (s : State) : (releaseSlot n s).ix = s.ix := rfl
@[simp] theorem updSeg_ix (n : Nat) (f : SegEntry → SegEntry) (s : State) : (updSeg n f s).ix = s.ix := rfl
@[simp] theorem updPart_ix (day : Nat) (f : Partition → Partition) (s : State) : (updPart day f s).ix = s.ix := rfl
@[simp] theorem mapParts_ix (f : Nat → Partition → Partition) (s : State) : (mapParts f s).ix = s.ix := rfl
@[simp] theorem joinQueue_ix (day : Nat) (w : Waiter) (s : State) : (joinQueue day w s).ix = s.ix := rfl
@[simp] theorem leaveQueue_ix (day : Nat) (w : Waiter) (s : State) : (leaveQueue day w s).ix = s.ix := rfl
@[simp] theorem releasePin_ix (day : Nat) (s : State) : (releasePin day s).ix = s.ix := rfl
@[simp] theorem releaseMover_ix (day : Nat) (s : State) : (releaseMover day s).ix = s.ix := rfl
@[simp] theorem placeRequest_ix (k : JobKind) (r : Requester) (s : State) : (placeRequest k r s).ix = s.ix := rfl
@[simp] theorem withdrawRequest_ix (k : JobKind) (r : Requester) (s : State) : (withdrawRequest k r s).ix = s.ix := rfl
@[simp] theorem engineIdle_ix (s : State) : (engineIdle s).ix = s.ix := rfl
@[simp] theorem joinRepack_ix (day : Nat) (s : State) : (joinRepack day s).ix = s.ix := rfl
@[simp] theorem joinPack_ix (day : Nat) (s : State) : (joinPack day s).ix = s.ix := rfl
@[simp] theorem joinPackAll_ix (days : List Nat) (s : State) : (joinPackAll days s).ix = s.ix := by
  rw [joinPackAll_eq]
  rfl
@[simp] theorem leavePack_ix (day : Nat) (s : State) : (leavePack day s).ix = s.ix := rfl
@[simp] theorem repackTest_ix (test : Partition → Bool) (day : Nat) (s : State) : (repackTest test day s).ix = s.ix := by
  unfold repackTest
  repeat' split
  all_goals simp

/-! ### The Link Port -/

@[simp] theorem takeCredits_ix (c : Credits) (s : State) : (takeCredits c s).ix = s.ix := rfl
@[simp] theorem enqueue_ix (f : OutFrame) (s : State) : (enqueue f s).ix = s.ix := rfl
@[simp] theorem creditsPending_ix (c : Credits) (s : State) : (creditsPending c s).ix = s.ix := rfl
@[simp] theorem frameCreditEarned_ix (s : State) : (frameCreditEarned s).ix = s.ix := by
  unfold frameCreditEarned
  split <;> rfl
@[simp] theorem returnWithheld_ix (s : State) : (returnWithheld s).ix = s.ix := by
  unfold returnWithheld
  split <;> rfl
@[simp] theorem respond_ix (tag epoch status : Nat) (payload : Bytes) (s : State) : (respond tag epoch status payload s).ix = s.ix := rfl
@[simp] theorem notice_ix (status : Nat) (payload : Bytes) (s : State) : (notice status payload s).ix = s.ix := rfl
@[simp] theorem answerMalformed_ix (tag : Nat) (pool : Pool) (s : State) : (answerMalformed tag pool s).ix = s.ix := rfl

/-! ### Partitions -/

@[simp] theorem moveOnward_ix (s : State) : (moveOnward s).ix = s.ix := by simp [moveOnward]
@[simp] theorem evalPressure_ix (s : State) : (evalPressure s).ix = s.ix := by
  unfold evalPressure
  repeat' split
  all_goals simp
@[simp] theorem closeDays_ix (s : State) : (closeDays s).ix = s.ix := rfl
@[simp] theorem allocatePart_ix (day : Nat) (s : State) : (allocatePart day s).ix = s.ix := by
  unfold allocatePart
  split <;> rfl
@[simp] theorem advanceQuietTimers_ix (n : Nat) (s : State) : (advanceQuietTimers n s).ix = s.ix := rfl
@[simp] theorem compareQuietTimers_ix (s : State) : (compareQuietTimers s).ix = s.ix := rfl
@[simp] theorem activity_ix (a : Activity) (day : Nat) (s : State) : (activity a day s).ix = s.ix := by
  obtain ⟨_, _, _, e, -⟩ := activity_eq a day s
  rw [e]
@[simp] theorem freeSegment_ix (n day : Nat) (s : State) : (freeSegment n day s).ix = s.ix := by simp [freeSegment]
@[simp] theorem segmentLoses_ix (n : Nat) (s : State) : (segmentLoses n s).ix = s.ix := by
  unfold segmentLoses
  repeat' split
  all_goals simp
@[simp] theorem pressureTurn_ix {s t : State} (h : pressureTurn s = some t) : t.ix = s.ix := by
  unfold pressureTurn at h
  split at h
  · cases h
    simp
  · cases h

/-! ### Retention -/

@[simp] theorem queueSweep_ix (s : State) (d : Nat) : (queueSweep s d).ix = s.ix := by
  unfold queueSweep
  split <;> rfl
@[simp] theorem schedulePass_ix (sel : Nat → Partition → CallClass → Bool) (s : State) : (schedulePass sel s).ix = s.ix := by
  obtain ⟨_, e, -⟩ := schedulePass_eq sel s
  rw [e]
@[simp] theorem fullPass_ix (s : State) : (fullPass s).ix = s.ix := by simp [fullPass]
@[simp] theorem setPending_ix (c : CallClass) (days : Nat) (s : State) : (setPending c days s).ix = s.ix := rfl
@[simp] theorem activateRetention_ix (s : State) : (activateRetention s).ix = s.ix := by simp [activateRetention]
@[simp] theorem serveSetRetention_ix (tag epoch cls days : Nat) (applyNow : Bool) (s : State) :
    (serveSetRetention tag epoch cls days applyNow s).ix = s.ix := by
  unfold serveSetRetention
  repeat' split
  all_goals simp
@[simp] theorem serveListHolds_ix (tag epoch : Nat) (s : State) : (serveListHolds tag epoch s).ix = s.ix := rfl

/-! ### The clock -/

@[simp] theorem serveCloseDay_ix (tag epoch d : Nat) (s : State) : (serveCloseDay tag epoch d s).ix = s.ix := by
  unfold serveCloseDay
  repeat' split
  all_goals simp
@[simp] theorem servePartitionInfo_ix (tag epoch d firstIndex : Nat) (s : State) :
    (servePartitionInfo tag epoch d firstIndex s).ix = s.ix := by
  unfold servePartitionInfo
  repeat' split
  all_goals simp

/-! ### Queries and amendments -/

@[simp] theorem updCtx_ix (c : Nat) (f : QueryContext → QueryContext) (s : State) : (updCtx c f s).ix = s.ix := rfl
@[simp] theorem openContext_ix (tag epoch day : Nat) (work : QueryWork) (s : State) : (openContext tag epoch day work s).ix = s.ix := rfl
@[simp] theorem finishContext_ix (c : Nat) (q : QueryContext) (status : Nat) (payload : Bytes) (s : State) :
    (finishContext c q status payload s).ix = s.ix := rfl
@[simp] theorem askDecode_ix (c n : Nat) (s : State) : (askDecode c n s).ix = s.ix := rfl
@[simp] theorem takeFetch_ix (tag epoch ref : Nat) (s : State) : (takeFetch tag epoch ref s).ix = s.ix := by
  unfold takeFetch
  repeat' split
  all_goals simp
@[simp] theorem fetchRead_ix (c : Nat) (q : QueryContext) (r : CallRecord) (s : State) :
    (fetchRead c q r s).ix = s.ix := by simp [fetchRead]
@[simp] theorem fetchPinned_ix (c : Nat) (q : QueryContext) (ref : Nat) (s : State) : (fetchPinned c q ref s).ix = s.ix := by
  unfold fetchPinned
  repeat' split
  all_goals simp
@[simp] theorem subscriberAnswer_ix (c : Nat) (q : QueryContext) (more : Bool) (g : SubscriberProgress) (s : State) :
    (subscriberAnswer c q more g s).ix = s.ix := rfl
@[simp] theorem subscriberNext_ix (c : Nat) (q : QueryContext) (p : SubscriberParams) (g : SubscriberProgress) (first : Nat) (s : State) :
    (subscriberNext c q p g first s).ix = s.ix := by
  unfold subscriberNext
  split <;> rfl
@[simp] theorem takeSubscriber_ix (tag epoch : Nat) (p : SubscriberParams) (s : State) : (takeSubscriber tag epoch p s).ix = s.ix := by
  unfold takeSubscriber
  dsimp only
  repeat' split
  all_goals simp
@[simp] theorem subscriberDayEnd_ix (c : Nat) (q : QueryContext) (p : SubscriberParams) (g : SubscriberProgress) (s : State) :
    (subscriberDayEnd c q p g s).ix = s.ix := by
  unfold subscriberDayEnd
  dsimp only
  repeat' split
  all_goals simp
@[simp] theorem subscriberGoOn_ix (c : Nat) (q : QueryContext) (p : SubscriberParams) (g : SubscriberProgress) (s : State) :
    (subscriberGoOn c q p g s).ix = s.ix := by
  unfold subscriberGoOn
  split <;> simp
@[simp] theorem subscriberPinned_ix (c : Nat) (q : QueryContext) (p : SubscriberParams) (g : SubscriberProgress) (s : State) :
    (subscriberPinned c q p g s).ix = s.ix := by simp [subscriberPinned]
@[simp] theorem subscriberDecoded_ix (c : Nat) (q : QueryContext) (p : SubscriberParams) (g : SubscriberProgress) (rs : Option (List CallRecord)) (s : State) :
    (subscriberDecoded c q p g rs s).ix = s.ix := by
  unfold subscriberDecoded
  repeat' split
  all_goals simp
@[simp] theorem cancelSubscriber_ix (c : Nat) (q : QueryContext) (s : State) : (cancelSubscriber c q s).ix = s.ix := by
  unfold cancelSubscriber
  split <;> rfl
@[simp] theorem tallyAmend_ix (source day : Nat) (delta : Int) (s : State) : (tallyAmend source day delta s).ix = s.ix := rfl
@[simp] theorem conflictCounted_ix (s : State) : (conflictCounted s).ix = s.ix := rfl
@[simp] theorem startMoving_ix (tag epoch : Nat) (p : AmendParams) (e : MapEntry) (s : State) :
    (startMoving tag epoch p e s).ix = s.ix := rfl
@[simp] theorem updFlight_ix (c : Nat) (f : AmendFlight → AmendFlight) (s : State) : (updFlight c f s).ix = s.ix := rfl
@[simp] theorem amendAsksMover_ix (c : Nat) (q : QueryContext) (loc : Location) (r : CallRecord) (s : State) :
    (amendAsksMover c q loc r s).ix = s.ix := rfl
@[simp] theorem leaveOldLocation_ix (day : Nat) (old : Location) (s : State) : (leaveOldLocation day old s).ix = s.ix := by
  unfold leaveOldLocation
  repeat' split
  all_goals simp
@[simp] theorem queryDecoded_ix (c : Nat) (rs : Option (List CallRecord)) (s : State) : (queryDecoded c rs s).ix = s.ix := by
  unfold queryDecoded
  repeat' split
  all_goals simp

/-! ### Ingest -/

@[simp] theorem updContext_ix (i : Nat) (f : FileContext → FileContext) (s : State) : (updContext i f s).ix = s.ix := rfl
@[simp] theorem updFile_ix (i : Nat) (f : OpenFile → OpenFile) (s : State) : (updFile i f s).ix = s.ix := rfl
@[simp] theorem freeContext_ix (i : Nat) (s : State) : (freeContext i s).ix = s.ix := rfl
@[simp] theorem timeOut_ix (due : FileContext → Bool) (s : State) : (timeOut due s).ix = s.ix := rfl
@[simp] theorem advanceIdleTimers_ix (s : State) : (advanceIdleTimers s).ix = s.ix := rfl
@[simp] theorem compareIdleTimers_ix (s : State) : (compareIdleTimers s).ix = s.ix := rfl
@[simp] theorem endDrain_ix (e : BatchEntry) (status : Nat) (payload : Bytes) (s : State) :
    (endDrain e status payload s).ix = s.ix := by simp [endDrain]
@[simp] theorem drainOpen_ix (e : BatchEntry) (source file : Nat) (s : State) : (drainOpen e source file s).ix = s.ix := by
  unfold drainOpen
  repeat' split
  all_goals simp
@[simp] theorem drainClose_ix (e : BatchEntry) (f : OpenFile) (trailer : Option (Nat × Int)) (s : State) :
    (drainClose e f trailer s).ix = s.ix := by simp [drainClose]
@[simp] theorem drainAbort_ix (e : BatchEntry) (f : OpenFile) (s : State) : (drainAbort e f s).ix = s.ix := by simp [drainAbort]
@[simp] theorem updDrain_ix (f : Drain → Drain) (s : State) : (updDrain f s).ix = s.ix := rfl
@[simp] theorem nextRecord_ix (size : Nat) (s : State) : (nextRecord size s).ix = s.ix := rfl
@[simp] theorem tallyReceived_ix (e : BatchEntry) (charge : Nat) (s : State) : (tallyReceived e charge s).ix = s.ix := rfl
@[simp] theorem tallyRefused_ix (e : BatchEntry) (code : RefusalCode) (s : State) : (tallyRefused e code s).ix = s.ix := rfl
@[simp] theorem refuseRecord_ix (e : BatchEntry) (charge size : Nat) (code : RefusalCode) (s : State) :
    (refuseRecord e charge size code s).ix = s.ix := by simp [refuseRecord]
@[simp] theorem discardDuplicate_ix (e : BatchEntry) (charge size source storedDay : Nat) (conflict : Bool) (s : State) :
    (discardDuplicate e charge size source storedDay conflict s).ix = s.ix := by
  unfold discardDuplicate
  split <;> simp
@[simp] theorem createAccount_ix (source day : Nat) (s : State) : (createAccount source day s).ix = s.ix := by
  unfold createAccount
  split <;> rfl
@[simp] theorem countStored_ix (r : CallRecord) (s : State) : (countStored r s).ix = s.ix := by
  unfold countStored
  repeat' split
  all_goals simp
@[simp] theorem findDuplicate_ix (e : BatchEntry) (size : Nat) (r : CallRecord) (m : MapEntry) (s : State) :
    (findDuplicate e size r m s).ix = s.ix := by
  unfold findDuplicate
  split <;> simp
@[simp] theorem truncateBatch_ix (e : BatchEntry) (s : State) : (truncateBatch e s).ix = s.ix := by simp [truncateBatch]
@[simp] theorem compareDone_ix (e : BatchEntry) (p : PendingDuplicate) (conflict : Bool) (s : State) :
    (compareDone e p conflict s).ix = s.ix := by simp [compareDone]
@[simp] theorem takeEntry_ix (e : BatchEntry) (s : State) : (takeEntry e s).ix = s.ix := by
  unfold takeEntry
  repeat' split
  all_goals simp
@[simp] theorem drainEnds_ix {s t : State} (h : drainEnds s = some t) : t.ix = s.ix := by
  unfold drainEnds at h
  split at h
  · split at h
    · cases h
      simp
    · cases h
  · cases h
@[simp] theorem beginDrain_ix {s t : State} (h : beginDrain s = some t) : t.ix = s.ix := by
  unfold beginDrain at h
  split at h
  · cases h
    simp
  · cases h

/-! ### Audit -/

@[simp] theorem serveReadAccount_ix (tag epoch source day : Nat) (s : State) : (serveReadAccount tag epoch source day s).ix = s.ix := by
  unfold serveReadAccount
  repeat' split
  all_goals simp
@[simp] theorem serveReadCounters_ix (tag epoch bank : Nat) (s : State) : (serveReadCounters tag epoch bank s).ix = s.ix := by
  unfold serveReadCounters
  repeat' split
  all_goals simp
@[simp] theorem serveClearCounters_ix (tag epoch : Nat) (s : State) : (serveClearCounters tag epoch s).ix = s.ix := rfl
@[simp] theorem updSlot_ix (n : Nat) (f : ScanSlot → ScanSlot) (s : State) : (updSlot n f s).ix = s.ix := rfl
@[simp] theorem finishSlot_ix (n : Nat) (q : ScanSlot) (status : Nat) (payload : Bytes) (s : State) :
    (finishSlot n q status payload s).ix = s.ix := rfl
@[simp] theorem scanNext_ix (n : Nat) (q : ScanSlot) (work : ScanWork) (first : Nat) (s : State) :
    (scanNext n q work first s).ix = s.ix := by
  unfold scanNext
  split <;> rfl
@[simp] theorem takeSlot_ix (tag epoch first : Nat) (work : ScanWork) (s : State) :
    (takeSlot tag epoch first work s).ix = s.ix := by simp [takeSlot]
@[simp] theorem serveAuditScan_ix (tag epoch : Nat) (f : ScanFilter) (s : State) : (serveAuditScan tag epoch f s).ix = s.ix := by
  unfold serveAuditScan
  repeat' split
  all_goals simp
@[simp] theorem serveVerifyDays_ix (tag epoch first last : Nat) (s : State) : (serveVerifyDays tag epoch first last s).ix = s.ix := by
  unfold serveVerifyDays
  repeat' split
  all_goals simp
@[simp] theorem scanGoOn_ix (n : Nat) (q : ScanSlot) (work : ScanWork) (toRead : List Nat) (s : State) :
    (scanGoOn n q work toRead s).ix = s.ix := by
  unfold scanGoOn
  split <;> simp
@[simp] theorem scanPinned_ix (n : Nat) (s : State) : (scanPinned n s).ix = s.ix := by
  unfold scanPinned
  repeat' split
  all_goals simp
@[simp] theorem scanDecoded_ix (n : Nat) (rs : Option (List CallRecord)) (s : State) : (scanDecoded n rs s).ix = s.ix := by
  unfold scanDecoded
  repeat' split
  all_goals simp
@[simp] theorem verifyChecked_ix (n : Nat) (outcome : CheckOutcome) (s : State) : (verifyChecked n outcome s).ix = s.ix := by
  unfold verifyChecked
  repeat' split
  all_goals simp
@[simp] theorem cancelSlot_ix (n : Nat) (q : ScanSlot) (s : State) : (cancelSlot n q s).ix = s.ix := by
  unfold cancelSlot
  split <;> rfl
@[simp] theorem serveCancel_ix (tag epoch target : Nat) (s : State) : (serveCancel tag epoch target s).ix = s.ix := by
  unfold serveCancel
  repeat' split
  all_goals simp
@[simp] theorem setCursor_ix (day place : Nat) (s : State) : (setCursor day place s).ix = s.ix := rfl
@[simp] theorem endPatrol_ix (s : State) : (endPatrol s).ix = s.ix := rfl
@[simp] theorem patrolAsks_ix (p : PatrolStep) (d : Nat) (s : State) : (patrolAsks p d s).ix = s.ix := rfl
@[simp] theorem patrolFound_ix (p : PatrolStep) (d : Nat) (s : State) : (patrolFound p d s).ix = s.ix := by
  unfold patrolFound
  repeat' split
  all_goals simp
@[simp] theorem patrolSearch_ix (p : PatrolStep) (s : State) : (patrolSearch p s).ix = s.ix := by
  unfold patrolSearch
  repeat' split
  all_goals simp
@[simp] theorem beginPatrol_ix (s : State) : (beginPatrol s).ix = s.ix := by simp [beginPatrol]
@[simp] theorem comparePatrolTimer_ix (s : State) : (comparePatrolTimer s).ix = s.ix := by
  unfold comparePatrolTimer
  split <;> simp
@[simp] theorem advancePatrolTimer_ix (s : State) : (advancePatrolTimer s).ix = s.ix := by
  unfold advancePatrolTimer
  split <;> simp
@[simp] theorem patrolPast_ix (p : PatrolStep) (s : State) : (patrolPast p s).ix = s.ix := by simp [patrolPast]
@[simp] theorem patrolPinned_ix (s : State) : (patrolPinned s).ix = s.ix := by
  unfold patrolPinned
  dsimp only
  repeat' split
  all_goals simp
@[simp] theorem patrolChecked_ix (s : State) : (patrolChecked s).ix = s.ix := by
  unfold patrolChecked
  split <;> rfl

/-! ### Compaction -/

@[simp] theorem setJob_ix (j : Option Job) (s : State) : (setJob j s).ix = s.ix := rfl
@[simp] theorem jobAsks_ix (j : Job) (s : State) : (jobAsks j s).ix = s.ix := rfl
@[simp] theorem packSnapshot_ix (day : Nat) (s : State) : (packSnapshot day s).ix = s.ix := rfl
@[simp] theorem sortDone_ix (s : State) : (sortDone s).ix = s.ix := by
  unfold sortDone
  split <;> rfl
@[simp] theorem emptyRepack_ix (day : Nat) (s : State) : (emptyRepack day s).ix = s.ix := rfl
@[simp] theorem decodingDone_ix (j : Job) (s : State) : (decodingDone j s).ix = s.ix := by
  unfold decodingDone
  dsimp only
  repeat' split
  all_goals simp
@[simp] theorem decodingGoesOn_ix (j : Job) (s : State) : (decodingGoesOn j s).ix = s.ix := by
  unfold decodingGoesOn
  split <;> simp
@[simp] theorem repackSnapshot_ix (day : Nat) (s : State) : (repackSnapshot day s).ix = s.ix := by
  unfold repackSnapshot
  dsimp only
  repeat' split
  all_goals simp
@[simp] theorem decodeTaken_ix (n : Nat) (rs : Option (List CallRecord)) (s : State) : (decodeTaken n rs s).ix = s.ix := by
  unfold decodeTaken
  split <;> simp
@[simp] theorem unwindJob_ix (j : Job) (s : State) : (unwindJob j s).ix = s.ix := by
  have hf : ∀ (l : List Nat) (s : State), (l.foldl (fun s n => releaseSlot n s) s).ix = s.ix := foldl_ix _ fun _ _ => rfl
  simp [unwindJob, hf]
@[simp] theorem jobFails_ix (j : Job) (noEntry : Bool) (s : State) : (jobFails j noEntry s).ix = s.ix := by
  unfold jobFails
  repeat' split
  all_goals simp
@[simp] theorem encodeQuantum_ix (j : Job) (s : State) : (encodeQuantum j s).1.ix = s.ix := by
  unfold encodeQuantum
  split <;> simp
@[simp] theorem writeDone_ix (j : Job) (n : Nat) (s : State) : (writeDone j n s).ix = s.ix := by
  unfold writeDone
  dsimp only
  repeat' split
  all_goals simp
@[simp] theorem writeCompleted_ix (fault : Bool) (s : State) : (writeCompleted fault s).ix = s.ix := by
  unfold writeCompleted
  repeat' split
  all_goals simp

/-! ### Sweeps -/

@[simp] theorem setSweep_ix (w : Option Sweep) (s : State) : (setSweep w s).ix = s.ix := rfl
@[simp] theorem startSweep_ix {s t : State} (h : startSweep s = some t) : t.ix = s.ix := by
  unfold startSweep at h
  split at h
  · cases h
    simp
  · cases h
@[simp] theorem sweepAdmitted_ix (s : State) : (sweepAdmitted s).ix = s.ix := by
  unfold sweepAdmitted
  split <;> rfl
@[simp] theorem withdrawSweep_ix (day : Nat) (s : State) : (withdrawSweep day s).ix = s.ix := by
  unfold withdrawSweep
  repeat' split
  all_goals simp
@[simp] theorem sweepGranted_ix (s : State) : (sweepGranted s).ix = s.ix := rfl

/-! ### The Work Arbiter -/

@[simp] theorem engineBusy_ix (k : JobKind) (who : Requester) (quantum : Quantum) (seg : Nat) (s : State) :
    (engineBusy k who quantum seg s).ix = s.ix := rfl
@[simp] theorem slotRuns_ix (n : Nat) (s : State) : (slotRuns n s).ix = s.ix := rfl
@[simp] theorem grantScan_ix (who : Requester) (s : State) : (grantScan who s).ix = s.ix := by
  unfold grantScan
  repeat' split
  all_goals simp
@[simp] theorem grantVerify_ix (who : Requester) (s : State) : (grantVerify who s).ix = s.ix := by
  unfold grantVerify
  repeat' split
  all_goals simp
@[simp] theorem grantPatrol_ix (s : State) : (grantPatrol s).ix = s.ix := by
  unfold grantPatrol
  repeat' split
  all_goals simp
@[simp] theorem grantRunningJob_ix (j : Job) (s : State) : (grantRunningJob j s).ix = s.ix := by
  have he := encodeQuantum_ix j s
  unfold grantRunningJob
  dsimp only
  split
  · split
    · rename_i e
      rw [e] at he
      exact he
    · rename_i e
      rw [e] at he
      exact he
  · split <;> simp
  · rfl
@[simp] theorem grantFirstPack_ix (s : State) : (grantFirstPack s).ix = s.ix := by
  unfold grantFirstPack
  split <;> simp
@[simp] theorem grantFirstRepack_ix (s : State) : (grantFirstRepack s).ix = s.ix := by
  unfold grantFirstRepack
  split <;> simp
@[simp] theorem checkOwner_ix (g : Grant) (passed : Bool) (s : State) : (checkOwner g passed s).ix = s.ix := by
  unfold checkOwner
  split <;> simp
@[simp] theorem sortCompleted_ix (s : State) : (sortCompleted s).ix = s.ix := by
  unfold sortCompleted
  split <;> simp
@[simp] theorem writeEnded_ix (fault : Bool) (s : State) : (writeEnded fault s).ix = s.ix := by
  unfold writeEnded
  split <;> simp
@[simp] theorem endPhase_ix (s : State) : (endPhase s).ix = s.ix := rfl
@[simp] theorem comparePhase_ix (s : State) : (comparePhase s).ix = s.ix := by
  unfold comparePhase
  split <;> rfl
@[simp] theorem tickPhase_ix (s : State) : (tickPhase s).ix = s.ix := by simp [tickPhase]

/-! ### Settings -/

@[simp] theorem putSettings_ix (values : List Nat) (s : State) : (putSettings values s).ix = s.ix := rfl
@[simp] theorem namedRetention_ix (els : List (Nat × Nat)) (c : CallClass) (s : State) : (namedRetention els c s).ix = s.ix := by
  unfold namedRetention
  split <;> rfl
theorem onChange_ix (old : Settings) (f : Settings → Nat) {g : State → State} (hg : ∀ t, (g t).ix = t.ix) (s : State) :
    (onChange old f g s).ix = s.ix := by
  unfold onChange
  split
  · rfl
  · exact hg s
@[simp] theorem settingEffects_ix (old : Settings) (s : State) : (settingEffects old s).ix = s.ix := by
  simp [settingEffects, onChange_ix _ _ closeDays_ix, onChange_ix _ _ compareQuietTimers_ix, onChange_ix _ _ compareIdleTimers_ix,
    onChange_ix _ _ comparePhase_ix, onChange_ix _ _ comparePatrolTimer_ix]
@[simp] theorem serveSetConfig_ix (tag epoch : Nat) (els : List (Nat × Nat)) (s : State) : (serveSetConfig tag epoch els s).ix = s.ix := by
  have hf := foldl_ix (fun s c => namedRetention els c s) fun s c => namedRetention_ix els c s
  unfold serveSetConfig
  split <;> simp [hf]
@[simp] theorem serveSaveConfig_ix (tag epoch : Nat) (s : State) : (serveSaveConfig tag epoch s).ix = s.ix := rfl
@[simp] theorem endSave_ix (v : Saving) (status : Nat) (s : State) : (endSave v status s).ix = s.ix := rfl
@[simp] theorem serveReset_ix (tag epoch : Nat) (s : State) : (serveReset tag epoch s).ix = s.ix := by
  unfold serveReset
  split <;> rfl

/-! ### Resets -/

@[simp] theorem rebuildQueues_ix (s : State) : (rebuildQueues s).ix = s.ix := rfl
@[simp] theorem clearIngest_ix (s : State) : (clearIngest s).ix = s.ix := rfl
@[simp] theorem abandonJob_ix (s : State) : (abandonJob s).ix = s.ix := by
  unfold abandonJob
  split <;> simp

/-! ### Frames -/

@[simp] theorem restartIdle_ix (e : BatchEntry) (s : State) : (restartIdle e s).ix = s.ix := by
  unfold restartIdle
  split <;> rfl
@[simp] theorem enqueueBatch_ix (e : BatchEntry) (s : State) : (enqueueBatch e s).ix = s.ix := rfl

/-! ### Kinds served at once -/

@[simp] theorem servePlaceHold_ix (tag epoch : Nat) (h : Hold) (s : State) : (servePlaceHold tag epoch h s).ix = s.ix := by
  unfold servePlaceHold
  repeat' split
  all_goals simp
@[simp] theorem serveReleaseHold_ix (tag epoch id : Nat) (s : State) : (serveReleaseHold tag epoch id s).ix = s.ix := by
  unfold serveReleaseHold
  split <;> simp
@[simp] theorem rollover_ix (s : State) : (rollover s).ix = s.ix := by simp [rollover, captureCounters]
@[simp] theorem serveSetTime_ix (tag epoch t : Nat) (s : State) : (serveSetTime tag epoch t s).ix = s.ix := by
  unfold serveSetTime
  dsimp only
  repeat' split
  all_goals simp
@[simp] theorem serveReadStatus_ix (tag epoch : Nat) (clear : Bool) (s : State) : (serveReadStatus tag epoch clear s).ix = s.ix := by
  unfold serveReadStatus
  split <;> simp

/-! ### Timers and completions -/

@[simp] theorem secondEvent_ix (s : State) : (secondEvent s).ix = s.ix := by
  unfold secondEvent
  dsimp only
  repeat' split
  all_goals simp
@[simp] theorem eepromCompleted_ix (fault : Bool) (s : State) : (eepromCompleted fault s).ix = s.ix := by
  unfold eepromCompleted
  repeat' split
  all_goals simp
@[simp] theorem markDamaged_ix (n : Nat) (s : State) : (markDamaged n s).ix = s.ix := by
  unfold markDamaged
  split <;> simp
@[simp] theorem checkCompleted_ix (read : ReadResult) (s : State) : (checkCompleted read s).ix = s.ix := by
  unfold checkCompleted
  repeat' split
  all_goals simp

/-! ### Resets -/

@[simp] theorem clearWork_ix (s : State) : (clearWork s).ix = s.ix := rfl
@[simp] theorem beginWarmReset_ix (s : State) : (beginWarmReset s).ix = s.ix := by simp [beginWarmReset]
@[simp] theorem endWarmReset_ix (s : State) : (endWarmReset s).ix = s.ix := by simp [endWarmReset]
@[simp] theorem linkReset_ix (s : State) : (linkReset s).ix = s.ix := by
  have hslots := foldl_ix (fun s (e : Nat × ScanSlot) => cancelSlot e.1 e.2 s) fun s e => cancelSlot_ix e.1 e.2 s
  have hqueries := foldl_ix (fun s (e : Nat × QueryContext) => if e.2.isSubscriber then cancelSubscriber e.1 e.2 s else s) fun s e => by
    split <;> simp
  unfold linkReset
  split
  · exact beginWarmReset_ix s
  · simp [signalLinkReset, hslots, hqueries]
@[simp] theorem sendHead_ix (f : OutFrame) (rest : List OutFrame) (s : State) : (sendHead f rest s).ix = s.ix := rfl
@[simp] theorem sendHello_ix (s : State) : (sendHello s).ix = s.ix := rfl
@[simp] theorem losePower_ix (s : State) : (losePower s).ix = s.ix := by simp [losePower, transientAtPowerOn]

/-! ## The operations that write a map entry -/

@[simp] theorem putEntry_ix (ref : Nat) (e : MapEntry) (s : State) :
    (putEntry ref e s).ix = { s.ix with map := Tab.put s.ix.map ref e } := rfl

@[simp] theorem amendInPlace_ix (p : AmendParams) (slot : Nat) (r : CallRecord) (s : State) : (amendInPlace p slot r s).ix =
    { s.ix with map := Tab.put s.ix.map p.ref ((amendedVersion p r).entry (.hot slot)) } := by
  simp [amendInPlace]

@[simp] theorem amendMove_ix (p : AmendParams) (old : Location) (copy : CallRecord) (s : State) : (amendMove p old copy s).ix =
    { s.ix with map := Tab.put s.ix.map p.ref ((amendedVersion p copy).entry (.hot s.nextSlot)) } := by
  simp [amendMove]

@[simp] theorem commitRecord_ix (r : CallRecord) (s : State) : (commitRecord r s).ix =
    { s.ix with map := Tab.put s.ix.map r.ref (CallRecord.entry { r with late := s.lateAt r.day } (.hot s.nextSlot)) } := by
  obtain ⟨_, _, _, _, h⟩ := commitRecord_eq r s
  rw [h]

/-! ## Live references stay -/

/-- A request row is read back from the command. -/
theorem eq_requestRow {c : Instr} {kr : Kind × Request} (h : Laws.Kinds.requestOf c = some kr) : c = requestRow kr.1 kr.2 := by
  cases c <;> cases h <;> rfl

/-- Every live reference of the first state is live in the second. -/
def KeepsLive (s t : State) : Prop := ∀ ref, (s.lookup ref).isSome → (t.lookup ref).isSome

namespace KeepsLive

variable {s t u : State}

theorem refl (s : State) : KeepsLive s s := fun _ h => h

theorem trans (h : KeepsLive s t) (h' : KeepsLive t u) : KeepsLive s u := fun ref hr => h' ref (h ref hr)

theorem of_ix (h : t.ix = s.ix) : KeepsLive s t := fun ref hr => by rwa [State.lookup, h]

/-- Writing an entry takes no other out of the map. -/
theorem of_put {k : Nat} {e : MapEntry} (h : t.ix = { s.ix with map := Tab.put s.ix.map k e }) : KeepsLive s t := by
  intro ref hr
  rw [State.lookup, h]
  by_cases hk : ref = k
  · rw [hk, Tab.get_put_self]
    rfl
  · rwa [Tab.get_put_ne _ _ hk]

/-- A fold of operations that each keep the live references keeps them. -/
theorem foldl {α : Type} {g : State → α → State} (h : ∀ s a, KeepsLive s (g s a)) (l : List α) (s : State) :
    KeepsLive s (l.foldl g s) := by
  induction l generalizing s with
  | nil => exact refl s
  | cons a l ih => exact (h s a).trans (ih _)

/-! ### Ingest -/

theorem storeRecord (e : BatchEntry) (size : Nat) (r : CallRecord) (s : State) : KeepsLive s (storeRecord e size r s) :=
  trans (of_ix (by simp)) (of_put (commitRecord_ix r _))

theorem decideFromDay (e : BatchEntry) (size : Nat) (r : CallRecord) (s : State) : KeepsLive s (decideFromDay e size r s) := by
  unfold Machine.decideFromDay
  split
  · exact of_ix (by simp)
  split
  · exact of_ix (by simp)
  split
  · exact of_ix (by simp)
  split
  · exact of_ix (by simp)
  · exact storeRecord e size r s

theorem decideRecord (e : BatchEntry) (f : OpenFile) (size : Nat) (d : Delivered) (s : State) :
    KeepsLive s (decideRecord e f size d s) := by
  unfold Machine.decideRecord
  split
  · exact of_ix (by simp)
  split
  · exact of_ix (by simp)
  split
  · exact of_ix (by simp)
  · exact decideFromDay e size _ s

theorem decideNext (s : State) : KeepsLive s (decideNext s) := by
  unfold Machine.decideNext
  split
  · split
    · dsimp only
      split
      · exact of_ix (by simp)
      · exact decideRecord _ _ _ _ s
    · exact refl s
  · exact refl s

/-- The record checks resumed at step 5, from a state with the same entries. -/
theorem resumed (e : BatchEntry) (size : Nat) (r : CallRecord) (h : t.ix = s.ix) : KeepsLive s (Machine.decideFromDay e size r t) :=
  (of_ix h).trans (decideFromDay e size r t)

theorem compareByEntry (e : BatchEntry) (p : PendingDuplicate) (s : State) : KeepsLive s (compareByEntry e p s) := by
  unfold Machine.compareByEntry
  split
  · exact of_ix (by simp)
  · exact resumed _ _ _ (by simp)

theorem ingestPinned (s : State) : KeepsLive s (ingestPinned s) := by
  unfold Machine.ingestPinned
  split
  · split
    · exact refl s
    · split
      · exact resumed _ _ _ (by simp)
      · split
        · split
          · exact of_ix (by simp)
          · exact compareByEntry _ _ s
        · split
          · exact of_ix (by simp)
          · exact compareByEntry _ _ s
  · exact refl s

theorem ingestDecoded (rs : Option (List CallRecord)) (s : State) : KeepsLive s (ingestDecoded rs s) := by
  unfold Machine.ingestDecoded
  split
  · split
    · exact refl s
    · split
      · exact of_ix (by simp)
      · exact compareByEntry _ _ s
  · exact refl s

/-! ### Amendments -/

theorem takeAmend (tag epoch : Nat) (p : AmendParams) (s : State) : KeepsLive s (takeAmend tag epoch p s) := by
  unfold Machine.takeAmend
  split
  · exact of_ix (by simp)
  split
  · exact of_ix (by simp)
  split
  · exact of_ix (by simp)
  split
  · exact of_ix (by simp)
  split
  · exact of_ix (by simp)
  split
  · split <;> exact of_ix (by simp)
  · split
    · split
      · exact of_put (amendInPlace_ix p _ _ s)
      · exact of_ix (by simp)
    · exact of_ix (by simp)

theorem amendPinned (c : Nat) (q : QueryContext) (p : AmendParams) (s : State) : KeepsLive s (amendPinned c q p s) := by
  unfold Machine.amendPinned
  split
  · exact of_ix (by simp)
  split
  · exact of_ix (by simp)
  split
  · split <;> exact of_ix (by simp)
  · split
    · split
      · exact of_put (amendInPlace_ix p _ _ s)
      · exact of_ix (by simp)
    · exact of_ix (by simp)

theorem amendAdmitted (c : Nat) (q : QueryContext) (p : AmendParams) (f : AmendFlight) (s : State) :
    KeepsLive s (amendAdmitted c q p f s) := by
  unfold Machine.amendAdmitted
  dsimp only
  split
  · exact of_ix (by simp)
  split
  · exact of_ix (by simp)
  split
  · exact of_ix (by simp)
  split
  · exact of_ix (by simp)
  · exact of_put (amendMove_ix p f.loc _ _)

/-! ### What a waiter, a grant and a taken request do -/

theorem queryPinned (c : Nat) (s : State) : KeepsLive s (queryPinned c s) := by
  unfold Machine.queryPinned
  split
  · exact refl s
  split
  · exact of_ix (by simp)
  · exact of_ix (by simp)
  · exact amendPinned c _ _ s

theorem moveAdmitted (c : Nat) (s : State) : KeepsLive s (moveAdmitted c s) := by
  unfold Machine.moveAdmitted
  split
  · split
    · exact amendAdmitted c _ _ _ s
    · exact refl s
  · exact refl s

theorem switchMember (n : Nat) (acc : State × Nat) (m : Member × Nat) : KeepsLive acc.1 (switchMember n acc m).1 := by
  unfold Machine.switchMember
  dsimp only
  split
  · split
    · rename_i e _ _
      exact of_put (k := m.1.ref) (e := { e with loc := .segment n m.2 }) (by cases m.1.loc <;> simp)
    · exact of_ix (by cases m.1.loc <;> simp)
  · exact of_ix (by cases m.1.loc <;> simp)

theorem switchMembers (n : Nat) (ms : List (Member × Nat)) (acc : State × Nat) :
    KeepsLive acc.1 (ms.foldl (Machine.switchMember n) acc).1 := by
  induction ms generalizing acc with
  | nil => exact refl _
  | cons m ms ih => exact (switchMember n acc m).trans (ih _)

theorem switchSegment (day : Nat) (s : State) (w : Nat × List Member) : KeepsLive s (switchSegment day s w) := by
  have h := switchMembers w.1 w.2.zipIdx (s, 0)
  unfold Machine.switchSegment
  dsimp only at h ⊢
  split
  · exact h.trans (of_ix rfl)
  · exact h.trans (of_ix (by simp))

theorem switchOver (s : State) : KeepsLive s (switchOver s) := by
  unfold Machine.switchOver
  split
  · exact refl s
  · rename_i j _
    exact (foldl (switchSegment j.day) j.written s).trans (of_ix (by simp))

theorem waiterProceeds (w : Waiter) (s : State) : KeepsLive s (waiterProceeds w s) := by
  cases w with
  | query c => exact queryPinned c s
  | ingest => exact ingestPinned s
  | scan n => exact of_ix (scanPinned_ix n s)
  | patrol => exact of_ix (patrolPinned_ix s)
  | job => exact switchOver s
  | move c => exact moveAdmitted c s
  | sweep => exact of_ix (sweepAdmitted_ix s)

theorem serveWaiting (p : Params) (tag epoch : Nat) (s : State) : KeepsLive s (serveWaiting p tag epoch s) := by
  unfold Machine.serveWaiting
  split
  case h_3 => exact takeAmend tag epoch _ s
  all_goals exact of_ix (by simp)

theorem takeWaiting {v : Server} (h : takeWaiting v s = some t) : KeepsLive s t := by
  unfold Machine.takeWaiting at h
  split at h
  · split at h
    · cases h
      exact trans (of_ix (by simp)) (serveWaiting _ _ _ _)
    · cases h
  · cases h

theorem grantQuery (who : Requester) (s : State) : KeepsLive s (grantQuery who s) := by
  unfold Machine.grantQuery
  split
  · split
    · exact refl s
    · split <;> exact of_ix (by simp)
  · dsimp only
    split
    · exact of_ix (by simp)
    · exact ingestDecoded none s
  · exact refl s

theorem grantKind (k : JobKind) (who : Option Requester) (s : State) : KeepsLive s (grantKind k who s) := by
  unfold Machine.grantKind
  split
  · exact grantQuery _ s
  case h_6 | h_7 => split <;> exact of_ix (by simp)
  all_goals exact of_ix (by simp)

/-! ### What an event leads to -/

theorem acts (h : Acts s t) : KeepsLive s t := by
  cases h with
  | waiter h =>
    unfold serveWaiters at h
    split at h
    · cases h
      exact (of_ix (by simp)).trans (waiterProceeds _ _)
    · cases h
  | query h => exact takeWaiting h
  | loader h => exact takeWaiting h
  | sweep h => exact of_ix (startSweep_ix h)
  | pressure h => exact of_ix (pressureTurn_ix h)
  | drainEnd h => exact of_ix (drainEnds_ix h)
  | drain h => exact of_ix (beginDrain_ix h)
  | grant h =>
    unfold grantEngine at h
    split at h
    · cases h
      exact trans (of_ix (by simp)) (grantKind _ _ _)
    · cases h

theorem settleFrom (v : Turn) (s : State) : KeepsLive s (settleFrom v s) :=
  settleFrom_induction (fun _ _ ha hs => hs.trans (acts ha)) v s (refl s)


/-! ### Requests -/


theorem serveParams (p : Params) (tag epoch : Nat) (s : State) : KeepsLive s (serveParams p tag epoch s) := by
  unfold Machine.serveParams
  split
  case h_15 => exact serveWaiting _ _ _ s
  all_goals exact of_ix (by simp)

theorem arrive {code : Nat} {cls : ReqClass} {r : Request} {g : Pool → State → State} (hg : ∀ pool t, KeepsLive t (g pool t)) (s : State) :
    KeepsLive s (arrive code cls r g s) := by
  unfold Machine.arrive
  split
  · exact refl s
  split
  · split
    · exact of_ix (by simp)
    · dsimp only
      split
      · exact of_ix (by simp)
      · exact trans (of_ix (by simp)) (hg _ _)
  · exact of_ix (by simp)

theorem served (k : Kind) (r : Request) (s : State) : KeepsLive s (served k r s) := by
  refine arrive (fun pool t => ?_) s
  split
  · exact of_ix (by simp)
  · exact trans (of_ix (by simp)) (serveParams _ _ _ _)

theorem arrival (k : Kind) (r : Request) (s : State) : KeepsLive s (arrival k r s) := by
  unfold Machine.arrival
  split
  · exact arrive (fun pool t => of_ix (by simp)) s
  split
  · exact served k r s
  unfold servedOrWaiting
  split
  · exact served k r s
  · refine arrive (fun pool t => ?_) s
    split <;> exact of_ix (by simp)

theorem requestRow (k : Kind) (r : Request) (h : exec (requestRow k r) s = .next t) : KeepsLive s t := by
  by_cases hk : k = .linkReset
  · rw [hk] at h
    cases hl : s.lp.link with
    | resetting =>
      cases (exec_linkReset_resetting r hl).symm.trans h
      exact settleFrom _ s
    | opened =>
      cases (exec_linkReset_opened r hl).symm.trans h
      exact trans (of_ix (by split <;> simp)) (settleFrom _ _)
  · rw [exec_requestRow r s hk] at h
    cases h
    exact (arrival k r s).trans (settleFrom _ _)

theorem deliver (code : Nat) (r : Request) (h : deliver code r s = .next t) : KeepsLive s t := by
  cases hk : kindOfCode code with
  | some k => exact requestRow k r (deliver_known hk ▸ h)
  | none =>
    rw [deliver_unknown hk] at h
    cases h
    exact (arrive (fun pool t => of_ix (by simp)) s).trans (settleFrom _ _)

/-! ### Commands -/

theorem decodeOwner (g : Grant) (rs : Option (List CallRecord)) (s : State) : KeepsLive s (decodeOwner g rs s) := by
  unfold Machine.decodeOwner
  split
  case h_2 => exact ingestDecoded rs s
  all_goals exact of_ix (by simp)

theorem decodeCompleted (read : ReadResult) (s : State) : KeepsLive s (decodeCompleted read s) := by
  unfold Machine.decodeCompleted
  split
  · exact refl s
  · split <;> exact trans (of_ix (by simp)) (decodeOwner _ _ _)

/-- An event whose own effect keeps the live references keeps them to its end. -/
theorem next {x : State} {v : Turn} (h : (.next (Machine.settleFrom v x) : Result) = .next t) (hx : KeepsLive s x) : KeepsLive s t := by
  cases h
  exact hx.trans (settleFrom v x)

/-- An event that falls only under a condition, and else leaves the state. -/
theorem next_ite {b : Prop} [Decidable b] {x : State} {v : Turn} (h : (if b then .next (Machine.settleFrom v x) else .next s : Result) = .next t)
    (hx : KeepsLive s x) : KeepsLive s t := by
  split at h
  · exact next h hx
  · cases h
    exact refl s

/-- No command but a sweep decision and the beginning of a start-up takes a live reference out of the map. -/
theorem exec {c : Instr} (hsweep : c ≠ .sweepDecision) (hstart : startsUp c = false) (h : exec c s = .next t) : KeepsLive s t := by
  cases hr : Laws.Kinds.requestOf c with
  | some kr =>
    rw [eq_requestRow hr] at h
    exact requestRow kr.1 kr.2 h
  | none =>
    cases c with
    | powerOn | resetPinRelease => cases hstart
    | sweepDecision => exact absurd rfl hsweep
    | resetPinAssert =>
      simp only [Machine.exec, execResetPinAssert] at h
      split at h <;> cases h <;> exact of_ix (by simp)
    | warmResetEnd => exact next_ite h (of_ix (by simp))
    | laneLockLoss =>
      simp only [Machine.exec, execLaneLockLoss] at h
      split at h <;> exact next h (of_ix (by simp))
    | laneLockReturn => exact next h (of_ix rfl)
    | hello => exact next_ite h (of_ix (by simp))
    | frameSend =>
      simp only [Machine.exec, execFrameSend] at h
      split at h
      · cases h
        exact refl s
      · split at h
        · cases h
          exact of_ix (by simp)
        · exact next h (of_ix (by simp))
    | frameCheck frame =>
      simp only [Machine.exec, execFrameCheck] at h
      split at h
      · exact next h (refl s)
      · split at h
        · exact next h (of_ix (by simp))
        · exact deliver _ _ h
    | unknownKind code r => exact deliver _ _ h
    | eepromWriteCompletion fault => exact next h (of_ix (by simp))
    | recordEvent => exact next h (decideNext s)
    | secondEvent => exact next_ite h (of_ix (by simp))
    | quietTimerExpiry day => exact next_ite h (of_ix (by simp))
    | fileIdleExpiry ctx =>
      simp only [Machine.exec, execFileIdleExpiry] at h
      split at h
      · exact next_ite h (of_ix (by simp))
      · cases h
        exact refl s
    | patrolTimerExpiry => exact next_ite h (of_ix (by simp))
    | millisecondTick =>
      simp only [Machine.exec, execMillisecondTick] at h
      split at h
      · exact next h (of_ix (by simp))
      · split at h <;> cases h <;> exact of_ix rfl
    | throttlePhaseEnd => exact next_ite h (of_ix (by simp))
    | sortEnd => exact next h (of_ix (by simp))
    | writeCompletion fault => exact next h (of_ix (by simp))
    | decodeCompletion read => exact next h (decodeCompleted read s)
    | readCompletion read => exact next h (of_ix (by simp))
    | lossOfNodePower =>
      simp only [Machine.exec, execLossOfNodePower] at h
      split at h <;> cases h <;> exact of_ix (by simp)
    | _ => cases hr

end KeepsLive

/-- Settles O8. -/
theorem liveRecordsStayLive : Obligations.LiveRecordsStayLive :=
  fun _ _ _ ref hsweep hstart h hlive => KeepsLive.exec hsweep hstart h ref hlive

end Sys2Proof.Machine
end

section
/-! The link form of a record and the parameters of the kinds, each read back field by field (O16). -/

namespace Sys2Proof.Machine
open Wire

/-! ## The link form of a record -/

theorem linkLength_cases (cell partner : Bool) :
    linkLength cell partner ≤ paddedSize (linkLength cell partner) ∧ paddedSize (linkLength cell partner) = if cell then 40 else 36 := by
  cases cell <;> cases partner <;> decide

theorem linkLength_lt (cell partner : Bool) : linkLength cell partner < 256 ^ 2 := by
  cases cell <;> cases partner <;> decide

/-- What the bits of the format byte say (1.3, R10). -/
theorem formatByte_bits (x : CallRecord) (held : Bool) : formatByte x held < 128 ∧ formatByte x held % 4 = x.cls.code ∧
    CallClass.ofCode (formatByte x held) = x.cls ∧ (formatByte x held).testBit 2 = x.cell.isSome ∧
    (formatByte x held).testBit 3 = x.partner.isSome ∧ (formatByte x held).testBit 4 = x.late ∧
    (formatByte x held).testBit 5 = x.clamped ∧ (formatByte x held).testBit 6 = held ∧
    (formatByte x held / 16 = 0 ↔ x.late = false ∧ x.clamped = false ∧ held = false) := by
  unfold formatByte
  generalize x.cell.isSome = cell
  generalize x.partner.isSome = partner
  generalize x.late = late
  generalize x.clamped = clamped
  cases x.cls <;> (revert cell partner late clamped held; decide)

/-- The 34 bytes that every record begins with. -/
def recordHead (x : CallRecord) (held : Bool) : Bytes :=
  be 2 (linkLength x.cell.isSome x.partner.isSome) ++ (be 1 (formatByte x held) ++ (be 1 x.amendCount ++ (be 2 x.source ++ (be 6 x.sequence ++
    (be 6 x.key ++ (be 4 x.start ++ (be 4 x.duration ++ (be 4 x.volume ++ be 4 x.charge))))))))

/-- The optional fields of a record. -/
def recordTail (x : CallRecord) : Bytes :=
  (match x.cell with | some c => be 4 c | none => []) ++ (match x.partner with | some p => be 2 p | none => [])

theorem renderRecord_eq (x : CallRecord) (held : Bool) : renderRecord x held = recordHead x held ++ (recordTail x ++
    List.replicate (paddedSize (linkLength x.cell.isSome x.partner.isSome) - linkLength x.cell.isSome x.partner.isSome) 0) := by
  simp only [renderRecord, recordHead, recordTail, List.append_assoc] <;> rfl

@[simp] theorem recordHead_length (x : CallRecord) (held : Bool) : (recordHead x held).length = 34 := by simp [recordHead]

theorem recordTail_length (x : CallRecord) : 34 + (recordTail x).length = linkLength x.cell.isSome x.partner.isSome := by
  unfold recordTail linkLength
  cases x.cell <;> cases x.partner <;> rfl

theorem renderRecord_length (x : CallRecord) (held : Bool) :
    (renderRecord x held).length = paddedSize (linkLength x.cell.isSome x.partner.isSome) := by
  have h := recordTail_length x
  obtain ⟨h1, -⟩ := linkLength_cases x.cell.isSome x.partner.isSome
  rw [renderRecord_eq, List.length_append, List.length_append, recordHead_length, List.length_replicate]
  omega

/-- The padding is zero (1.3). -/
theorem renderRecord_padding (x : CallRecord) (held : Bool) (n : Nat) (hn : linkLength x.cell.isSome x.partner.isSome ≤ n)
    (hb : n < (renderRecord x held).length) : (renderRecord x held)[n]? = some 0 := by
  have h := recordTail_length x
  rw [renderRecord_length] at hb
  have hl : (recordHead x held ++ recordTail x).length ≤ n := by rw [List.length_append, recordHead_length]; omega
  rw [renderRecord_eq, ← List.append_assoc, List.getElem?_append_right hl, List.getElem?_replicate, if_pos]
  rw [List.length_append, recordHead_length]
  omega

/-- A field of the first 34 bytes of a rendered record, whatever follows the record. -/
theorem field_renderRecord (x : CallRecord) (held : Bool) (rest : Bytes) {off n : Nat} (h : off + n ≤ 34) :
    field (renderRecord x held ++ rest) off n = field (recordHead x held) off n := by
  rw [renderRecord_eq, List.append_assoc, field_append_left (by simpa using h)]

theorem field_renderRecord_cell (x : CallRecord) (held : Bool) (rest : Bytes) (v : Nat) (hx : x.cell = some v) (hv : v < 4294967296) :
    field (renderRecord x held ++ rest) 34 4 = v := by
  rw [renderRecord_eq, List.append_assoc, field_append (by simp), recordHead_length]
  simp [recordTail, hx, hv]

theorem field_renderRecord_partner (x : CallRecord) (held : Bool) (rest : Bytes) (v : Nat) (hx : x.partner = some v) (hv : v < 65536) :
    field (renderRecord x held ++ rest) (if x.cell.isSome then 38 else 34) 2 = v := by
  rw [renderRecord_eq, List.append_assoc, field_append (by split <;> simp), recordHead_length]
  cases hc : x.cell <;> simp [recordTail, hc, hx, hv, field_skip]

/-- A field in two parts. -/
theorem be_split (m n v : Nat) : be (m + n) v = be m (v / 256 ^ n) ++ be n v := by
  induction m with
  | zero => simp [be]
  | succ m ih =>
    rw [show m + 1 + n = m + n + 1 by omega, be, be, List.cons_append, ih, Nat.div_div_eq_div_mul, pow_add, mul_comm (256 ^ n)]

/-- The fields of a record each fill their place in the link form (1.3). -/
structure FitsLink (x : CallRecord) : Prop where
  source : x.source < 65536
  sequence : x.sequence < 281474976710656
  key : x.key < 281474976710656
  start : x.start < 4294967296
  duration : x.duration < 4294967296
  volume : x.volume < 4294967296
  charge : x.charge < 4294967296
  amendCount : x.amendCount < 256
  cell : ∀ v, x.cell = some v → v < 4294967296
  partner : ∀ v, x.partner = some v → v < 65536

section
variable {x : CallRecord} (hx : FitsLink x) (held : Bool)
include hx

/-- The fields of the first 34 bytes, in their order (1.3). -/
theorem recordHead_fields : let b := recordHead x held
    field b 0 2 = linkLength x.cell.isSome x.partner.isSome ∧ field b 2 1 = formatByte x held ∧ field b 3 1 = x.amendCount ∧
    field b 4 2 = x.source ∧ field b 6 6 = x.sequence ∧ field b 12 6 = x.key ∧ field b 18 4 = x.start ∧ field b 22 4 = x.duration ∧
    field b 26 4 = x.volume ∧ field b 30 4 = x.charge := by
  have hf := (formatByte_bits x held).1
  have hl := linkLength_lt x.cell.isSome x.partner.isSome
  obtain ⟨h1, h2, h3, h4, h5, h6, h7, h8, -, -⟩ := hx
  have last := field_be 4 x.charge []
  rw [List.append_nil] at last
  refine ⟨?_, ?_, ?_, ?_, ?_, ?_, ?_, ?_, ?_, ?_⟩ <;> simp [recordHead, field_skip, last] <;> omega

/-- The sequence as a record on ingest has it: 5 bytes behind one that must be zero (R11, R64). -/
theorem recordHead_sequence : field (recordHead x held) 6 1 = x.sequence / 1099511627776 ∧
    field (recordHead x held) 7 5 = x.sequence % 1099511627776 := by
  have h := hx.sequence
  simp only [recordHead, be_split 1 5 x.sequence, List.append_assoc]
  constructor <;> simp [field_skip]
  omega

theorem wholeSize_renderRecord (rest : Bytes) : wholeSize (renderRecord x held ++ rest) = some (renderRecord x held).length := by
  obtain ⟨h0, h2, -⟩ := recordHead_fields hx held
  obtain ⟨-, -, -, b2, b3, -⟩ := formatByte_bits x held
  obtain ⟨-, hp⟩ := linkLength_cases x.cell.isSome x.partner.isSome
  have hl : (renderRecord x held ++ rest).length = paddedSize (linkLength x.cell.isSome x.partner.isSome) + rest.length := by
    rw [List.length_append, renderRecord_length]
  have hlong : 36 ≤ paddedSize (linkLength x.cell.isSome x.partner.isSome) := by rw [hp]; split <;> omega
  unfold wholeSize
  rw [hl, field_renderRecord x held rest (by omega), field_renderRecord x held rest (by omega), h0, h2, if_neg (by omega)]
  dsimp only
  rw [b2, b3, if_neg (by simp), if_neg (by omega), renderRecord_length]

theorem mustBeZero_renderRecord (rest : Bytes) : (readDelivered (renderRecord x held ++ rest)).mustBeZero =
    (decide (x.sequence < 1099511627776) && (decide (x.amendCount = 0) && !x.late && !x.clamped && !held)) := by
  obtain ⟨-, h2, h3, -⟩ := recordHead_fields hx held
  obtain ⟨h6, -⟩ := recordHead_sequence hx held
  obtain ⟨-, -, -, -, -, -, -, -, bits⟩ := formatByte_bits x held
  have hs : x.sequence / 1099511627776 = 0 ↔ x.sequence < 1099511627776 := by omega
  simp only [readDelivered, field_renderRecord, h2, h3, h6, Nat.reduceAdd, Nat.reduceLeDiff]
  rw [Bool.eq_iff_iff]
  simp only [Bool.and_eq_true, beq_iff_eq, bits, hs, decide_eq_true_eq, Bool.not_eq_true']
  tauto

theorem readDelivered_renderRecord (rest : Bytes) (hs : x.sequence < 1099511627776) : readDelivered (renderRecord x held ++ rest) =
    { source := x.source, sequence := x.sequence, key := x.key, cls := x.cls, start := x.start, duration := x.duration, volume := x.volume,
      charge := x.charge, cell := x.cell, partner := x.partner,
      mustBeZero := decide (x.amendCount = 0) && !x.late && !x.clamped && !held } := by
  have hz := mustBeZero_renderRecord hx held rest
  obtain ⟨-, h2, -, h4, -, h12, h18, h22, h26, h30⟩ := recordHead_fields hx held
  obtain ⟨-, h7⟩ := recordHead_sequence hx held
  obtain ⟨-, -, bc, b2, b3, -⟩ := formatByte_bits x held
  have hcell : (if x.cell.isSome then some (field (renderRecord x held ++ rest) 34 4) else none) = x.cell := by
    cases hc : x.cell with
    | none => rfl
    | some v => simp [field_renderRecord_cell x held rest v hc (hx.cell v hc)]
  have hpartner : (if x.partner.isSome then some (field (renderRecord x held ++ rest) (if x.cell.isSome then 38 else 34) 2) else none) =
      x.partner := by
    cases hc : x.partner with
    | none => rfl
    | some v => simp [field_renderRecord_partner x held rest v hc (hx.partner v hc)]
  rw [decide_eq_true hs, Bool.true_and] at hz
  rw [← hz]
  simp only [readDelivered, field_renderRecord, h2, h4, h7, h12, h18, h22, h26, h30, bc, b2, b3, Nat.reduceAdd, Nat.reduceLeDiff,
    hcell, hpartner, Nat.mod_eq_of_lt hs]

end

/-- When the bytes that remain are structurally whole, and at what size (R63). -/
theorem wholeSize_eq_some {b : Bytes} {n : Nat} : wholeSize b = some n ↔
    3 ≤ b.length ∧ field b 0 2 = linkLength ((field b 2 1).testBit 2) ((field b 2 1).testBit 3) ∧ n = paddedSize (field b 0 2) ∧
      n ≤ b.length := by
  unfold wholeSize
  dsimp only
  split
  · simp; omega
  split
  · rename_i h
    simp [h]
  split
  · simp; omega
  · rename_i h1 h2 h3
    rw [not_lt] at h1 h3
    rw [not_not] at h2
    simp only [Option.some.injEq, h1, ← h2, true_and]
    constructor
    · rintro rfl
      exact ⟨rfl, h3⟩
    · rintro ⟨rfl, -⟩
      rfl

/-! ## Parameters of fields alone -/

theorem exists_be_end {n : Nat} {b : Bytes} (h : b.length = n) : ∃ v, v < 256 ^ n ∧ b = be n v := by
  subst h
  exact ⟨readBE b, readBE_lt b, (be_readBE b).symm⟩

/-- The last field. -/
@[simp] theorem field_be_end (n v : Nat) : field (be n v) 0 n = v % 256 ^ n := by
  simpa using field_be n v []

theorem readParams_none {y : Params} {b : Bytes} {x : Params} : (if b = [] then some y else none) = some x ↔ b = [] ∧ x = y := by
  split
  · rename_i h
    simp [h, eq_comm]
  · rename_i h
    simp [h]

/-- A kind whose parameters are one field. -/
theorem readParams_field {n top : Nat} (ht : 256 ^ n = top) {f : Nat → Params} {b : Bytes} {x : Params} :
    (if b.length = n then some (f (readBE b)) else none) = some x ↔ ∃ v, v < top ∧ b = be n v ∧ x = f v := by
  subst ht
  constructor
  · intro h
    split at h
    · rename_i hl
      obtain ⟨v, hv, rfl⟩ := exists_be_end hl
      exact ⟨v, hv, rfl, by simpa [readBE_be_of_lt hv, eq_comm] using h⟩
    · cases h
  · rintro ⟨v, hv, rfl, rfl⟩
    simp [readBE_be_of_lt hv]

/-- A kind whose parameters are two fields. -/
theorem readParams_fields {n m k top top' : Nat} (hk : k = n + m) (ht : 256 ^ n = top) (ht' : 256 ^ m = top') {f : Nat → Nat → Params}
    {b : Bytes} {x : Params} : (if b.length = k then some (f (field b 0 n) (field b n m)) else none) = some x ↔
      ∃ v w, v < top ∧ w < top' ∧ b = be n v ++ be m w ∧ x = f v w := by
  subst hk ht ht'
  have read {v w : Nat} (hv : v < 256 ^ n) (hw : w < 256 ^ m) :
      field (be n v ++ be m w) 0 n = v ∧ field (be n v ++ be m w) n m = w := by
    simp [field_skip, Nat.mod_eq_of_lt hv, Nat.mod_eq_of_lt hw]
  constructor
  · intro h
    split at h
    · rename_i hl
      obtain ⟨v, c, hv, hc, rfl⟩ := exists_be hl
      obtain ⟨w, hw, rfl⟩ := exists_be_end hc
      obtain ⟨h0, h1⟩ := read hv hw
      exact ⟨v, w, hv, hw, rfl, by simpa [h0, h1, eq_comm] using h⟩
    · cases h
  · rintro ⟨v, w, hv, hw, rfl, rfl⟩
    obtain ⟨h0, h1⟩ := read hv hw
    simp [h0, h1]

/-! ## Parameters with flags and masks -/

/-- A presence or flag byte spells a flag, or fails the check (R16). -/
theorem readFlag_eq_some {n : Nat} {f : Bool} : readFlag n = some f ↔ n = if f then 1 else 0 := by
  unfold readFlag
  split
  · rename_i h
    cases f <;> simp [h]
  split
  · rename_i h
    cases f <;> simp [h]
  · rename_i h0 h1
    cases f <;> simp [h0, h1]

@[simp] theorem readFlag_bit (f : Bool) : readFlag (if f then 1 else 0) = some f := readFlag_eq_some.2 rfl

/-- The same of a byte. -/
theorem readFlag_toNat {c : Byte} {f : Bool} : readFlag c.toNat = some f ↔ c = if f then 1 else 0 := by
  rw [readFlag_eq_some]
  constructor
  · intro h
    exact BitVec.eq_of_toNat_eq (by rw [h]; cases f <;> rfl)
  · rintro rfl
    cases f <;> rfl

theorem readParams_setRetention {b : Bytes} {x : Params} : readParams .setRetention b = some x ↔
    ∃ v w now, v < 256 ∧ w < 65536 ∧ b = be 1 v ++ be 2 w ++ flag now ∧ x = .setRetention v w now := by
  simp only [readParams]
  constructor
  · intro h
    split at h
    · rename_i hl
      obtain ⟨v, c, hv, hc, rfl⟩ := exists_be (n := 1) (m := 3) hl
      obtain ⟨w, d, hw, hd, rfl⟩ := exists_be (n := 2) (m := 1) hc
      obtain ⟨u, hu, rfl⟩ := exists_be_end hd
      norm_num at hv hw hu
      obtain ⟨now, hf, rfl⟩ := Option.map_eq_some_iff.1 h
      have hflag : u = if now then 1 else 0 := readFlag_eq_some.1 (by simpa [field_skip, Nat.mod_eq_of_lt hu] using hf)
      rw [hflag]
      exact ⟨v, w, now, hv, hw, (List.append_assoc _ _ _).symm,
        by simp [field_skip, Nat.mod_eq_of_lt hv, Nat.mod_eq_of_lt hw]⟩
    · cases h
  · rintro ⟨v, w, now, hv, hw, rfl, rfl⟩
    have e : (if now then 1 else 0) % 256 = if now then 1 else 0 := by cases now <;> rfl
    simp [flag, field_skip, List.append_assoc, Nat.mod_eq_of_lt hv, Nat.mod_eq_of_lt hw, e]

theorem readParams_placeHold {b : Bytes} {x : Params} : readParams .placeHold b = some x ↔
    ∃ h : Hold, h.label < 4294967296 ∧ h.key < 281474976710656 ∧ h.maskBits < 256 ∧ h.firstDay < 65536 ∧
      h.lastDay < 65536 ∧ h.classMask < 16 ∧
      b = be 4 h.label ++ be 6 h.key ++ be 1 h.maskBits ++ be 2 h.firstDay ++ be 2 h.lastDay ++ be 1 h.classMask ∧ x = .placeHold h := by
  simp only [readParams, readHold]
  constructor
  · intro h
    split at h
    · rename_i hl
      obtain ⟨hl, hm⟩ := hl
      obtain ⟨label, c, h1, l1, rfl⟩ := exists_be (n := 4) (m := 12) hl
      obtain ⟨key, c, h2, l2, rfl⟩ := exists_be (n := 6) (m := 6) l1
      obtain ⟨bits, c, h3, l3, rfl⟩ := exists_be (n := 1) (m := 5) l2
      obtain ⟨first, c, h4, l4, rfl⟩ := exists_be (n := 2) (m := 3) l3
      obtain ⟨last, c, h5, l5, rfl⟩ := exists_be (n := 2) (m := 1) l4
      obtain ⟨mask, h6, rfl⟩ := exists_be_end l5
      norm_num at h1 h2 h3 h4 h5 h6
      simp [field_skip, Nat.mod_eq_of_lt h1, Nat.mod_eq_of_lt h2, Nat.mod_eq_of_lt h3, Nat.mod_eq_of_lt h4, Nat.mod_eq_of_lt h5,
        Nat.mod_eq_of_lt h6] at h hm
      exact ⟨⟨label, key, bits, first, last, mask⟩, h1, h2, h3, h4, h5, hm, by simp only [List.append_assoc], h.symm⟩
    · cases h
  · rintro ⟨h, h1, h2, h3, h4, h5, h6, rfl, rfl⟩
    have h6' : h.classMask % 256 = h.classMask := by omega
    simp [field_skip, Nat.mod_eq_of_lt h1, Nat.mod_eq_of_lt h2, Nat.mod_eq_of_lt h3, Nat.mod_eq_of_lt h4, Nat.mod_eq_of_lt h5, h6', h6]

theorem readParams_readStatus {b : Bytes} {x : Params} : readParams .readStatus b = some x ↔ ∃ clear, b = flag clear ∧ x = .readStatus clear := by
  simp only [readParams]
  constructor
  · intro h
    split at h
    · rename_i hl
      obtain ⟨v, hv, rfl⟩ := exists_be_end hl
      rw [readBE_be_of_lt hv] at h
      obtain ⟨clear, hf, rfl⟩ := Option.map_eq_some_iff.1 h
      exact ⟨clear, by rw [readFlag_eq_some.1 hf]; rfl, rfl⟩
    · cases h
  · rintro ⟨clear, rfl, rfl⟩
    cases clear <;> rfl

theorem readParams_auditScan {b : Bytes} {x : Params} : readParams .auditScan b = some x ↔
    ∃ f : ScanFilter, f.sourceMatch < 65536 ∧ f.sourceMask < 65536 ∧ f.classMask < 16 ∧ f.firstDay < 65536 ∧
      f.lastDay < 65536 ∧ f.keyMatch < 281474976710656 ∧ f.keyMask < 281474976710656 ∧ f.flagsMatch < 16 ∧ f.flagsMask < 16 ∧
      b = be 2 f.sourceMatch ++ be 2 f.sourceMask ++ be 1 f.classMask ++ be 2 f.firstDay ++ be 2 f.lastDay ++ be 6 f.keyMatch ++
        be 6 f.keyMask ++ be 1 f.flagsMatch ++ be 1 f.flagsMask ∧ x = .auditScan f := by
  simp only [readParams, readScan]
  constructor
  · intro h
    split at h
    · rename_i hl
      obtain ⟨hl, hm⟩ := hl
      obtain ⟨source, c, h1, l1, rfl⟩ := exists_be (n := 2) (m := 21) hl
      obtain ⟨sources, c, h2, l2, rfl⟩ := exists_be (n := 2) (m := 19) l1
      obtain ⟨classes, c, h3, l3, rfl⟩ := exists_be (n := 1) (m := 18) l2
      obtain ⟨first, c, h4, l4, rfl⟩ := exists_be (n := 2) (m := 16) l3
      obtain ⟨last, c, h5, l5, rfl⟩ := exists_be (n := 2) (m := 14) l4
      obtain ⟨key, c, h6, l6, rfl⟩ := exists_be (n := 6) (m := 8) l5
      obtain ⟨keys, c, h7, l7, rfl⟩ := exists_be (n := 6) (m := 2) l6
      obtain ⟨flags, c, h8, l8, rfl⟩ := exists_be (n := 1) (m := 1) l7
      obtain ⟨mask, h9, rfl⟩ := exists_be_end l8
      norm_num at h1 h2 h3 h4 h5 h6 h7 h8 h9
      simp [field_skip, Nat.mod_eq_of_lt h1, Nat.mod_eq_of_lt h2, Nat.mod_eq_of_lt h3, Nat.mod_eq_of_lt h4, Nat.mod_eq_of_lt h5,
        Nat.mod_eq_of_lt h6, Nat.mod_eq_of_lt h7, Nat.mod_eq_of_lt h8, Nat.mod_eq_of_lt h9] at h hm
      obtain ⟨hm3, hm8, hm9⟩ := hm
      exact ⟨⟨source, sources, classes, first, last, key, keys, flags, mask⟩, h1, h2, hm3, h4, h5, h6, h7, hm8, hm9,
        by simp only [List.append_assoc], h.symm⟩
    · cases h
  · rintro ⟨f, h1, h2, h3, h4, h5, h6, h7, h8, h9, rfl, rfl⟩
    have h3' : f.classMask % 256 = f.classMask := by omega
    have h8' : f.flagsMatch % 256 = f.flagsMatch := by omega
    have h9' : f.flagsMask % 256 = f.flagsMask := by omega
    simp [field_skip, Nat.mod_eq_of_lt h1, Nat.mod_eq_of_lt h2, Nat.mod_eq_of_lt h4, Nat.mod_eq_of_lt h5, Nat.mod_eq_of_lt h6,
      Nat.mod_eq_of_lt h7, h3', h8', h9', h3, h8, h9]

/-! ## Parameters with optional fields and lists -/

/-- The elements of a SET_CONFIG list as bytes (R175). -/
def elementBytes (l : List (Nat × Nat)) : Bytes := l.flatMap fun e => be 1 e.1 ++ be 4 e.2

/-- Elements within their fields. -/
def ElementsFit (l : List (Nat × Nat)) : Prop := ∀ e ∈ l, e.1 < 256 ∧ e.2 < 4294967296

theorem elementBytes_length (l : List (Nat × Nat)) : (elementBytes l).length = 5 * l.length := by
  induction l with
  | nil => rfl
  | cons e l ih =>
    rw [elementBytes, List.flatMap_cons, List.length_append, ← elementBytes, ih]
    simp
    omega

theorem readElements_elementBytes {l : List (Nat × Nat)} (h : ElementsFit l) : readElements l.length (elementBytes l) = l := by
  induction l with
  | nil => rfl
  | cons e l ih =>
    obtain ⟨⟨h1, h2⟩, hl⟩ := List.forall_mem_cons.1 h
    have hd : (be 1 e.1 ++ (be 4 e.2 ++ elementBytes l)).drop 5 = elementBytes l := by
      rw [← List.append_assoc]
      exact List.drop_left' (by simp)
    rw [elementBytes, List.flatMap_cons, ← elementBytes, List.append_assoc, List.length_cons, readElements, hd, ih hl]
    simp [field_skip, Nat.mod_eq_of_lt h1, Nat.mod_eq_of_lt h2]

/-- Bytes in fives are elements. -/
theorem exists_elements {n : Nat} {b : Bytes} (h : b.length = 5 * n) : ∃ l : List (Nat × Nat), l.length = n ∧ ElementsFit l ∧ b = elementBytes l := by
  induction n generalizing b with
  | zero => exact ⟨[], rfl, by simp [ElementsFit], List.length_eq_zero_iff.1 h⟩
  | succ n ih =>
    obtain ⟨v, c, hv, hc, rfl⟩ := exists_be (n := 1) (m := 4 + 5 * n) (b := b) (by omega)
    obtain ⟨w, d, hw, hd, rfl⟩ := exists_be hc
    obtain ⟨l, hl, hf, rfl⟩ := ih hd
    exact ⟨(v, w) :: l, by simp [hl], List.forall_mem_cons.2 ⟨⟨hv, hw⟩, hf⟩, by simp [elementBytes]⟩

theorem readParams_setConfig {b : Bytes} {x : Params} : readParams .setConfig b = some x ↔
    ∃ l : List (Nat × Nat), l.length < 65536 ∧ ElementsFit l ∧ b = be 2 l.length ++ elementBytes l ∧ x = .setConfig l := by
  simp only [readParams]
  have drop (n : Nat) (c : Bytes) : (be 2 n ++ c).drop 2 = c := List.drop_left' (by simp)
  constructor
  · intro h
    split at h
    · rename_i hl
      obtain ⟨h2, hl⟩ := hl
      obtain ⟨n, c, hn, hc, rfl⟩ := exists_be (n := 2) (m := b.length - 2) (b := b) (by omega)
      rw [field_be, Nat.mod_eq_of_lt hn, List.length_append, be_length] at hl
      obtain ⟨l, rfl, hf, rfl⟩ := exists_elements (n := n) (b := c) (by omega)
      rw [field_be, Nat.mod_eq_of_lt hn, drop, readElements_elementBytes hf, Option.some.injEq] at h
      exact ⟨l, hn, hf, rfl, h.symm⟩
    · cases h
  · rintro ⟨l, hn, hf, rfl, rfl⟩
    rw [field_be, Nat.mod_eq_of_lt (by simpa using hn), drop, readElements_elementBytes hf]
    simp [elementBytes_length]

/-! ### FILE_CLOSE -/

/-- The eight bytes of a signed number in range spell it (1.5). -/
theorem readInt_beInt {w : Int} (h : -9223372036854775808 ≤ w) (h' : w < 9223372036854775808) : readInt (beInt w) = w := by
  have hv : (w % 18446744073709551616).toNat < 256 ^ 8 := by omega
  unfold readInt beInt
  rw [readBE_be_of_lt hv]
  split <;> omega

/-- Any eight bytes spell a signed number in range. -/
theorem exists_beInt {b : Bytes} (h : b.length = 8) :
    ∃ w : Int, -9223372036854775808 ≤ w ∧ w < 9223372036854775808 ∧ b = beInt w := by
  obtain ⟨v, hv, rfl⟩ := exists_be_end h
  by_cases hs : v < 9223372036854775808
  · refine ⟨v, by omega, by omega, ?_⟩
    rw [beInt, show ((v : Int) % 18446744073709551616).toNat = v by omega]
  · refine ⟨(v : Int) - 18446744073709551616, by omega, by omega, ?_⟩
    rw [beInt, show (((v : Int) - 18446744073709551616) % 18446744073709551616).toNat = v by omega]

@[simp] theorem beInt_length (w : Int) : (beInt w).length = 8 := be_length _ _

theorem readParams_fileClose {b : Bytes} {x : Params} : readParams .fileClose b = some x ↔
    (b = [0] ∧ x = .fileClose none) ∨ ∃ (v : Nat) (w : Int), v < 18446744073709551616 ∧ -9223372036854775808 ≤ w ∧
      w < 9223372036854775808 ∧ b = [1] ++ be 8 v ++ beInt w ∧ x = .fileClose (some (v, w)) := by
  simp only [readParams, readTrailer]
  have drop (n : Nat) (c : Bytes) : (be 8 n ++ c).drop 8 = c := List.drop_left' (by simp)
  constructor
  · intro h
    split at h
    · cases h
    rename_i c rest
    split at h
    · cases h
    · rename_i hf
      split at h
      · rename_i hr
        cases h
        exact .inl ⟨by rw [hr, readFlag_toNat.1 hf]; rfl, rfl⟩
      · cases h
    · rename_i hf
      split at h
      · rename_i hr
        obtain ⟨v, d, hv, hd, rfl⟩ := exists_be (n := 8) (m := 8) hr
        obtain ⟨w, hw, hw', rfl⟩ := exists_beInt hd
        rw [field_be, Nat.mod_eq_of_lt hv, drop, readInt_beInt hw hw'] at h
        cases h
        exact .inr ⟨v, w, hv, hw, hw', by rw [readFlag_toNat.1 hf]; rfl, rfl⟩
      · cases h
  · rintro (⟨rfl, rfl⟩ | ⟨v, w, hv, hw, hw', rfl, rfl⟩)
    · rfl
    · have hlen : (be 8 v ++ beInt w).length = 16 := by simp
      show (if (be 8 v ++ beInt w).length = 16 then
        some (Params.fileClose (some (field (be 8 v ++ beInt w) 0 8, readInt ((be 8 v ++ beInt w).drop 8)))) else none) = _
      rw [if_pos hlen, field_be, Nat.mod_eq_of_lt (by simpa using hv), drop, readInt_beInt hw hw']

/-! ### QUERY_SUBSCRIBER -/

/-- The bytes of a resume position (R87). -/
def resumeBytes (p : Position) : Bytes := be 2 p.day ++ (be 4 p.start ++ be 8 p.ref)

/-- A resume position within its fields. -/
def Position.Fits (p : Position) : Prop := p.day < 65536 ∧ p.start < 4294967296 ∧ p.ref < 18446744073709551616

theorem exists_resume {b : Bytes} (h : b.length = 14) : ∃ p : Position, p.Fits ∧ b = resumeBytes p := by
  obtain ⟨day, c, h1, hc, rfl⟩ := exists_be (n := 2) (m := 12) h
  obtain ⟨start, d, h2, hd, rfl⟩ := exists_be (n := 4) (m := 8) hc
  obtain ⟨ref, h3, rfl⟩ := exists_be_end hd
  exact ⟨⟨day, start, ref⟩, ⟨h1, h2, h3⟩, rfl⟩

theorem resumeBytes_fields {p : Position} (h : p.Fits) :
    field (resumeBytes p) 0 2 = p.day ∧ field (resumeBytes p) 2 4 = p.start ∧ field (resumeBytes p) 6 8 = p.ref := by
  obtain ⟨h1, h2, h3⟩ := h
  simp [resumeBytes, field_skip, Nat.mod_eq_of_lt h1, Nat.mod_eq_of_lt h2, Nat.mod_eq_of_lt h3]

/-- The fixed bytes of QUERY_SUBSCRIBER, its presence byte last (R87). -/
def subscriberHead (key first last mask limit present : Nat) : Bytes :=
  be 6 key ++ (be 2 first ++ (be 2 last ++ (be 1 mask ++ (be 1 limit ++ be 1 present))))

@[simp] theorem subscriberHead_length (key first last mask limit present : Nat) :
    (subscriberHead key first last mask limit present).length = 13 := by
  simp [subscriberHead]

theorem subscriberHead_fields {key first last mask limit present : Nat} (h1 : key < 281474976710656) (h2 : first < 65536)
    (h3 : last < 65536) (h4 : mask < 256) (h5 : limit < 256) (h6 : present < 256) (c : Bytes) :
    let b := subscriberHead key first last mask limit present ++ c
    field b 0 6 = key ∧ field b 6 2 = first ∧ field b 8 2 = last ∧ field b 10 1 = mask ∧ field b 11 1 = limit ∧ field b 12 1 = present := by
  simp [subscriberHead, field_skip, Nat.mod_eq_of_lt h1, Nat.mod_eq_of_lt h2, Nat.mod_eq_of_lt h3, Nat.mod_eq_of_lt h4,
    Nat.mod_eq_of_lt h5, Nat.mod_eq_of_lt h6]

theorem exists_subscriberHead {b : Bytes} (h : 13 ≤ b.length) : ∃ key first last mask limit present c, key < 281474976710656 ∧
    first < 65536 ∧ last < 65536 ∧ mask < 256 ∧ limit < 256 ∧ present < 256 ∧ b = subscriberHead key first last mask limit present ++ c := by
  obtain ⟨key, c1, h1, l1, e1⟩ := exists_be (n := 6) (m := b.length - 6) (b := b) (by omega)
  obtain ⟨first, c2, h2, l2, e2⟩ := exists_be (n := 2) (m := c1.length - 2) (b := c1) (by omega)
  obtain ⟨last, c3, h3, l3, e3⟩ := exists_be (n := 2) (m := c2.length - 2) (b := c2) (by omega)
  obtain ⟨mask, c4, h4, l4, e4⟩ := exists_be (n := 1) (m := c3.length - 1) (b := c3) (by omega)
  obtain ⟨limit, c5, h5, l5, e5⟩ := exists_be (n := 1) (m := c4.length - 1) (b := c4) (by omega)
  obtain ⟨present, c6, h6, l6, e6⟩ := exists_be (n := 1) (m := c5.length - 1) (b := c5) (by omega)
  exact ⟨key, first, last, mask, limit, present, c6, h1, h2, h3, h4, h5, h6, by
    rw [e1, e2, e3, e4, e5, e6]; simp only [subscriberHead, List.append_assoc]⟩

/-- The rest of QUERY_SUBSCRIBER's parameters, behind the presence byte. -/
def resumeRest (p : Option Position) : Bytes := match p with | none => [] | some r => resumeBytes r

theorem readSubscriber_head {key first last mask limit : Nat} (h1 : key < 281474976710656) (h2 : first < 65536)
    (h3 : last < 65536) (h4 : mask < 16) (h5 : limit < 256) {resume : Option Position} (hr : ∀ r, resume = some r → r.Fits) :
    readSubscriber (subscriberHead key first last mask limit (if resume.isSome then 1 else 0) ++ resumeRest resume) =
      some (.querySubscriber { key := key, firstDay := first, lastDay := last, classMask := mask, limit := limit + 1, resume := resume }) := by
  obtain ⟨f1, f2, f3, f4, f5, f6⟩ := subscriberHead_fields h1 h2 h3 (by omega : mask < 256) h5
    (by split <;> omega : (if resume.isSome then 1 else 0) < 256) (resumeRest resume)
  unfold readSubscriber
  rw [f1, f2, f3, f4, f5, f6, readFlag_bit, List.length_append, subscriberHead_length, if_neg (by omega)]
  cases resume with
  | none => rfl
  | some r =>
    obtain ⟨g1, g2, g3⟩ := resumeBytes_fields (hr r rfl)
    have hl : (resumeBytes r).length = 14 := by simp [resumeBytes]
    simp [resumeRest, hl, field_append, g1, g2, g3]

theorem readParams_querySubscriber {b : Bytes} {x : Params} : readParams .querySubscriber b = some x ↔
    ∃ p : SubscriberParams, p.key < 281474976710656 ∧ p.firstDay < 65536 ∧ p.lastDay < 65536 ∧
      p.classMask < 16 ∧ 1 ≤ p.limit ∧ p.limit ≤ 256 ∧ (∀ r, p.resume = some r → r.Fits) ∧
      b = subscriberHead p.key p.firstDay p.lastDay p.classMask (p.limit - 1) (if p.resume.isSome then 1 else 0) ++ resumeRest p.resume ∧
      x = .querySubscriber p := by
  simp only [readParams]
  constructor
  · intro h
    have read := h
    unfold readSubscriber at h
    split at h
    · cases h
    rename_i hshort
    obtain ⟨key, first, last, mask, limit, present, c, h1, h2, h3, h4, h5, h6, rfl⟩ := exists_subscriberHead (b := b) (by omega)
    obtain ⟨f1, f2, f3, f4, f5, f6⟩ := subscriberHead_fields h1 h2 h3 h4 h5 h6 c
    rw [f6, List.length_append, subscriberHead_length] at h
    rw [f4] at hshort
    have shape : ∃ resume : Option Position, (∀ r, resume = some r → r.Fits) ∧ present = (if resume.isSome then 1 else 0) ∧
        c = resumeRest resume := by
      split at h
      · cases h
      rename_i f hf
      have hu := readFlag_eq_some.1 hf
      cases f with
      | false =>
        refine ⟨none, by simp, hu, List.length_eq_zero_iff.1 ?_⟩
        by_contra hc
        rw [if_neg (by simpa using hc)] at h
        cases h
      | true =>
        have hl : c.length = 14 := by
          by_contra hc
          rw [if_neg (by simp; omega)] at h
          cases h
        obtain ⟨r, hr, rfl⟩ := exists_resume hl
        exact ⟨some r, by rintro _ ⟨⟩; exact hr, hu, rfl⟩
    obtain ⟨resume, hr, rfl, rfl⟩ := shape
    rw [readSubscriber_head h1 h2 h3 (by omega) h5 hr, Option.some.injEq] at read
    exact ⟨⟨key, first, last, mask, limit + 1, resume⟩, h1, h2, h3, by dsimp only; omega, by simp, by dsimp only; omega, hr, rfl, read.symm⟩
  · rintro ⟨p, h1, h2, h3, h4, h5, h6, h7, rfl, rfl⟩
    rw [readSubscriber_head h1 h2 h3 h4 (by omega) h7, Nat.sub_add_cancel h5]

/-! ### AMEND -/

/-- An optional value within its field. -/
def OptionFits (v : Option Nat) : Prop := ∀ n, v = some n → n < 4294967296

theorem readOptional_append {part : Bytes} (c : Bytes) (n : Nat) : readOptional (part ++ c) part.length n = readOptional c 0 n := by
  have h : field (part ++ c) (part.length + 1) n = field c (0 + 1) n := by rw [field_append (by omega), Nat.add_sub_cancel_left, Nat.zero_add]
  unfold readOptional
  rw [field_append le_rfl, Nat.sub_self, h]

theorem readOptional_optional {v : Option Nat} (h : OptionFits v) (rest : Bytes) :
    readOptional (Wire.optional 4 v ++ rest) 0 4 = some (v, (Wire.optional 4 v).length) := by
  cases v with
  | none => simp [readOptional, Wire.optional, readFlag]
  | some n => simp [readOptional, Wire.optional, readFlag, field_skip, Nat.mod_eq_of_lt (h n rfl)]

theorem exists_optional {c : Bytes} {v : Option Nat} {k : Nat} (h : readOptional c 0 4 = some (v, k)) (hk : k ≤ c.length) :
    OptionFits v ∧ k = (Wire.optional 4 v).length ∧ ∃ d, c = Wire.optional 4 v ++ d := by
  unfold readOptional at h
  split at h
  · cases h
  · rename_i hf
    cases h
    obtain ⟨u, d, hu, -, rfl⟩ := exists_be (n := 1) (m := c.length - 1) (b := c) (by omega)
    rw [field_be, Nat.mod_eq_of_lt hu, readFlag_eq_some] at hf
    exact ⟨by simp [OptionFits], rfl, d, by rw [hf]; rfl⟩
  · rename_i hf
    cases h
    obtain ⟨u, d, hu, hd, rfl⟩ := exists_be (n := 1) (m := c.length - 1) (b := c) (by omega)
    rw [field_be, Nat.mod_eq_of_lt hu, readFlag_eq_some] at hf
    obtain ⟨n, e, hn, -, rfl⟩ := exists_be (n := 4) (m := d.length - 4) (b := d) (by simp at hk; omega)
    norm_num at hn
    have hread : field (be 1 u ++ (be 4 n ++ e)) (0 + 1) 4 = n := by simp [field_skip, Nat.mod_eq_of_lt hn]
    rw [hread]
    exact ⟨by rintro _ ⟨⟩; exact hn, by simp [Wire.optional], e, by rw [hf, Wire.optional, List.append_assoc]; rfl⟩

/-- The bytes of AMEND's parameters (R92). -/
def amendBytes (p : AmendParams) : Bytes :=
  be 8 p.ref ++ be 1 p.expected ++ be 4 p.charge ++ (Wire.optional 4 p.duration ++ Wire.optional 4 p.volume)

theorem readAmend_amendBytes {p : AmendParams} (h1 : p.ref < 18446744073709551616) (h2 : p.expected < 256) (h3 : p.charge < 4294967296)
    (h4 : OptionFits p.duration) (h5 : OptionFits p.volume) : readAmend (amendBytes p) = some (.amend p) := by
  have hhead : (be 8 p.ref ++ be 1 p.expected ++ be 4 p.charge).length = 13 := by simp
  have hlen : (amendBytes p).length = 13 + (Wire.optional 4 p.duration).length + (Wire.optional 4 p.volume).length := by
    simp only [amendBytes, List.length_append, be_length]
    omega
  have hpos (v : Option Nat) : 1 ≤ (Wire.optional 4 v).length := by cases v <;> simp [Wire.optional]
  have hd := readOptional_append (part := be 8 p.ref ++ be 1 p.expected ++ be 4 p.charge)
    (Wire.optional 4 p.duration ++ Wire.optional 4 p.volume) 4
  have hv := readOptional_append (part := be 8 p.ref ++ be 1 p.expected ++ be 4 p.charge ++ Wire.optional 4 p.duration)
    (Wire.optional 4 p.volume) 4
  have hvol := readOptional_optional h5 []
  rw [List.append_nil] at hvol
  rw [hhead, readOptional_optional h4, ← amendBytes] at hd
  rw [List.length_append, hhead, hvol, List.append_assoc, ← amendBytes] at hv
  have hp := hpos p.duration
  have hq := hpos p.volume
  unfold readAmend
  rw [hlen, if_neg (by omega), hd]
  dsimp only
  rw [if_neg (by omega), hv]
  dsimp only
  rw [if_pos rfl]
  simp [amendBytes, field_skip, Nat.mod_eq_of_lt h1, Nat.mod_eq_of_lt h2, Nat.mod_eq_of_lt h3]

/-- Bytes that read as AMEND's parameters are the bytes of some (R92). -/
theorem amendBytes_of_readAmend {b : Bytes} {x : Params} (h : readAmend b = some x) : ∃ p : AmendParams, p.ref < 18446744073709551616 ∧
    p.expected < 256 ∧ p.charge < 4294967296 ∧ OptionFits p.duration ∧ OptionFits p.volume ∧ b = amendBytes p := by
  unfold readAmend at h
  split at h
  · cases h
  split at h
  · cases h
  rename_i duration n hdur
  split at h
  · cases h
  split at h
  · cases h
  rename_i volume m hvol
  split at h
  · rename_i hl
    obtain ⟨ref, c, h1, hc, e1⟩ := exists_be (n := 8) (m := 5 + (n + m)) (b := b) (by omega)
    obtain ⟨expected, d, h2, hd, e2⟩ := exists_be (n := 1) (m := 4 + (n + m)) (b := c) (by omega)
    obtain ⟨charge, rest, h3, hrest, e3⟩ := exists_be (n := 4) (m := n + m) hd
    have hb : b = be 8 ref ++ be 1 expected ++ be 4 charge ++ rest := by rw [e1, e2, e3]; simp only [List.append_assoc]
    have hhead : (be 8 ref ++ be 1 expected ++ be 4 charge).length = 13 := by simp
    rw [hb, ← hhead, readOptional_append] at hdur
    obtain ⟨h4, hn, tail, rfl⟩ := exists_optional hdur (by omega)
    rw [hb, ← hhead, hn, ← List.length_append, ← List.append_assoc, readOptional_append] at hvol
    rw [List.length_append] at hrest
    obtain ⟨h5, hm, last, rfl⟩ := exists_optional hvol (by omega)
    rw [List.length_append] at hrest
    have hlast : last = [] := List.length_eq_zero_iff.1 (by omega)
    exact ⟨⟨ref, expected, charge, duration, volume⟩, h1, h2, h3, h4, h5, by rw [hb, hlast, List.append_nil]; rfl⟩
  · cases h

theorem readParams_amend {b : Bytes} {x : Params} : readParams .amend b = some x ↔
    ∃ p : AmendParams, p.ref < 18446744073709551616 ∧ p.expected < 256 ∧ p.charge < 4294967296 ∧ OptionFits p.duration ∧
      OptionFits p.volume ∧ b = amendBytes p ∧ x = .amend p := by
  simp only [readParams]
  constructor
  · intro h
    obtain ⟨p, h1, h2, h3, h4, h5, rfl⟩ := amendBytes_of_readAmend h
    exact ⟨p, h1, h2, h3, h4, h5, rfl, Option.some.inj ((readAmend_amendBytes h1 h2 h3 h4 h5).symm.trans h).symm⟩
  · rintro ⟨p, h1, h2, h3, h4, h5, rfl, rfl⟩
    exact readAmend_amendBytes h1 h2 h3 h4 h5

/-! ## The statement -/

theorem amendBytes_eq (p : AmendParams) : amendBytes p = be 8 p.ref ++ be 1 p.expected ++ be 4 p.charge ++
    (match p.duration with | none => [0] | some n => [1] ++ be 4 n) ++ (match p.volume with | none => [0] | some n => [1] ++ be 4 n) := by
  unfold amendBytes Wire.optional
  rw [← List.append_assoc]
  cases p.duration <;> cases p.volume <;> rfl

theorem subscriberBytes_eq (p : SubscriberParams) : subscriberHead p.key p.firstDay p.lastDay p.classMask (p.limit - 1)
      (if p.resume.isSome then 1 else 0) ++ resumeRest p.resume =
    be 6 p.key ++ be 2 p.firstDay ++ be 2 p.lastDay ++ be 1 p.classMask ++ be 1 (p.limit - 1) ++
      (match p.resume with | none => [0] | some r => [1] ++ be 2 r.day ++ be 4 r.start ++ be 8 r.ref) := by
  cases p.resume <;> simp [subscriberHead, resumeRest, resumeBytes, be]

/-- Settles O16. -/
theorem recordAndParameterForms : Obligations.RecordAndParameterForms := by
  refine ⟨fun x held rest h1 h2 h3 h4 h5 h6 h7 h8 h9 h10 => ?record, fun b n => wholeSize_eq_some, fun b x => ?params⟩
  case record =>
    have hx : FitsLink x := ⟨h1, h2, h3, h4, h5, h6, h7, h8, h9, h10⟩
    have hfield {off n : Nat} (h : off + n ≤ 34) : field (renderRecord x held) off n = field (recordHead x held) off n := by
      simpa using field_renderRecord x held [] h
    obtain ⟨f0, f2, f3, f4, f6, f12, f18, f22, f26, f30⟩ := recordHead_fields hx held
    obtain ⟨b7, bc, -, b2, b3, b4, b5, b6, -⟩ := formatByte_bits x held
    obtain ⟨-, hp⟩ := linkLength_cases x.cell.isSome x.partner.isSome
    have hcell := field_renderRecord_cell x held []
    have hpartner := field_renderRecord_partner x held []
    rw [List.append_nil] at hcell hpartner
    dsimp only
    rw [(hfield (off := 2) (n := 1) (by omega)).trans f2]
    refine ⟨(renderRecord_length x held).trans hp, (hfield (by omega)).trans f0, bc, b2, b3, b4, b5, b6, b7, (hfield (by omega)).trans f3,
      (hfield (by omega)).trans f4, (hfield (by omega)).trans f6, (hfield (by omega)).trans f12, (hfield (by omega)).trans f18,
      (hfield (by omega)).trans f22, (hfield (by omega)).trans f26, (hfield (by omega)).trans f30, fun v hv => hcell v hv (hx.cell v hv),
      fun v hv => hpartner v hv (hx.partner v hv), renderRecord_padding x held, wholeSize_renderRecord hx held rest,
      readDelivered_renderRecord hx held rest, fun hs => ?_⟩
    rw [mustBeZero_renderRecord hx, decide_eq_false (by omega), Bool.false_and]
  case params =>
    refine ⟨readParams_field rfl, readParams_field rfl, readParams_setRetention, readParams_placeHold, readParams_field rfl,
      readParams_none, readParams_setConfig, readParams_none, readParams_readStatus, readParams_field rfl, readParams_none,
      readParams_fields (n := 2) (m := 4) rfl rfl rfl, readParams_none, ⟨fun h => (Option.some.inj h).symm, fun h => h ▸ rfl⟩,
      readParams_fields (n := 2) (m := 4) rfl rfl rfl, ⟨fun h => (Option.some.inj h).symm, fun h => h ▸ rfl⟩, readParams_fileClose,
      readParams_none, readParams_field rfl, ?subscriber, ?amend, readParams_fields (n := 2) (m := 2) rfl rfl rfl, readParams_auditScan,
      readParams_fields (n := 2) (m := 2) rfl rfl rfl, readParams_field rfl⟩
    case subscriber =>
      simp only [readParams_querySubscriber, subscriberBytes_eq] <;> rfl
    case amend =>
      simp only [readParams_amend, amendBytes_eq] <;> rfl

end Sys2Proof.Machine
end

section
/-! Resets: what the beginning of a warm reset does to every block, the sending of the head frame (O19), and a loss of node power (O23). -/

namespace Sys2Proof.Machine

variable {s : State}

/-! ## A loss of node power -/

/-- Settles O23: what `losePower` writes, field by field. -/
theorem powerLossKeepsTheArchive : Obligations.PowerLossKeepsTheArchive := by
  refine ⟨fun s hp => ⟨losePower s, ?_, ?_⟩, fun s hp => ?_⟩
  · simp only [exec, execLossOfNodePower, hp, if_true]
  · simp [losePower, transientAtPowerOn, clearWork, LinkPort.atPowerOn]
  · simp only [exec, execLossOfNodePower, hp, Bool.false_eq_true, if_false]

/-! ## The abandoned job -/

/-- Removing keys one after another. -/
theorem get_foldl_del {α : Type} (ks : List Nat) (t : Tab α) (k : Nat) :
    Tab.get (ks.foldl Tab.del t) k = if k ∈ ks then none else Tab.get t k := by
  induction ks generalizing t with
  | nil => simp
  | cons a ks ih =>
    rw [List.foldl_cons, ih]
    by_cases hk : k = a
    · simp [hk]
    · simp [hk, Tab.get_del_ne _ hk]

/-- Releasing slots one after another changes the pool alone. -/
theorem foldl_releaseSlot (ns : List Nat) (s : State) :
    ns.foldl (fun s n => releaseSlot n s) s = s.mapHs fun h => { slots := ns.foldl Tab.del h.slots } := by
  induction ns generalizing s with
  | nil => rfl
  | cons n ns ih => rw [List.foldl_cons, ih]; rfl

/-- The snapshot slots of the members whose map entries have moved (R119). -/
def Job.movedFrom (j : Job) (s : State) : List Nat := (j.members.filter fun m => !s.memberStays m).filterMap (·.slot)

theorem memberStays_eq (m : Member) (s : State) : s.memberStays m = m.stays s := by
  unfold State.memberStays Member.stays
  cases s.lookup m.ref with
  | none => simp
  | some e => simp

theorem mem_movedFrom {j : Job} {n : Nat} : n ∈ j.movedFrom s ↔ ∃ m ∈ j.members, m.stays s = false ∧ m.loc = .hot n := by
  have hslot (m : Member) : m.slot = some n ↔ m.loc = .hot n := by
    unfold Member.slot
    split <;> simp_all
  simp [Job.movedFrom, memberStays_eq, hslot, and_assoc]

theorem movedFrom_length (j : Job) (s : State) : (j.movedFrom s).length = movedSlots j.members s := by
  unfold Job.movedFrom movedSlots
  rw [List.length_filterMap_eq_countP, List.countP_filter]
  simp [memberStays_eq, Bool.and_comm]

theorem unwindJob_eq (j : Job) (s : State) : unwindJob j s =
    { s with
      cs := { dir := j.segs.foldl Tab.del s.cs.dir, bodies := j.segs.foldl Tab.del s.cs.bodies }
      hs := { slots := (j.movedFrom s).foldl Tab.del s.hs.slots }
      pc := { parts := Tab.upd s.pc.parts j.day fun p =>
        { p with hotCount := p.hotCount - movedSlots j.members s, state := if j.repack then .packed else .quiet } }
      ce := { s.ce with job := none } } := by
  rw [← movedFrom_length]
  unfold unwindJob
  dsimp only
  rw [foldl_releaseSlot]
  rfl

/-- The abandonment of a job changes the partitions, the pool, the cold store and the job context alone (R124). -/
theorem abandonJob_eq (s : State) : ∃ pc hs cs ce, abandonJob s = { s with pc := pc, hs := hs, cs := cs, ce := ce } := by
  unfold abandonJob
  split
  · rename_i j _
    rw [unwindJob_eq]
    exact ⟨_, _, _, _, rfl⟩
  · exact ⟨s.pc, s.hs, s.cs, s.ce, rfl⟩

/-! ## The beginning of a warm reset -/

/-- All that the beginning of a warm reset does beside the abandonment of the job (R180). -/
theorem beginWarmReset_eq (s : State) : beginWarmReset s =
    { s with
      power := { s.power with warmReset := true }
      lp := s.lp.restart
      ie := { contexts := s.ie.contexts.map fun c => { c with file := none }, queue := [], drain := none }
      qa := { contexts := [], inFlight := [] }
      ce := { job := none, coldFull := false, coldWait := [] }
      ru := { s.ru with queue := [], sweep := none }
      au := { s.au with slots := [], cursorDay := 0, cursorPlace := 0, patrolElapsed := 0, patrol := none, previous := zeroBank,
                        captureDay := none, current := bankAdd zeroBank .filesAborted s.openContexts }
      wa := freshArbiter s.wa.pressure
      cl := { s.cl with saving := none }
      pc := { parts := Tab.mapAll (abandonJob s).pc.parts fun _ p => p.cleaned }
      hs := (abandonJob s).hs
      cs := (abandonJob s).cs } := by
  obtain ⟨pc, hs, cs, ce, h⟩ := abandonJob_eq s
  unfold beginWarmReset
  rw [h]
  simp only [countUp, clearIngest, clearWork, mapParts, State.mapAu, State.mapPower, State.mapCl, State.mapLp, State.mapWa, State.mapIe,
    State.mapPc, State.mapQa, State.mapRu, State.mapCe]

/-- A warm reset begins as the rules of every block say (R180). -/
theorem beginWarmReset_begun (s : State) : WarmResetBegun s (beginWarmReset s) := by
  have part (d : Nat) : (beginWarmReset s).part d = ((abandonJob s).part d).map restedPartition := by
    rw [State.part, beginWarmReset_eq]
    exact Tab.get_mapAll _ (fun _ p => Partition.cleaned p) d
  have hs : (beginWarmReset s).hs = (abandonJob s).hs := by rw [beginWarmReset_eq]
  have cs : (beginWarmReset s).cs = (abandonJob s).cs := by rw [beginWarmReset_eq]
  refine
    { power := by rw [beginWarmReset_eq]
      link := by rw [beginWarmReset_eq]; rfl
      ingest := by rw [beginWarmReset_eq]
      queries := by rw [beginWarmReset_eq]; exact ⟨rfl, rfl⟩
      job := by rw [beginWarmReset_eq]; exact ⟨rfl, rfl, rfl⟩
      sweeps := by rw [beginWarmReset_eq]; exact ⟨rfl, rfl, rfl, rfl⟩
      audit := by rw [beginWarmReset_eq]; exact ⟨rfl, rfl, rfl, rfl, rfl, rfl, rfl, rfl, rfl, rfl⟩
      arbiter := by rw [beginWarmReset_eq]; exact ⟨rfl, fun k => by cases k <;> rfl, rfl, rfl, rfl, rfl, rfl, rfl⟩
      kept := by rw [beginWarmReset_eq]; exact ⟨rfl, rfl, rfl⟩
      withoutJob := fun hj => ?_
      withJob := fun j hj => ?_ }
  · have h : abandonJob s = s := by simp only [abandonJob, hj]
    exact ⟨by rw [hs, h], by rw [cs, h], fun d => by rw [part, h]⟩
  · have h : abandonJob s = unwindJob j s := by simp only [abandonJob, hj]
    rw [unwindJob_eq] at h
    refine ⟨fun k => ?_, fun n => ?_, fun d hd => ?_, ?_⟩
    · rw [hs, h, get_foldl_del]
      simp only [mem_movedFrom]
    · unfold State.seg
      rw [cs, h, get_foldl_del]
      simp only [Job.segs, List.mem_append, Option.mem_toList]
    · rw [part, h, State.part, Tab.get_upd, if_neg hd]
      rfl
    · rw [part, h, State.part, Tab.get_upd, if_pos rfl, Option.map_map]
      rfl

/-! ## The sending of the head frame -/

/-- Settles O19: `sendHead` for an ordinary frame, and `beginWarmReset_begun` behind the OK response of a RESET request. -/
theorem frameSendSendsTheHead : Obligations.FrameSendSendsTheHead := by
  refine ⟨fun s hq => by simp only [exec, execFrameSend, hq], fun f rest s hq => ⟨fun hf => ?_, fun hf => ⟨_, ?_, beginWarmReset_begun _⟩⟩⟩
  · have h : exec .frameSend s = .next (settle (sendHead f rest s)) := by simp only [exec, execFrameSend, hq, hf, Bool.false_eq_true, if_false]
    exact .of_exec h fun hs => hs.mapLp rfl
  · simp only [exec, execFrameSend, hq, hf, if_true]
    rfl

end Sys2Proof.Machine
end

section
/-! The Ingest Engine's drain of a RECORDS entry: a record refused, the end of a drain (O39), and a record stored (O40). -/

namespace Sys2Proof.Machine
open Wire

variable {e : BatchEntry} {dr : Drain} {f : OpenFile} {size : Nat} {s : State}

/-! ## The drain in progress and its open file -/

/-- The state with an open file and a drain in progress written in. -/
def inDrain (e : BatchEntry) (f : OpenFile) (dr : Drain) (s : State) : State :=
  s.mapIe fun q => { q with contexts := q.contexts.set e.ctx { generation := e.gen, file := some f }, drain := some dr }

/-- What an open file's context holds (R58, R60). -/
theorem contexts_of_openFile {ctx gen : Nat} (h : s.openFile ctx gen = some f) :
    s.ie.contexts[ctx]? = some { generation := gen, file := some f } := by
  unfold State.openFile at h
  split at h
  · rename_i c hc
    split at h
    · rename_i hg
      rw [hc, ← hg, ← h]
    · cases h
  · cases h

theorem inDrain_self (hd : s.ie.drain = some dr) (ho : s.openFile e.ctx e.gen = some f) : inDrain e f dr s = s := by
  have hc := contexts_of_openFile ho
  obtain ⟨hlt, hget⟩ := List.getElem?_eq_some_iff.1 hc
  have hie : { s.ie with contexts := s.ie.contexts.set e.ctx { generation := e.gen, file := some f }, drain := some dr } = s.ie := by
    rw [← hd, ← hget, List.set_getElem_self]
  exact congrArg (fun q => { s with ie := q }) hie

section
variable (e f dr s)

@[simp] theorem updFile_inDrain (g : OpenFile → OpenFile) : updFile e.ctx g (inDrain e f dr s) = inDrain e (g f) dr s := by
  have h (l : List FileContext) (i : Nat) (a : FileContext) (g : FileContext → FileContext) : (l.set i a).modify i g = l.set i (g a) := by
    apply List.ext_getElem?
    intro j
    by_cases hj : i = j
    · subst hj
      simp [List.getElem?_set]
    · simp [hj]
  simp only [updFile, updContext, inDrain, State.mapIe, h]
  rfl

@[simp] theorem updDrain_inDrain (g : Drain → Drain) : updDrain g (inDrain e f dr s) = inDrain e f (g dr) s := rfl

@[simp] theorem countUp_inDrain (c : Counter) (n : Nat) : countUp c n (inDrain e f dr s) = inDrain e f dr (countUp c n s) := rfl

@[simp] theorem nextRecord_inDrain (size : Nat) : nextRecord size (inDrain e f dr s) =
    inDrain e f { dr with offset := dr.offset + size, position := dr.position + 1, dup := none } s := rfl

@[simp] theorem tallyReceived_inDrain (charge : Nat) : tallyReceived e charge (inDrain e f dr s) =
    inDrain e { f with received := count64 (f.received + 1), chargeSum := sum64 (f.chargeSum + charge) }
      { dr with received := dr.received + 1 } (countUp .recordsReceived 1 s) := by
  simp [tallyReceived]

@[simp] theorem tallyRefused_inDrain (code : RefusalCode) : tallyRefused e code (inDrain e f dr s) =
    inDrain e { f with refused := count64 (f.refused + 1) }
      { dr with refused := dr.refused + 1,
                entries := if dr.entries.length < 64 then dr.entries ++ [(dr.position, code.value)] else dr.entries }
      (countUp code.counter 1 s) := by
  simp only [tallyRefused, updFile_inDrain, updDrain_inDrain, countUp_inDrain]
  rfl

end

/-! ## The record checks -/

theorem decideNext_atHand (h : RecordAtHand e dr f size s) :
    decideNext s = decideRecord e f size (readDelivered (e.payload.drop dr.offset)) s := by
  obtain ⟨hd, hdup, hq, ho, hw⟩ := h
  obtain ⟨rest, hq⟩ := List.head?_eq_some_iff.1 hq
  simp only [decideNext, hd, hq, hdup, ho, hw]

/-- The record checks in order: the code of the first that fails, else the comparison with a live record, else the store (4.4). -/
theorem decideRecord_eq (d : Delivered) : decideRecord e f size d s =
    match firstRefusal s f d, s.lookup (refOf d.source d.sequence) with
    | some code, _ => refuseRecord e d.charge size code s
    | none, some m => findDuplicate e size d.clampedRecord m s
    | none, none => storeRecord e size d.clampedRecord s := by
  have hkey : d.clampedRecord.ref = refOf d.source d.sequence := rfl
  have hday : d.clampedRecord.day = dayOf d.start := rfl
  have hrest : d.clampedRecord.key = d.key ∧ d.clampedRecord.cls = d.cls ∧ d.clampedRecord.source = d.source ∧
      d.clampedRecord.charge = d.charge := ⟨rfl, rfl, rfl, rfl⟩
  obtain ⟨hk, hc, hs, hch⟩ := hrest
  unfold decideRecord firstRefusal decideFromDay State.missing
  simp only [Config.maxSource, Config.maxCharge, Config.partitionEntries, Config.accountEntries, Config.mapEntries, hkey, hday, hk, hc, hs, hch]
  cases hm : s.lookup (refOf d.source d.sequence) with
  | some m => simp only [Option.isSome_some]; split_ifs <;> rfl
  | none => simp only [Option.isSome_none, Bool.false_eq_true, if_false]; split_ifs <;> simp [*]

/-! ## A record refused, and the end of the drain (O39) -/

/-- What refusing a record of this charge leaves, the drain then at this offset and position (R71, R73). -/
def refusedState (e : BatchEntry) (f : OpenFile) (dr : Drain) (code : RefusalCode) (charge offset position : Nat) (s : State) : State :=
  inDrain e { f with received := count64 (f.received + 1), refused := count64 (f.refused + 1), chargeSum := sum64 (f.chargeSum + charge) }
    { dr with
      offset := offset, position := position, received := dr.received + 1, refused := dr.refused + 1,
      entries := if dr.entries.length < 64 then dr.entries ++ [(dr.position, code.value)] else dr.entries }
    (countUp code.counter 1 (countUp .recordsReceived 1 s))

theorem refuseRecord_inDrain (code : RefusalCode) (charge : Nat) (hdup : dr.dup = none) :
    refuseRecord e charge size code (inDrain e f dr s) = refusedState e f dr code charge (dr.offset + size) (dr.position + 1) s := by
  simp only [refuseRecord, tallyReceived_inDrain, tallyRefused_inDrain, nextRecord_inDrain, refusedState, ← hdup]

theorem truncateBatch_inDrain :
    truncateBatch e (inDrain e f dr s) = refusedState e f dr .batchTruncated 0 e.payload.length dr.position s := by
  simp only [truncateBatch, tallyReceived_inDrain, tallyRefused_inDrain, updDrain_inDrain, refusedState]

/-- While a byte of the batch remains, a drain that only moved on leaves a settled state settled. -/
theorem Settled.drainMoved (h : Settled s) (hq : s.ie.queue.head? = some e) (ho : dr.offset < e.payload.length) :
    Settled (s.mapIe fun q => { q with drain := some dr }) := by
  obtain ⟨rest, hq⟩ := List.head?_eq_some_iff.1 hq
  rw [settled_iff, serveWaiters_none, takeWaiting_none, takeWaiting_none, startSweep_none, pressureTurn_none, drainEnds_none, beginDrain_none,
    grantEngine_none] at *
  obtain ⟨hserve, hqueries, hloads, hsweep, hpressure, -, -, hgrant⟩ := h
  refine ⟨hserve, hqueries, hloads, hsweep, hpressure, fun d b l hd hb _ => ?_, Or.inl (by simp [State.mapIe]), hgrant⟩
  obtain rfl : dr = d := Option.some.inj hd
  obtain ⟨rfl, -⟩ := List.cons.inj (hq.symm.trans hb)
  exact ho

theorem Settled.refusedState (h : Settled s) {code : RefusalCode} {charge offset position : Nat} (hq : s.ie.queue.head? = some e)
    (ho : offset < e.payload.length) : Settled (refusedState e f dr code charge offset position s) :=
  (h.drainMoved hq ho).congr rfl rfl rfl rfl rfl rfl rfl rfl rfl rfl rfl rfl

theorem exec_recordEvent {t : State} (h : decideNext s = t) : exec .recordEvent s = .next (settle t) := by
  rw [← h]
  rfl

/-- Settles O39: the drain's next record refused, the truncated remainder, and the drain that ends at the end of its payload. -/
theorem recordEventRefuses : Obligations.RecordEventRefuses := by
  intro e dr f s
  refine ⟨?_, ?_, ?_⟩
  · intro size code hand hcode u
    have hu : decideNext s = u := by
      rw [decideNext_atHand hand, decideRecord_eq, hcode]
      calc refuseRecord e _ size code s
        _ = refuseRecord e _ size code (inDrain e f dr s) := by rw [inDrain_self hand.drain hand.opened]
        _ = u := refuseRecord_inDrain code _ hand.deciding
    have hexec := exec_recordEvent hu
    refine ⟨hexec, fun ho hs => ?_⟩
    have hu : Settled u := hs.refusedState hand.head ho
    rw [hexec, settle_of_settled hu]
  · intro hd hdup hq ho hw
    obtain ⟨rest, hq⟩ := List.head?_eq_some_iff.1 hq
    have hu : decideNext s = truncateBatch e (inDrain e f dr s) := by
      rw [inDrain_self hd ho]
      simp only [decideNext, hd, hq, hdup, ho, hw]
    rw [truncateBatch_inDrain] at hu
    exact exec_recordEvent hu
  · intro rest hd hdup hq payload
    have hends : drainEnds s = if e.payload.length ≤ dr.offset then some (endDrain e Status.ok payload s) else none := by
      simp only [drainEnds, hd, hq, hdup, Option.isNone_none, true_and]
      rfl
    refine ⟨fun hs => ?_, fun ho => ?_, fun ho => ?_⟩
    · obtain ⟨-, -, -, -, -, hnone, -⟩ := settled_iff.1 hs
      exact drainEnds_none.1 hnone dr e rest hd hq hdup
    · rw [hends, if_neg (Nat.not_le.2 ho)]
    · rw [hends, if_pos ho]
      obtain ⟨l, hl⟩ := frameCreditEarned_eq (creditsPending { Credits.zero with block := blockNeed e.kind.code e.payload }
        (respond e.tag e.epoch Status.ok payload s))
      have htail : s.ie.queue.tail = rest := by rw [hq]; rfl
      rw [endDrain, hl, ← htail]
      rfl

end Sys2Proof.Machine
end

section
/-! What the store of a record leaves: the free slot, the day's partition, the queues of days, the account (O40). -/

namespace Sys2Proof.Tab

variable {α : Type}

/-- A key at or below which no entry stands has none. -/
theorem get_none_of_lt {t : Tab α} {k : Nat} (h : ∀ x ∈ t, k < x.1) : get t k = none := by
  cases hg : get t k with
  | none => rfl
  | some v => exact absurd (h _ (mem_of_get hg)) (Nat.lt_irrefl k)

theorem le_lowestFree (t : Tab α) (k : Nat) : k ≤ lowestFree t k := by
  induction t generalizing k with
  | nil => exact Nat.le_refl k
  | cons e t ih =>
    obtain ⟨j, w⟩ := e
    simp only [lowestFree]
    split_ifs
    · exact ih k
    · exact Nat.le_of_succ_le (ih (k + 1))
    · exact Nat.le_refl k

/-- The lowest free key of a table in canonical form is free. -/
theorem get_lowestFree {t : Tab α} (h : rising t = true) (k : Nat) : get t (lowestFree t k) = none := by
  induction t generalizing k with
  | nil => rfl
  | cons e t ih =>
    obtain ⟨j, w⟩ := e
    obtain ⟨hhead, htail⟩ := rising_cons.1 h
    simp only [lowestFree]
    split_ifs with hlt heq
    · have hge := le_lowestFree t k
      rw [get_cons, if_neg (by simp only; omega)]
      exact ih htail k
    · have hge := le_lowestFree t (k + 1)
      rw [get_cons, if_neg (by simp only; omega)]
      exact ih htail (k + 1)
    · refine get_none_of_lt fun x hx => ?_
      rcases List.mem_cons.1 hx with rfl | hx
      · show k < j
        omega
      · have := hhead x hx
        simp only at this
        omega

end Sys2Proof.Tab

namespace Sys2Proof.Machine
open Wire

variable {e : BatchEntry} {dr : Drain} {f : OpenFile} {size : Nat} {s : State}

/-! ## The queues of days -/

theorem isPrefix_joinDays (days q : List Nat) : q <+: joinDays days q := by
  induction days generalizing q with
  | nil => exact List.prefix_rfl
  | cons d l ih =>
    have hstep : joinDays (d :: l) q = joinDays l (if d ∈ q then q else q ++ [d]) := rfl
    rw [hstep]
    refine List.IsPrefix.trans ?_ (ih _)
    split_ifs
    · exact List.prefix_rfl
    · exact List.prefix_append q [d]

/-! ## A store as an activity -/

section
variable {day : Nat} {p : Partition} (hp : s.part day = some p)
include hp

theorem updPart_part_some (g : Partition → Partition) (d : Nat) :
    (updPart day g s).part d = if d = day then some (g p) else s.part d := by
  rw [updPart_part]
  split_ifs with hd
  · rw [hd, hp, Option.map_some]
  · rfl

theorem part_eq_some (d : Nat) : s.part d = if d = day then some p else s.part d := by
  split_ifs with hd
  · rw [hd, hp]
  · rfl

/-- A store's activity on a day that has a partition, read in the terms of the statements (R46, R48). -/
theorem activity_store :
    let returns := decide (p.state = .quiet) && !s.wa.pressure
    (∀ d, (activity .ingest day s).part d =
      if d = day then some (partAfterActivity (s.cl.settings.activityMask.testBit 0) true s.wa.pressure p) else s.part d) ∧
    (activity .ingest day s).wa = { s.wa with packQueue := if returns then s.wa.packQueue.filter (· != day) else s.wa.packQueue } ∧
    (activity .ingest day s).ce = { s.ce with coldWait := if returns then s.ce.coldWait.filter (· != day) else s.ce.coldWait } := by
  intro returns
  cases hst : p.state with
  | opened =>
    have hr : returns = false := by simp [returns, hst]
    cases hm : s.cl.settings.activityMask.testBit 0 with
    | true =>
      have ha : activity .ingest day s = updPart day (fun p => { p with quietElapsed := 0, quietExpired := false }) s := by
        simp only [activity, hp, hst, Activity.bit, hm, if_true]
      rw [ha, hr]
      exact ⟨fun d => by rw [updPart_part_some hp]; simp [partAfterActivity, hst], rfl, rfl⟩
    | false =>
      have ha : activity .ingest day s = s := by simp only [activity, hp, hst, Activity.bit, hm, Bool.false_eq_true, if_false]
      rw [ha, hr]
      exact ⟨fun d => by simpa [partAfterActivity, hst] using part_eq_some hp d, rfl, rfl⟩
  | quiet =>
    by_cases hpr : s.wa.pressure = true
    · have hr : returns = false := by simp [returns, hpr]
      have ha : activity .ingest day s = s := by simp [activity, hp, hst, hpr]
      rw [ha, hr]
      exact ⟨fun d => by simpa [partAfterActivity, hst, hpr] using part_eq_some hp d, rfl, rfl⟩
    · have hr : returns = true := by simp [returns, hst, hpr]
      have ha : activity .ingest day s =
          leavePack day (updPart day (fun p => { p with state := .opened, quietElapsed := 0, quietExpired := false }) s) := by
        simp [activity, hp, hst, hpr]
      rw [ha, hr]
      refine ⟨fun d => ?_, rfl, rfl⟩
      show (updPart day _ s).part d = _
      rw [updPart_part_some hp]
      simp [partAfterActivity, hst, hpr]
  | packing | packed | repacking =>
    have hr : returns = false := by simp [returns, hst]
    have ha : activity .ingest day s = s := by simp only [activity, hp, hst]
    rw [ha, hr]
    exact ⟨fun d => by simpa [partAfterActivity, hst] using part_eq_some hp d, rfl, rfl⟩

/-- The repack test of a store (R121). -/
theorem repackTest_wa : (repackTest s.hotTest day s).wa = { s.wa with
    repackQueue := if p.state = .packed ∧ s.cl.settings.repackThreshold ≤ p.hotCount ∧ day ∉ s.wa.repackQueue then s.wa.repackQueue ++ [day]
      else s.wa.repackQueue } := by
  simp only [repackTest, hp, State.hotTest, joinRepack, decide_eq_true_eq]
  split_ifs <;> simp_all [State.mapWa]

end

theorem partAfterActivity_withStore (counted store pressure : Bool) (c : CallClass) (p : Partition) :
    partAfterActivity counted store pressure (p.withStore c) = (partAfterActivity counted store pressure p).withStore c := by
  have hstate : (p.withStore c).state = p.state := rfl
  unfold partAfterActivity
  rw [hstate]
  split_ifs <;> rfl

theorem Partition.moved_eq (pressure : Bool) (p : Partition) :
    p.moved pressure = { p with state := if p.onward pressure then .quiet else p.state } := by
  unfold moved
  split_ifs <;> rfl

/-- The move onward is what no time, no day close and the pressure make of a partition. -/
theorem Partition.moved_eq_partAfterTime (pressure : Bool) (p : Partition) : p.moved pressure = partAfterTime 0 0 false pressure p := by
  simp [moved_eq, onward, partAfterTime, and_assoc]

theorem moveOnward_wa (s : State) : (moveOnward s).wa = { s.wa with
    packQueue := joinDays (Tab.keysWhere s.pc.parts fun _ p => p.onward s.wa.pressure) s.wa.packQueue } := by
  rw [moveOnward_eq]
  rfl

theorem mem_keysWhere_of_part {day : Nat} {p : Partition} {test : Nat → Partition → Bool} (hp : s.part day = some p)
    (ht : test day p = true) : day ∈ Tab.keysWhere s.pc.parts test :=
  List.mem_map.2 ⟨(day, p), List.mem_filter.2 ⟨Tab.mem_of_get hp, ht⟩, rfl⟩

/-- What follows a stored record, read at each day and in each queue (R46, R48, R72, R121). -/
theorem afterStore_reads {day : Nat} {p : Partition} (hp : s.part day = some p) :
    let a := partAfterActivity (s.cl.settings.activityMask.testBit 0) true s.wa.pressure p
    let returns := decide (p.state = .quiet) && !s.wa.pressure
    (∀ d, (afterStore day s).part d =
      if d = day then some (a.moved s.wa.pressure) else (s.part d).map (·.moved s.wa.pressure)) ∧
    (afterStore day s).ce = { s.ce with coldWait := if returns then s.ce.coldWait.filter (· != day) else s.ce.coldWait } ∧
    ∃ packs, (afterStore day s).wa = { s.wa with
        packQueue := packs
        repackQueue := if a.state = .packed ∧ s.cl.settings.repackThreshold ≤ a.hotCount ∧ day ∉ s.wa.repackQueue then s.wa.repackQueue ++ [day]
          else s.wa.repackQueue } ∧
      (if returns then s.wa.packQueue.filter (· != day) else s.wa.packQueue) <+: packs ∧
      (a.onward s.wa.pressure = true → day ∈ packs) := by
  intro a returns
  obtain ⟨hpart, hwa, hce⟩ := activity_store hp
  have hcl : (activity .ingest day s).cl = s.cl := by
    obtain ⟨_, _, _, h, -⟩ := activity_eq .ingest day s
    rw [h]
  have ha : (activity .ingest day s).part day = some a := by rw [hpart, if_pos rfl]
  have hpressure : (activity .ingest day s).wa.pressure = s.wa.pressure := by rw [hwa]
  unfold afterStore
  generalize hx : activity .ingest day s = x at *
  have hrepack := repackTest_wa ha
  obtain ⟨repacks, hy⟩ := repackTest_eq x.hotTest day x
  generalize repackTest x.hotTest day x = y at *
  have hyp : y.pc = x.pc := by rw [hy]; rfl
  have hypart : ∀ d, y.part d = x.part d := fun d => by rw [State.part, hyp]; rfl
  have hypressure : y.wa.pressure = s.wa.pressure := by rw [hrepack, ← hpressure]
  refine ⟨fun d => ?_, ?_, ?_⟩
  · rw [moveOnward_part, hypart, hpart, hypressure]
    split_ifs <;> rfl
  · rw [moveOnward_eq, hy]
    exact hce
  · rw [moveOnward_wa, hrepack, hwa, hcl]
    exact ⟨_, rfl, isPrefix_joinDays _ _, fun ho =>
      mem_joinDays.2 (.inr (mem_keysWhere_of_part ((hypart day).trans ha) ho))⟩

/-! ## The commit -/

theorem get_partsWith (closed : Bool) (day : Nat) (parts : Tab Partition) (d : Nat) : Tab.get (partsWith closed day parts) d =
    if d = day then some ((Tab.get parts day).getD (newPartition closed)) else Tab.get parts d := by
  unfold partsWith
  split_ifs with hd
  · subst hd
    cases hg : Tab.get parts d with
    | some p => simpa using hg
    | none => simp
  · cases hg : Tab.get parts day with
    | some p => rfl
    | none => exact Tab.get_put_ne _ _ hd

theorem get_accountsWith (source day : Nat) (accounts : Tab Account) (k : Nat) : Tab.get (accountsWith source day accounts) k =
    if k = accountKey source day then some ((Tab.get accounts k).getD Account.zero) else Tab.get accounts k := by
  unfold accountsWith
  split_ifs with hk
  · subst hk
    cases hg : Tab.get accounts (accountKey source day) with
    | some a => simpa using hg
    | none => simp
  · cases hg : Tab.get accounts (accountKey source day) with
    | some a => rfl
    | none => exact Tab.get_put_ne _ _ hk

/-- The partition of a day at a commit: the day's own, or a new one (R42). -/
def State.partAtCommit (s : State) (day : Nat) : Partition := (s.part day).getD (newPartition (s.lateAt day))

theorem partAtCommit_dayClosed (s : State) (day : Nat) : (s.partAtCommit day).dayClosed = s.lateAt day := by
  unfold State.partAtCommit State.lateAt
  cases s.part day <;> rfl

theorem placed_part (r : CallRecord) (n : Nat) (s : State) (d : Nat) :
    (placeRecord r n (createAccount r.source r.day (allocatePart r.day s))).part d =
      if d = r.day then some ((s.partAtCommit r.day).withStore r.cls) else s.part d := by
  have hparts : (placeRecord r n (createAccount r.source r.day (allocatePart r.day s))).pc.parts =
      Tab.upd (partsWith (decide (r.day + s.cl.settings.graceDays < s.currentDay)) r.day s.pc.parts) r.day (Partition.withStore r.cls) := by
    unfold placeRecord
    rw [countStored_eq, createAccount_eq, allocatePart_eq]
    rfl
  rw [part_def, hparts, Tab.get_upd, get_partsWith]
  split_ifs with hd
  · rw [Option.map_some, State.partAtCommit, State.lateAt, part_def]
    cases Tab.get s.pc.parts r.day <;> rfl
  · rfl

theorem placed_frame (r : CallRecord) (n : Nat) {source day : Nat} (s : State) :
    let x := placeRecord r n (createAccount source day (allocatePart day s))
    x.wa = s.wa ∧ x.ce = s.ce ∧ x.cl = s.cl := by
  intro x
  obtain ⟨parts, hx⟩ := placeRecord_eq r n (createAccount source day (allocatePart day s))
  simp only [x]
  rw [hx, createAccount_eq, allocatePart_eq]
  exact ⟨rfl, rfl, rfl⟩

/-- A commit, read at each day and in each queue (R42, R46, R48, R70, R72, R121). -/
theorem commitRecord_reads (r : CallRecord) (s : State) :
    let p := s.partAtCommit r.day
    let a := (partAfterActivity (s.cl.settings.activityMask.testBit 0) true s.wa.pressure p).withStore r.cls
    let returns := decide (p.state = .quiet) && !s.wa.pressure
    (∀ d, (commitRecord r s).part d =
      if d = r.day then some (a.moved s.wa.pressure) else (s.part d).map (·.moved s.wa.pressure)) ∧
    (commitRecord r s).ce = { s.ce with coldWait := if returns then s.ce.coldWait.filter (· != r.day) else s.ce.coldWait } ∧
    ∃ packs, (commitRecord r s).wa = { s.wa with
        packQueue := packs
        repackQueue := if a.state = .packed ∧ s.cl.settings.repackThreshold ≤ a.hotCount ∧ r.day ∉ s.wa.repackQueue
          then s.wa.repackQueue ++ [r.day] else s.wa.repackQueue } ∧
      (if returns then s.wa.packQueue.filter (· != r.day) else s.wa.packQueue) <+: packs ∧
      (a.onward s.wa.pressure = true → r.day ∈ packs) := by
  intro p a returns
  obtain ⟨x, hx, hpart, hwa, hce, hcl⟩ : ∃ x, commitRecord r s = afterStore r.day x ∧
      (∀ d, x.part d = if d = r.day then some (p.withStore r.cls) else s.part d) ∧ x.wa = s.wa ∧ x.ce = s.ce ∧ x.cl = s.cl :=
    ⟨_, commitRecord_place r s, placed_part { r with late := s.lateAt r.day } s.nextSlot s, placed_frame _ _ s⟩
  have hself : x.part r.day = some (p.withStore r.cls) := by rw [hpart, if_pos rfl]
  obtain ⟨hparts, hwait, packs, hqueues, hprefix, honward⟩ := afterStore_reads hself
  rw [partAfterActivity_withStore, hcl, hwa] at hparts hqueues honward
  rw [hwa] at hprefix hwait
  rw [hce] at hwait
  rw [hx]
  refine ⟨fun d => ?_, hwait, packs, hqueues, hprefix, honward⟩
  rw [hparts]
  split_ifs with hd
  · rfl
  · rw [hpart, if_neg hd]

/-! ## A record stored (O40) -/

/-- The state a commit starts from: the file and the drain have counted the record (R71, R73). -/
def storingState (e : BatchEntry) (f : OpenFile) (dr : Drain) (late : Bool) (r : CallRecord) (s : State) : State :=
  inDrain e { f with received := count64 (f.received + 1), stored := count64 (f.stored + 1), chargeSum := sum64 (f.chargeSum + r.charge) }
    { dr with
      received := dr.received + 1, stored := dr.stored + 1, late := if late then dr.late + 1 else dr.late,
      clamped := if r.clamped then dr.clamped + 1 else dr.clamped } (countUp .recordsReceived 1 s)

theorem storeRecord_inDrain (r : CallRecord) : storeRecord e size r (inDrain e f dr s) =
    nextRecord size (commitRecord r (storingState e f dr (s.lateAt r.day) r s)) := by
  simp only [storeRecord, tallyReceived_inDrain, updFile_inDrain, updDrain_inDrain]
  rfl

theorem clampDuration_eq_min (d : Nat) : clampDuration d = min d 604800 := by
  unfold clampDuration Config.maxDuration
  split_ifs <;> omega

/-- What a delivered record becomes, its clamped values written out (R65, R70). -/
theorem clampedRecord_eq (d : Delivered) : d.clampedRecord =
    { source := d.source, sequence := d.sequence, key := d.key, cls := d.cls, start := d.start, duration := min d.duration 604800,
      volume := if d.cls = .data then d.volume else 0, charge := d.charge, cell := d.cell, partner := d.partner, amendCount := 0,
      late := false, clamped := decide (604800 < d.duration) || decide ((if d.cls = .data then d.volume else 0) ≠ d.volume) } := by
  have hlong : decide (min d.duration 604800 ≠ d.duration) = decide (604800 < d.duration) := decide_eq_decide.2 (by omega)
  rw [← hlong, ← clampDuration_eq_min]
  rfl

/-- The move onward of a partition with a store counted, written out (R43, R47, R70). -/
theorem moved_withStore (pressure : Bool) (c : CallClass) (a : Partition) : (a.withStore c).moved pressure =
    { a with
      live := a.live.set c (a.live.get c + 1), hotCount := a.hotCount + 1, heldRemainder := a.heldRemainder.set c false,
      state := if decide (a.state = .opened) && a.dayClosed && (a.quietExpired || pressure) then .quiet else a.state } :=
  Partition.moved_eq pressure (a.withStore c)

theorem partAfterActivity_dayClosed (counted store pressure : Bool) (p : Partition) :
    (partAfterActivity counted store pressure p).dayClosed = p.dayClosed := by
  unfold partAfterActivity
  split_ifs <;> rfl

/-- Settles O40: the commit of a record that no check refuses. -/
theorem recordEventStores : Obligations.RecordEventStores := by
  intro e dr f size s hand hrising d day hnone hlookup late volume clamped x account fresh p a returns closes
  let y := storingState e f dr late d.clampedRecord s
  have hu : decideNext s = nextRecord size (commitRecord d.clampedRecord y) := by
    rw [decideNext_atHand hand, decideRecord_eq, hnone, hlookup]
    conv_lhs => rw [← inDrain_self hand.drain hand.opened]
    exact storeRecord_inDrain d.clampedRecord
  have hx : ({ d.clampedRecord with late := y.lateAt day } : CallRecord) = x := by
    rw [clampedRecord_eq]
    rfl
  have hp : y.partAtCommit day = p := rfl
  have hcloses : a.dayClosed = late := (partAfterActivity_dayClosed _ _ _ p).trans (hp ▸ partAtCommit_dayClosed y day)
  obtain ⟨_, _, _, _, hc⟩ := commitRecord_eq d.clampedRecord y
  obtain ⟨hparts, hwait, packs, hqueues, hprefix, honward⟩ := commitRecord_reads d.clampedRecord y
  have hday : d.clampedRecord.day = day := rfl
  rw [hday, hx] at hc
  generalize commitRecord d.clampedRecord y = c at *
  have hie : c.ie = y.ie := by rw [hc]
  have hmoved : (a.withStore d.cls).moved s.wa.pressure = { a with
      live := a.live.set d.cls (a.live.get d.cls + 1), hotCount := a.hotCount + 1, heldRemainder := a.heldRemainder.set d.cls false,
      state := if closes then .quiet else a.state } := by
    rw [moved_withStore, hcloses]
  have hself : c.part day = some ((a.withStore d.cls).moved s.wa.pressure) := (hparts day).trans (if_pos rfl)
  have hpacks : c.wa.packQueue = packs := congrArg (·.packQueue) hqueues
  have haccounts (k : Nat) : Tab.get c.au.accounts k =
      if k = accountKey d.source day then some (account.store d.charge) else Tab.get s.au.accounts k := by
    have hupd : Tab.get c.au.accounts k = if k = accountKey d.source day
        then (Tab.get (accountsWith d.source day s.au.accounts) k).map (Account.store d.charge)
        else Tab.get (accountsWith d.source day s.au.accounts) k := by
      rw [hc]
      exact Tab.get_upd _ _ _ _
    rw [hupd, get_accountsWith]
    split_ifs with hk
    · rw [hk]
      rfl
    · rfl
  have honward' : closes = true → day ∈ packs := fun hcl => honward <| by
    show (decide (a.state = .opened) && a.dayClosed && (a.quietExpired || s.wa.pressure)) = true
    rw [hcloses]
    exact hcl
  refine ⟨_, s.nextSlot, exec_recordEvent hu, Tab.get_lowestFree hrising 0, congrArg (·.hs.slots) hc, congrArg (·.ix.map) hc,
    hself.trans (congrArg some hmoved), fun i hi => ?_, hpacks.symm ▸ hprefix, fun hcl => hpacks.symm ▸ honward' hcl, hwait, ?_,
    fun k hk => (haccounts k).trans (if_neg hk), (haccounts _).trans (if_pos rfl), congrArg (·.au.current) hc, ?_, congrArg (·.ie.queue) hc, ?_,
    congrArg (·.lp) hc, congrArg (·.ru) hc, congrArg (·.ck) hc, congrArg (·.cs) hc, congrArg (·.qa) hc, congrArg (·.cl) hc, congrArg (·.power) hc⟩
  · rw [← funext (Partition.moved_eq_partAfterTime s.wa.pressure)]
    exact (hparts i).trans (if_neg hi)
  · have hwa : (nextRecord size c).wa = c.wa := rfl
    rw [hwa, hpacks]
    exact hqueues
  · exact congrArg (·.contexts) hie
  · have hd : (nextRecord size c).ie.drain = y.ie.drain.map fun d =>
        { d with offset := d.offset + size, position := d.position + 1, dup := none } := by
      rw [← hie]
      rfl
    have hclamped : d.clampedRecord.clamped = clamped := by rw [clampedRecord_eq]
    have hcounted : y.ie.drain = some { dr with
        received := dr.received + 1, stored := dr.stored + 1, late := if late then dr.late + 1 else dr.late,
        clamped := if clamped then dr.clamped + 1 else dr.clamped } := by
      rw [← hclamped]
      rfl
    rw [hd, hcounted, ← hand.deciding]
    rfl

end Sys2Proof.Machine
end

section
/-! AMEND at the request: its answers in the order of R93, the amendment in place and the start of a moving one (O45). -/

namespace Sys2Proof.Machine
open Wire

variable {r : Request} {p : AmendParams} {pool : Pool} {s : State}

/-! ## The request reaches the Query Unit -/

/-- With a query context FREE and nothing waiting, the Query Unit takes an accepted AMEND at its acceptance (R31, R84). -/
theorem exec_amend (h : Requested .amend r (.amend p) pool s) (hfree : s.qa.contexts.length < 64) (hw : s.waits .queryUnit = false)
    {u : State} (hu : takeAmend r.tag.toNat s.lp.epoch p (takenState .amend r pool s) = u) :
    exec (.amend r) s = .next (settle u) := by
  have hready : s.ready .queryUnit = true := decide_eq_true hfree
  have hserved : servedOrWaiting .amend r s = u := by
    rw [← hu, servedOrWaiting_ready hready hw, served_requested h]
    rfl
  exact congrArg (fun t => Host.Outcome.next (settle t)) hserved

/-! ## What an AMEND is checked for (R93) -/

theorem amend_inRange_iff : ¬ (refInRange p.ref = false ∨ Config.maxCharge < p.charge) ↔
    1 ≤ p.ref / 281474976710656 ∧ p.ref / 281474976710656 ≤ 4095 ∧ p.ref % 281474976710656 < 1099511627776 ∧ p.charge ≤ 2147483647 := by
  have hrange : refInRange p.ref = false ↔ ¬ (1 ≤ refSource p.ref ∧ refSource p.ref ≤ 4095 ∧ refSequence p.ref < 1099511627776) := by
    rw [← Bool.not_eq_true, refInRange]
    simp only [Bool.and_eq_true, decide_eq_true_eq, and_assoc]
    exact Iff.rfl
  rw [hrange, not_or, not_not, Nat.not_lt, and_assoc, and_assoc]
  rfl

theorem amending_iff (ref : Nat) : s.amending ref = true ↔ ∃ e ∈ s.qa.inFlight, e.2.params.ref = ref := by
  simp [State.amending]

/-! ## The amended version (R92) -/

theorem clampDuration_ne_iff (d : Nat) : clampDuration d ≠ d ↔ 604800 < d := by
  unfold clampDuration Config.maxDuration
  split_ifs <;> omega

/-- The amended version of a record, its clamped replacements written out. -/
theorem amendedVersion_eq (p : AmendParams) (x : CallRecord) :
    let volume := p.volume.map fun v => if x.cls = .data then v else 0
    amendedVersion p x = { x with
      charge := p.charge, duration := (p.duration.map fun d => min d 604800).getD x.duration, volume := volume.getD x.volume,
      amendCount := x.amendCount + 1,
      clamped := x.clamped || (p.duration.any (fun d => decide (604800 < d)) || decide (volume ≠ p.volume)) } := by
  intro volume
  have haltered : amendAlters p x.cls = (p.duration.any (fun d => decide (604800 < d)) || decide (volume ≠ p.volume)) := by
    unfold amendAlters
    congr 1
    · cases p.duration with
      | none => rfl
      | some d => exact decide_eq_decide.2 (clampDuration_ne_iff d)
    · cases hv : p.volume with
      | none => simp [volume, hv]
      | some v => simp [volume, hv, clampVolume]
  have hduration : (amendedVersion p x).duration = (p.duration.map fun d => min d 604800).getD x.duration := by
    unfold amendedVersion
    cases p.duration with
    | none => rfl
    | some d => exact clampDuration_eq_min d
  have hvolume : (amendedVersion p x).volume = volume.getD x.volume := by
    unfold amendedVersion
    cases hv : p.volume with
    | none => simp [volume, hv]
    | some v => simp [volume, hv, clampVolume]
  rw [← hduration, ← hvolume, ← haltered]
  rfl

/-! ## The start of a moving amendment (R95) -/

/-- A moving amendment holds the lowest query context, its Amend-in-Flight entry, and a place in its day's wait queue. -/
theorem startMoving_reads {tag epoch : Nat} {m : MapEntry} {t : Partition} (hp : s.part m.day = some t) :
    let u := startMoving tag epoch p m s
    u.queryCtx s.freeCtx = some { tag := tag, epoch := epoch, stage := .pinWait, cancelling := false, day := m.day, seg := 0, ord := 0,
                                  work := .amend p } ∧
    Tab.get u.qa.inFlight s.freeCtx = some { params := p, day := m.day, loc := m.loc, copy := none, phase := .pinWait } ∧
    ∃ q, u.part m.day = some q ∧ q.waitQueue = t.waitQueue ++ [.query s.freeCtx] ∧ q.pins = t.pins := by
  refine ⟨Tab.get_put_self _ _ _, Tab.get_put_self _ _ _, t.withQueue (t.waitQueue ++ [.query s.freeCtx]), ?_, rfl, rfl⟩
  rw [startMoving, joinQueue_part, if_pos rfl]
  exact congrArg (Option.map _) hp

/-! ## The amendment in place (R94) -/

/-- An amendment in place: the slot, the map entry, the account and the counter, and an amendment activity on the record's day. -/
theorem amendInPlace_eq (n : Nat) (x : CallRecord) (h : Tab.rising s.pc.parts = true) :
    let active := afterActivity (s.cl.settings.activityMask.testBit 1) false x.day s
    amendInPlace p n x s = { active with
      hs := { s.hs with slots := Tab.put s.hs.slots n (amendedVersion p x) }
      ix := { s.ix with map := Tab.put s.ix.map p.ref ((amendedVersion p x).entry (.hot n)) }
      au := { s.au with
        current := bankAdd s.au.current .amendsApplied 1
        accounts := Tab.upd s.au.accounts (accountKey x.source x.day) fun a =>
          { a with amends := count64 (a.amends + 1), amendDelta := sum64 (a.amendDelta + ((p.charge : Int) - x.charge)) } } } := by
  intro active
  exact activity_after .amend x.day _ h

/-! ## What the Query Unit does with an AMEND, check by check (R93) -/

section
variable {tag epoch : Nat} {m : MapEntry}
  (hin : ¬ (refInRange p.ref = false ∨ Config.maxCharge < p.charge))
  (hidle : ¬ (s.amending p.ref = true ∨ Config.amendEntries ≤ s.qa.inFlight.length))
  (hm : s.lookup p.ref = some m) (hc : m.amendCount = p.expected) (hl : m.amendCount ≠ 255)

theorem takeAmend_outOfRange (h : refInRange p.ref = false ∨ Config.maxCharge < p.charge) :
    takeAmend tag epoch p s = respond tag epoch Status.valueRange [] s := by
  rw [takeAmend, if_pos h]

include hin

theorem takeAmend_busy (h : s.amending p.ref = true ∨ Config.amendEntries ≤ s.qa.inFlight.length) :
    takeAmend tag epoch p s = respond tag epoch Status.amendBusy [] s := by
  rw [takeAmend, if_neg hin, if_pos h]

include hidle

theorem takeAmend_absent (hm : s.lookup p.ref = none) : takeAmend tag epoch p s = respond tag epoch Status.notFound [] s := by
  rw [takeAmend, if_neg hin, if_neg hidle]
  simp only [hm]

include hm

theorem takeAmend_conflict (hc : m.amendCount ≠ p.expected) :
    takeAmend tag epoch p s = respond tag epoch Status.amendConflict (be 1 m.amendCount) (conflictCounted s) := by
  rw [takeAmend, if_neg hin, if_neg hidle]
  simp only [hm]
  rw [if_pos hc]

include hc

theorem takeAmend_limit (hl : m.amendCount = 255) : takeAmend tag epoch p s = respond tag epoch Status.amendLimit [] s := by
  rw [takeAmend, if_neg hin, if_neg hidle]
  simp only [hm]
  rw [if_neg (not_not.2 hc), if_pos hl]

include hl

theorem takeAmend_segment {n o : Nat} (ho : m.loc = .segment n o) : takeAmend tag epoch p s =
    if s.segActive n then startMoving tag epoch p m s else respond tag epoch Status.unreadable [] s := by
  rw [takeAmend, if_neg hin, if_neg hidle]
  simp only [hm, ho]
  rw [if_neg (not_not.2 hc), if_neg hl]

theorem takeAmend_hot {n : Nat} {x : CallRecord} {t : Partition} (ho : m.loc = .hot n) (hx : Tab.get s.hs.slots n = some x)
    (ht : s.part m.day = some t) : takeAmend tag epoch p s =
      if t.state.inPlace then respond tag epoch Status.ok (amendPayload false (amendedVersion p x)) (amendInPlace p n x s)
      else startMoving tag epoch p m s := by
  rw [takeAmend, if_neg hin, if_neg hidle]
  simp only [hm, ho, hx, ht]
  rw [if_neg (not_not.2 hc), if_neg hl]

end

theorem inPlace_iff (st : PartState) : st.inPlace = true ↔ st ≠ .packing ∧ st ≠ .repacking := by
  cases st <;> simp [PartState.inPlace]

/-- A moving amendment is started where the record lies in an ACTIVE segment, or hot on a day that packs or repacks. -/
theorem takeAmend_moving {tag epoch : Nat} {m : MapEntry} {t : Partition}
    (hin : ¬ (refInRange p.ref = false ∨ Config.maxCharge < p.charge))
    (hidle : ¬ (s.amending p.ref = true ∨ Config.amendEntries ≤ s.qa.inFlight.length))
    (hm : s.lookup p.ref = some m) (hc : m.amendCount = p.expected) (hl : m.amendCount ≠ 255) (ht : s.part m.day = some t)
    (hplace : (∃ n o, m.loc = .segment n o ∧ s.segActive n = true) ∨
      ∃ n x, m.loc = .hot n ∧ Tab.get s.hs.slots n = some x ∧ (t.state = .packing ∨ t.state = .repacking)) :
    takeAmend tag epoch p s = startMoving tag epoch p m s := by
  rcases hplace with ⟨n, o, ho, ha⟩ | ⟨n, x, ho, hx, hst⟩
  · rw [takeAmend_segment hin hidle hm hc hl ho, if_pos ha]
  · rw [takeAmend_hot hin hidle hm hc hl ho hx ht, if_neg]
    rw [inPlace_iff]
    tauto

/-! ## The answers (O45) -/

/-- Settles O45: the answers of AMEND, the amendment in place and the start of a moving one. -/
theorem amendServed : Obligations.AmendServed := by
  intro r p pool s hreq hfree hw hs inRange busy
  have hexec {u : State} := exec_amend hreq hfree hw (u := u)
  have hrange : ¬ (refInRange p.ref = false ∨ Config.maxCharge < p.charge) ↔ inRange := amend_inRange_iff
  have hbusy : (s.amending p.ref = true ∨ Config.amendEntries ≤ s.qa.inFlight.length) ↔ busy := or_congr (amending_iff p.ref) Iff.rfl
  have answers {status : Nat} {payload : Bytes} {t : State} (ht : Settled t) (he : t.lp.epoch = s.lp.epoch)
      (h : takeAmend r.tag.toNat s.lp.epoch p (takenState .amend r pool s) =
        respond r.tag.toNat s.lp.epoch status payload (takenState .amend r pool t)) :
      exec (.amend r) s = .next (replied .amend r pool status payload t) := by
    rw [hexec h, ← he, respond_replied, settle_of_settled (settled_replied ht)]
  refine ⟨fun h => answers hs rfl (takeAmend_outOfRange (not_not.1 (mt hrange.1 h))),
    fun h hb => answers hs rfl (takeAmend_busy (s := takenState .amend r pool s) (hrange.2 h) (hbusy.2 hb)), fun h hb => ?_⟩
  have hin := hrange.2 h
  have hidle := mt hbusy.1 hb
  refine ⟨fun hm => answers hs rfl (takeAmend_absent hin hidle hm), fun m hm => ⟨fun hc => answers ?_ rfl (takeAmend_conflict hin hidle hm hc),
    fun hc hl => answers hs rfl (takeAmend_limit hin hidle hm hc hl), fun hc hl => ⟨fun n o ho ha => answers hs rfl ?_,
    fun n x t ho hx ht hpacking hrepacking hkeyed => ?_, fun t ht hrising hplace => ?_⟩⟩⟩
  · exact hs.congr rfl rfl rfl rfl rfl rfl rfl rfl rfl rfl rfl rfl
  · exact (takeAmend_segment (s := takenState .amend r pool s) hin hidle hm hc hl ho).trans (if_neg (ne_true_of_eq_false ha))
  · obtain ⟨-, hparts, -⟩ := hkeyed
    intro active volume altered y
    have hserved := (takeAmend_hot (tag := r.tag.toNat) (epoch := s.lp.epoch) (s := takenState .amend r pool s) hin hidle hm hc hl ho hx ht).trans
      (if_pos ((inPlace_iff t.state).2 ⟨hpacking, hrepacking⟩))
    have hy : amendedVersion p x = y := amendedVersion_eq p x
    rw [amendInPlace_eq (s := takenState .amend r pool s) n x hparts, hy, respond_taken _ _ _ (by exact takenState_epoch)] at hserved
    have hmoved : amendPayload false y = be 1 (x.amendCount + 1) ++ [0] ++ flag (x.clamped || altered) := rfl
    rw [hmoved] at hserved
    exact ⟨_, hexec hserved, rfl, rfl, rfl, rfl, rfl, rfl, rfl, rfl, rfl, rfl, rfl, rfl, rfl, rfl, rfl⟩
  · have hserved := takeAmend_moving (tag := r.tag.toNat) (epoch := s.lp.epoch) (s := takenState .amend r pool s) hin hidle hm hc hl ht hplace
    obtain ⟨hctx, hflight, hwaits⟩ := startMoving_reads (tag := r.tag.toNat) (epoch := s.lp.epoch) (p := p) (s := takenState .amend r pool s) ht
    exact ⟨_, s.freeCtx, hexec hserved, Tab.get_lowestFree hrising 0, hctx, hflight, hwaits, rfl, rfl, rfl, rfl, rfl, rfl, rfl, rfl,
      rfl, rfl, rfl⟩

end Sys2Proof.Machine
end

section
/-! FETCH behind a reader or a mover (O42): a state of two partitions under one day, in which the request does not wait. -/

namespace Sys2Proof.Machine
open Wire

/-- The reference of source 1, sequence 0. -/
def firstRef : Nat := 281474976710656

/-- FETCH of that reference under tag 5. -/
def firstFetch : Request := { tag := 5, ctx := 0, gen := 0, rsv := 0, payload := be 8 firstRef }

/-- The map entry of that reference, on day 0. -/
def firstEntry : MapEntry :=
  { key := 0, day := 0, cls := .voice, late := false, clamped := false, amendCount := 0, charge := 0, loc := .hot 0 }

/-- Day 0 stands twice in the Partition Table: first under a mover, then free. No table is so in a state that a run reaches
(`TablesKeyed`), but the clause of `FetchServed` on a FETCH that waits asks it of the query contexts alone. -/
def dayTwice : State :=
  ((State.reset.mapLp fun l => { l with link := .opened }).mapPc fun _ =>
    { parts := [(0, { newPartition false with moverHolding := true }), (0, newPartition false)] }).mapIx fun x =>
    { x with map := [(firstRef, firstEntry)] }

theorem dayTwice_requested : Requested .fetch firstFetch (.fetch firstRef) .query dayTwice where
  opened := rfl
  wellFormed := by decide +kernel
  credit := by decide +kernel
  tagFree := rfl
  params := by decide +kernel

theorem dayTwice_settled : Settled dayTwice := by
  show internal Turn.placing dayTwice = none
  decide +kernel

/-- The second partition of the day grants the pin at once, so the FETCH leaves no query context behind. -/
theorem dayTwice_fetch : (match exec (.fetch firstFetch) dayTwice with | .next t => t.qa.contexts.isEmpty | _ => false) = true := by
  decide +kernel

/-- Refutes O42: where the Partition Table holds a day twice, its first entry under a mover, a FETCH does not wait behind that mover. -/
theorem not_fetchServed : ¬ Obligations.FetchServed := by
  intro h
  obtain ⟨hserved, -⟩ := h
  obtain ⟨-, htaken⟩ := hserved firstFetch firstRef .query dayTwice dayTwice_requested (by decide) (by decide) dayTwice_settled
  obtain ⟨-, hlive⟩ := htaken (by decide)
  obtain ⟨-, -, hwaits⟩ := hlive firstEntry rfl
  obtain ⟨u, c, -, hblocked, -, -, -, -, hctx, -⟩ := hwaits _ (.inr ⟨0, rfl⟩) rfl rfl
  have hnext : exec (.fetch firstFetch) dayTwice = .next u := hblocked (.inr (.inl rfl))
  have hempty : u.qa.contexts.isEmpty = true := by
    have := dayTwice_fetch
    rwa [hnext] at this
  have hnone : u.queryCtx c = none := by
    rw [State.queryCtx, List.isEmpty_iff.1 hempty]
    rfl
  rw [hnone] at hctx
  cases hctx

end Sys2Proof.Machine
end

section
/-! What a command does by itself, before the blocks go on: `exec_effect` says it once for the 49 commands, so that a proof about every step
needs a case for each kind of effect alone. With it the clock and the holds through an event (O4, O9). -/

namespace Sys2Proof.Machine

variable {s t : State}

/-! ## The own effect of a command -/

/-- A command that brings a request of a kind: its own row, or a row that may carry any frame (R12, R13). -/
inductive Brings : Instr → Kind → Request → Prop where
  | row (k : Kind) (r : Request) : Brings (requestRow k r) k r
  | frame (bytes : Bytes) (k : Kind) (r : Request) : Brings (.frameCheck bytes) k r
  | code (b : Byte) (r : Request) (k : Kind) : Brings (.unknownKind b r) k r

/-- What a command makes of a state before what follows from it within the event. -/
inductive Effect (s : State) : Instr → State → Prop where
  | nothing (c : Instr) : Effect s c s
  | link (c : Instr) (f : LinkPort → LinkPort) : Effect s c (s.mapLp f)
  | serves {c : Instr} {k : Kind} {r : Request} {p : Params} (hc : Brings c k r) (hp : checkedParams k r = some p) (tag epoch : Nat)
      (f : LinkPort → LinkPort) : Effect s c (serveParams p tag epoch (s.mapLp f))
  | queues (c : Instr) (e : BatchEntry) (f : LinkPort → LinkPort) : Effect s c (restartIdle e (enqueueBatch e (s.mapLp f)))
  | pins (c : Instr) (reset lock : Bool) : Effect s c (s.mapPower fun p => { p with resetPin := reset, laneLock := lock })
  | linkReset (c : Instr) {x : State} (lock : Bool) (hx : x = s.mapPower fun p => { p with laneLock := lock }) : Effect s c (linkReset x)
  | warmReset (c : Instr) {x : State} (reset : Bool) (f : LinkPort → LinkPort)
      (hx : x = (s.mapPower fun p => { p with resetPin := reset }).mapLp f) : Effect s c (beginWarmReset x)
  | warmResetEnd (h : s.warmResetDone = true) : Effect s .warmResetEnd (endWarmReset s)
  | startUpWaits (fault : Bool) (node : NodeStart) (u : StartUp) (h : s.power.powered = false) : Effect s (.powerOn fault node)
      ((dramFound node.dramLost s).mapPower fun p => { p with powered := true, startUp := some u, warmReset := false })
  | startUpRuns {c : Instr} {x : State} (hc : startsUp c = true) (u : StartUp) (lost : Bool) (f : PowerState → PowerState)
      (hx : x = (dramFound lost s).mapPower f) : Effect s c (runStartUp u x)
  | powerLost : Effect s .lossOfNodePower (losePower s)
  | eeprom (fault : Bool) : Effect s (.eepromWriteCompletion fault) (eepromCompleted fault s)
  | record : Effect s .recordEvent (decideNext s)
  | second (h : s.running = true) : Effect s .secondEvent (secondEvent s)
  | quiet (day : Nat) (h : s.running = true) :
      Effect s (.quietTimerExpiry day) (moveOnward (updPart day (Partition.expireQuiet s.cl.settings.quietCode) s))
  | idle (ctx : Nat) : Effect s (.fileIdleExpiry ctx) (countUp .filesTimedOut 1 (freeContext ctx s))
  | patrol : Effect s .patrolTimerExpiry (comparePatrolTimer s)
  | tick : Effect s .millisecondTick (tickPhase (s.mapCk fun k => { k with tick := k.tick + 1 }))
  | tickOnly : Effect s .millisecondTick (s.mapCk fun k => { k with tick := k.tick + 1 })
  | phase : Effect s .throttlePhaseEnd (comparePhase s)
  | sort : Effect s .sortEnd (sortCompleted s)
  | write (fault : Bool) : Effect s (.writeCompletion fault) (writeEnded fault s)
  | decode (read : ReadResult) : Effect s (.decodeCompletion read) (decodeCompleted read s)
  | check (read : ReadResult) : Effect s (.readCompletion read) (checkCompleted read s)
  | sweep : Effect s .sweepDecision (sweepEvent s)

namespace Effect

theorem of_arrive {c : Instr} {code : Nat} {cls : ReqClass} {r : Request} {g : Pool → State → State}
    (hg : ∀ pool f, Effect s c (g pool (s.mapLp f))) : Effect s c (arrive code cls r g s) := by
  unfold Machine.arrive
  split
  · exact .nothing c
  split
  · split
    · exact .link c _
    · dsimp only
      split
      · exact .link c fun l => LinkPort.pend _ (LinkPort.push _ { l with inUse := l.inUse.add _ })
      · exact hg _ fun l => { l with inUse := l.inUse.add _, tags := _ }
  · exact .link c _

theorem of_served {c : Instr} {k : Kind} {r : Request} (hc : Brings c k r) : Effect s c (served k r s) := by
  refine of_arrive fun pool f => ?_
  split
  · exact .link c fun l => LinkPort.answer _ _ _ _ (LinkPort.pend _ (f l))
  · rename_i p hp
    exact .serves hc hp _ _ fun l => LinkPort.pend _ (f l)

theorem of_arrival {c : Instr} {k : Kind} {r : Request} (hc : Brings c k r) : Effect s c (arrival k r s) := by
  unfold arrival
  split
  · exact of_arrive fun pool f => .queues c _ f
  split
  · exact of_served hc
  unfold servedOrWaiting
  split
  · exact of_served hc
  · refine of_arrive fun pool f => ?_
    split
    · exact .link c fun l => LinkPort.answer _ _ _ _ (LinkPort.pend _ (f l))
    · exact .link c fun l => { f l with buffer := _ }

end Effect

/-- A command takes a state to its own effect, or to what follows from it within the event. -/
def Runs (s : State) (c : Instr) (t : State) : Prop := ∃ x, Effect s c x ∧ (t = x ∨ ∃ u, t = settleFrom u x)

namespace Runs

variable {c : Instr}

theorem of_next {x : State} (h : (.next x : Result) = .next t) (hx : Effect s c x) : Runs s c t := by
  cases h
  exact ⟨_, hx, .inl rfl⟩

theorem of_settle {x : State} {u : Turn} (h : (.next (settleFrom u x) : Result) = .next t) (hx : Effect s c x) : Runs s c t := by
  cases h
  exact ⟨x, hx, .inr ⟨u, rfl⟩⟩

/-- An event that falls only under a condition, and else leaves the state. -/
theorem of_ite {b : Prop} [Decidable b] {x : State} {u : Turn} (h : (if b then .next (settleFrom u x) else .next s : Result) = .next t)
    (hx : b → Effect s c x) : Runs s c t := by
  split at h
  · exact of_settle h (hx ‹_›)
  · exact of_next h (.nothing c)

theorem of_row {k : Kind} {r : Request} (hc : Brings c k r) (h : exec (requestRow k r) s = .next t) : Runs s c t := by
  by_cases hk : k = .linkReset
  · subst hk
    cases hl : s.lp.link with
    | resetting => exact of_settle ((exec_linkReset_resetting r hl).symm.trans h) (.nothing c)
    | opened =>
      refine of_settle ((exec_linkReset_opened r hl).symm.trans h) ?_
      split
      · exact .linkReset c s.power.laneLock rfl
      · exact .link c _
  · exact of_settle ((exec_requestRow r s hk).symm.trans h) (.of_arrival hc)

theorem of_deliver {code : Nat} {r : Request} (hc : ∀ k, Brings c k r) (h : deliver code r s = .next t) : Runs s c t := by
  cases hk : kindOfCode code with
  | some k => exact of_row (hc k) (deliver_known hk ▸ h)
  | none =>
    refine of_settle ((deliver_unknown hk).symm.trans h) (.of_arrive fun pool f => ?_)
    exact .link c fun l => LinkPort.answer _ _ _ _ (LinkPort.pend _ (f l))

end Runs

/-- What a command answers is its own effect, settled or as it stands. -/
theorem exec_effect {c : Instr} (h : exec c s = .next t) : Runs s c t := by
  cases hr : Laws.Kinds.requestOf c with
  | some kr =>
    rw [eq_requestRow hr] at h ⊢
    exact .of_row (.row _ _) h
  | none =>
    cases c with
    | powerOn fault node =>
      simp only [exec, execPowerOn] at h
      split at h
      · exact .of_next h (.nothing _)
      · rename_i hp
        split at h
        · exact .of_next h (.startUpWaits _ _ _ (by simpa using hp))
        · exact .of_settle h (.startUpRuns rfl _ _ _ rfl)
    | resetPinAssert =>
      simp only [exec, execResetPinAssert] at h
      split at h
      · exact .of_next h (.warmReset _ true id rfl)
      · exact .of_next h (.pins _ true s.power.laneLock)
    | resetPinRelease =>
      simp only [exec, execResetPinRelease] at h
      split at h
      · split at h
        · exact .of_settle h (.startUpRuns rfl _ false _ (by rw [dramFound_false]))
        · exact .of_next h (.pins _ false s.power.laneLock)
      · exact .of_settle h (.pins _ false s.power.laneLock)
    | warmResetEnd => exact .of_ite h .warmResetEnd
    | laneLockLoss =>
      simp only [exec, execLaneLockLoss] at h
      split at h
      · exact .of_settle h (.pins _ s.power.resetPin false)
      · exact .of_settle h (.linkReset _ false rfl)
    | laneLockReturn => exact .of_settle h (.pins _ s.power.resetPin true)
    | hello => exact .of_ite h fun _ => .link _ _
    | frameSend =>
      simp only [exec, execFrameSend] at h
      split at h
      · exact .of_next h (.nothing _)
      · split at h
        · exact .of_next h (.warmReset _ s.power.resetPin _ rfl)
        · exact .of_settle h (.link _ _)
    | frameCheck frame =>
      simp only [exec, execFrameCheck] at h
      split at h
      · exact .of_settle h (.nothing _)
      · split at h
        · exact .of_settle h (.link _ _)
        · exact .of_deliver (fun k => .frame _ k _) h
    | unknownKind code r => exact .of_deliver (fun k => .code _ _ k) h
    | eepromWriteCompletion fault => exact .of_settle h (.eeprom fault)
    | recordEvent => exact .of_settle h .record
    | secondEvent => exact .of_ite h fun hb => .second hb.1
    | quietTimerExpiry day => exact .of_ite h (.quiet day)
    | fileIdleExpiry ctx =>
      simp only [exec, execFileIdleExpiry] at h
      split at h
      · exact .of_ite h fun _ => .idle ctx
      · exact .of_next h (.nothing _)
    | patrolTimerExpiry => exact .of_ite h fun _ => .patrol
    | millisecondTick =>
      simp only [exec, execMillisecondTick] at h
      split at h
      · exact .of_settle h .tick
      · split at h
        · exact .of_next h .tickOnly
        · exact .of_next h (.nothing _)
    | throttlePhaseEnd => exact .of_ite h fun _ => .phase
    | sortEnd => exact .of_settle h .sort
    | writeCompletion fault => exact .of_settle h (.write fault)
    | decodeCompletion read => exact .of_settle h (.decode read)
    | readCompletion read => exact .of_settle h (.check read)
    | sweepDecision => exact .of_settle h .sweep
    | lossOfNodePower =>
      simp only [exec, execLossOfNodePower] at h
      split at h
      · exact .of_next h .powerLost
      · exact .of_next h (.nothing _)
    | _ => cases hr

/-- Every step idles, or runs the front command on the queue's rest. -/
theorem step_runs (h : step s = .next t) : t = s ∨ ∃ c rest, Runs { s with pending := rest } c t := by
  unfold step at h
  split at h
  · cases h
    exact .inl rfl
  · exact .inr ⟨_, _, exec_effect h⟩

end Sys2Proof.Machine
end

section
/-! The clock and the holds through an event: every step keeps the clock invariant (O4), and holds, archive time and the clock-set flag are
guarded (O9). -/

namespace Sys2Proof.Machine

variable {s t u : State}

/-! ## The operations that leave the clock and the holds -/

theorem ck_of_kept (h : t.kept = s.kept) : t.ck = s.ck := congrArg Kept.ck h

theorem holds_of_kept (h : t.kept = s.kept) : t.ru.holds = s.ru.holds := congrArg Kept.holds h

theorem markDamaged_guarded (n : Nat) (s : State) : (markDamaged n s).ck = s.ck ∧ (markDamaged n s).ru = s.ru := by
  unfold markDamaged
  split <;> exact ⟨rfl, rfl⟩

theorem signalLinkReset_kept (s : State) : (signalLinkReset s).kept = s.kept := by
  unfold signalLinkReset
  rw [foldl_kept _ (fun s e => ?_)]
  · exact foldl_kept _ (fun s (e : Nat × ScanSlot) => cancelSlot_kept e.1 e.2 s) _ _
  split
  · exact cancelSubscriber_kept e.1 e.2 s
  · rfl

/-- The operations of a reset of the link or of the part leave the clock and the holds (R35, R129, R180). -/
theorem linkReset_guarded (s : State) : (linkReset s).ck = s.ck ∧ (linkReset s).ru.holds = s.ru.holds := by
  unfold linkReset
  split
  · have h := beginWarmReset_begun s
    exact ⟨h.kept.1, h.sweeps.2.2.1⟩
  · have h := signalLinkReset_kept (s.mapLp LinkPort.restart)
    exact ⟨(ck_of_kept h :), (holds_of_kept h :)⟩

theorem endWarmReset_guarded (s : State) : (endWarmReset s).ck = s.ck ∧ (endWarmReset s).ru.holds = s.ru.holds := by
  have h : (endWarmReset s).kept = (s.mapPower fun p => { p with warmReset := false }).kept := by simp [endWarmReset]
  exact ⟨(ck_of_kept h :), (holds_of_kept h :)⟩

theorem decodeCompleted_guarded (read : ReadResult) (s : State) :
    (decodeCompleted read s).ck = s.ck ∧ (decodeCompleted read s).ru.holds = s.ru.holds := by
  unfold decodeCompleted
  split
  · exact ⟨rfl, rfl⟩
  · rename_i g _
    split
    · have h := decodeOwner_kept g (some ‹_›) (engineIdle s)
      exact ⟨(ck_of_kept h :), (holds_of_kept h :)⟩
    · have h := decodeOwner_kept g none (markDamaged g.seg (engineIdle s))
      obtain ⟨hc, hr⟩ := markDamaged_guarded g.seg (engineIdle s)
      exact ⟨(ck_of_kept h).trans hc, (holds_of_kept h).trans (by rw [hr]; rfl)⟩

theorem checkCompleted_guarded (read : ReadResult) (s : State) :
    (checkCompleted read s).ck = s.ck ∧ (checkCompleted read s).ru.holds = s.ru.holds := by
  unfold checkCompleted
  split
  · exact ⟨rfl, rfl⟩
  · rename_i g _
    split
    · have h := checkOwner_kept g true (engineIdle s)
      exact ⟨(ck_of_kept h :), (holds_of_kept h :)⟩
    · have h := checkOwner_kept g false (markDamaged g.seg (engineIdle s))
      obtain ⟨hc, hr⟩ := markDamaged_guarded g.seg (engineIdle s)
      exact ⟨(ck_of_kept h).trans hc, (holds_of_kept h).trans (by rw [hr]; rfl)⟩

theorem eepromCompleted_guarded (fault : Bool) (s : State) :
    (eepromCompleted fault s).ck = s.ck ∧ (eepromCompleted fault s).ru.holds = s.ru.holds := by
  unfold eepromCompleted
  repeat' split
  all_goals exact ⟨rfl, rfl⟩

theorem servePlaceHold_ck (tag epoch : Nat) (h : Hold) (s : State) : (servePlaceHold tag epoch h s).ck = s.ck := by
  unfold servePlaceHold
  repeat' split
  all_goals rfl

theorem serveReleaseHold_ck (tag epoch id : Nat) (s : State) : (serveReleaseHold tag epoch id s).ck = s.ck := by
  unfold serveReleaseHold
  split
  · rfl
  · exact (ck_of_kept (schedulePass_kept _ _) :)

theorem serveReadStatus_guarded (tag epoch : Nat) (clear : Bool) (s : State) :
    (serveReadStatus tag epoch clear s).ck = s.ck ∧ (serveReadStatus tag epoch clear s).ru = s.ru := by
  cases clear <;> exact ⟨rfl, rfl⟩

/-! ## The day rollover -/

@[simp] theorem rollover_ck (s : State) : (rollover s).ck = { s.ck with rolloverDay := s.currentDay } := by
  obtain ⟨pc, q, h⟩ := rollover_eq s
  rw [h]

@[simp] theorem rollover_holds (s : State) : (rollover s).ru.holds = s.ru.holds := by
  obtain ⟨pc, q, h⟩ := rollover_eq s
  rw [h]

/-- Where a rollover is due it is raised, so that the rollover day is the current day while the clock is set (R39). -/
theorem raised_ck (s : State) : (if s.rolloverDue then rollover s else s).ck =
    { s.ck with rolloverDay := if s.ck.clockSet = true ∧ s.ck.rolloverDay < s.currentDay then s.currentDay else s.ck.rolloverDay } := by
  simp only [State.rolloverDue, Bool.and_eq_true, decide_eq_true_eq]
  split
  · exact rollover_ck s
  · rfl

theorem serveSetTime_ck (tag epoch time : Nat) (s : State) : (serveSetTime tag epoch time s).ck =
    if time < s.ck.archiveTime then s.ck
    else { s.ck with
      archiveTime := time, clockSet := true
      rolloverDay := if s.ck.rolloverDay < dayOf time then dayOf time else s.ck.rolloverDay } := by
  have kept (x : State) : (moveOnward x).ck = x.ck := ck_of_kept (moveOnward_kept x)
  have pass (x : State) : (fullPass x).ck = x.ck := ck_of_kept (fullPass_kept x)
  have timers (x : State) : (advanceQuietTimers (time - s.ck.archiveTime) x).ck = x.ck := rfl
  unfold serveSetTime
  split
  · rfl
  · simp only [respond_eq, State.mapLp_ck, kept, State.rolloverDue, State.currentDay]
    cases s.ck.clockSet <;> by_cases h : s.ck.rolloverDay < dayOf time <;> simp [h, pass, timers, State.currentDay]

theorem serveSetTime_holds (tag epoch time : Nat) (s : State) : (serveSetTime tag epoch time s).ru.holds = s.ru.holds := by
  have kept (x : State) : (moveOnward x).ru.holds = x.ru.holds := holds_of_kept (moveOnward_kept x)
  have pass (x : State) : (fullPass x).ru.holds = x.ru.holds := holds_of_kept (fullPass_kept x)
  have timers (x : State) : (advanceQuietTimers (time - s.ck.archiveTime) x).ru = x.ru := rfl
  unfold serveSetTime
  split
  · rfl
  · simp only [respond_eq, State.mapLp_ru, kept]
    repeat' split
    all_goals simp [pass, timers]

theorem secondEvent_holds (s : State) : (secondEvent s).ru.holds = s.ru.holds := by
  have own (x : State) : (advancePatrolTimer (advanceIdleTimers x)).ru.holds = x.ru.holds := holds_of_kept (by simp)
  have raised (x : State) : (if x.rolloverDue then rollover x else x).ru.holds = x.ru.holds := by split <;> simp
  have timers (x : State) : (if x.ck.clockSet then advanceQuietTimers 1 x else x).ru = x.ru := by split <;> rfl
  rw [secondEvent, holds_of_kept (moveOnward_kept _), raised, own, timers]
  rfl

theorem secondEvent_ck (s : State) : (secondEvent s).ck = { s.ck with
    archiveTime := s.ck.archiveTime + 1
    rolloverDay := if s.ck.clockSet = true ∧ s.ck.rolloverDay < dayOf (s.ck.archiveTime + 1) then dayOf (s.ck.archiveTime + 1)
      else s.ck.rolloverDay } := by
  have own (x : State) : (advancePatrolTimer (advanceIdleTimers x)).ck = x.ck := ck_of_kept (by simp)
  have timers (x : State) : (if x.ck.clockSet then advanceQuietTimers 1 x else x).ck = x.ck := by split <;> rfl
  rw [secondEvent, ck_of_kept (moveOnward_kept _), raised_ck]
  simp only [State.currentDay, own, timers]
  rfl

/-! ## O4 -/

theorem ClockInv.congr (h : ClockInv s) (hc : t.ck = s.ck) : ClockInv t := by
  simpa only [ClockInv, State.currentDay, hc] using h

theorem ClockInv.settleFrom (h : ClockInv s) (v : Turn) : ClockInv (settleFrom v s) := h.congr (ck_of_kept (settleFrom_kept v s))

/-- Archive time goes on to a time and the rollover day is brought up to its day where the clock is set (R38, R39). -/
theorem ClockInv.forward (h : ClockInv s) {time : Nat} {set : Bool} {raised : Prop} [Decidable raised]
    (hle : s.ck.archiveTime ≤ time) (hr : raised ↔ set = true ∧ s.ck.rolloverDay < dayOf time)
    (hu : u.ck = { s.ck with
      archiveTime := time, clockSet := set, rolloverDay := if raised then dayOf time else s.ck.rolloverDay }) : ClockInv u := by
  have hday : s.currentDay ≤ dayOf time := Nat.div_le_div_right hle
  obtain ⟨hroll, -⟩ := h
  simp only [ClockInv, State.currentDay, hu]
  constructor
  · split <;> omega
  · intro hs
    rw [if_congr hr rfl rfl]
    simp only [hs, true_and]
    split <;> omega

theorem transientAtPowerOn_ck (s : State) : (transientAtPowerOn s).ck = { s.ck with clockSet := false } := rfl

/-- A start-up and a loss of power leave the clock unset, the rollover day and archive time as they are or both at 0 (R35, R57). -/
theorem ClockInv.unset (h : ClockInv s) (hu : u.ck.clockSet = false)
    (hr : u.ck.archiveTime = s.ck.archiveTime ∧ u.ck.rolloverDay = s.ck.rolloverDay ∨ u.ck.rolloverDay = 0) : ClockInv u := by
  refine ⟨?_, fun hs => by rw [hu] at hs; cases hs⟩
  rcases hr with ⟨ht, hd⟩ | hd
  · simpa only [ClockInv, State.currentDay, ht, hd] using h.1
  · rw [hd]
    exact Nat.zero_le _

theorem releaseStranded_kept (s : State) : (releaseStranded s).kept = s.kept := by
  unfold releaseStranded
  exact foldl_kept _ (fun s (e : Nat × CallRecord) => releaseSlot_kept e.1 s) _ _

theorem resume_kept (s : State) : (resume s).kept = s.kept := by
  simp only [resume, moveOnward_kept, kept_mapWa, rebuildQueues_kept, mapParts_kept, releaseStranded_kept]
  rfl

theorem runStartUp_ck (v : StartUp) (s : State) : (runStartUp v s).ck = { s.ck with clockSet := false } ∨
    (runStartUp v s).ck = { s.ck with clockSet := false, archiveTime := 0, rolloverDay := 0 } := by
  unfold runStartUp
  simp only [State.mapPower_ck]
  split
  · exact .inl (ck_of_kept (resume_kept _) :)
  · exact .inr rfl

/-- Of the requests served at their acceptance SET_TIME alone changes the clock (R37, R38). -/
theorem serveParams_ck {p : Params} (hp : ∀ time, p ≠ .setTime time) (tag epoch : Nat) (s : State) :
    (serveParams p tag epoch s).ck = s.ck := by
  cases p with
  | setTime time => exact absurd rfl (hp time)
  | placeHold h => exact servePlaceHold_ck tag epoch h s
  | releaseHold id => exact serveReleaseHold_ck tag epoch id s
  | readStatus clear => exact (serveReadStatus_guarded tag epoch clear s).1
  | _ => exact ck_of_kept (by simp [serveParams])

/-- Every command's own effect keeps the clock invariant. -/
theorem ClockInv.effect {c : Instr} (h : ClockInv s) (he : Effect s c u) : ClockInv u := by
  have same (hc : u.ck = s.ck) : ClockInv u := h.congr hc
  cases he with
  | nothing | link | pins | startUpWaits => exact h.congr rfl
  | queues e f => exact same (by rw [ck_of_kept (restartIdle_kept _ _)]; rfl)
  | @serves _ _ _ p hc hp tag epoch f =>
    by_cases ht : ∃ time, p = .setTime time
    · obtain ⟨time, rfl⟩ := ht
      have e := serveSetTime_ck tag epoch time (s.mapLp f)
      split at e
      · exact same e
      · rename_i hlt
        exact h.forward (time := time) (set := true) (Nat.le_of_not_lt hlt) (by simp) e
    · exact same (serveParams_ck (fun time e => ht ⟨time, e⟩) tag epoch _)
  | linkReset _ lock hx => subst hx; exact same (linkReset_guarded _).1
  | warmReset _ reset f hx => subst hx; exact same (beginWarmReset_begun _).kept.1
  | warmResetEnd => exact same (endWarmReset_guarded s).1
  | startUpRuns hc v lost f hx =>
    subst hx
    rcases runStartUp_ck v ((dramFound lost s).mapPower f) with e | e
    · exact h.unset (by rw [e]) (.inl (by rw [e]; exact ⟨rfl, rfl⟩))
    · exact h.unset (by rw [e]) (.inr (by rw [e]))
  | powerLost => exact h.unset rfl (.inl ⟨rfl, rfl⟩)
  | eeprom fault => exact same (eepromCompleted_guarded fault s).1
  | second => exact h.forward (Nat.le_succ _) Iff.rfl (secondEvent_ck s)
  | tickOnly => exact h
  | tick => exact ClockInv.congr (s := s.mapCk fun k => { k with tick := k.tick + 1 }) h (ck_of_kept (tickPhase_kept _))
  | decode read => exact same (decodeCompleted_guarded read s).1
  | check read => exact same (checkCompleted_guarded read s).1
  | _ => exact same (ck_of_kept (by simp))

/-- Settles O4. -/
theorem clockInvariantKept : Obligations.ClockInvariantKept := by
  intro s t h hs
  rcases step_runs hs with rfl | ⟨c, rest, x, he, rfl | ⟨v, rfl⟩⟩
  · exact h
  · exact ClockInv.effect (s := { s with pending := rest }) h he
  · exact (ClockInv.effect (s := { s with pending := rest }) h he).settleFrom v

/-! ## O9 -/

/-- Archive time does not fall, and a set clock stays set but at a loss of power. -/
def ClockGuarded (c : Instr) (s t : State) : Prop :=
  s.ck.archiveTime ≤ t.ck.archiveTime ∧ (c ≠ .lossOfNodePower → s.ck.clockSet = true → t.ck.clockSet = true)

theorem ClockGuarded.of_ck {c : Instr} (h : t.ck = s.ck) : ClockGuarded c s t := ⟨by rw [h], fun _ hs => by rw [h]; exact hs⟩

/-- The kind whose parameters these are (R16). -/
def Params.kind : Params → Kind
  | .setTime _ => .setTime | .closeDay _ => .closeDay | .setRetention _ _ _ => .setRetention | .placeHold _ => .placeHold
  | .releaseHold _ => .releaseHold | .listHolds => .listHolds | .setConfig _ => .setConfig | .saveConfig => .saveConfig
  | .readStatus _ => .readStatus | .readCounters _ => .readCounters | .clearCounters => .clearCounters
  | .partitionInfo _ _ => .partitionInfo | .reset => .reset | .linkReset => .linkReset | .fileOpen _ _ => .fileOpen
  | .records => .records | .fileClose _ => .fileClose | .fileAbort => .fileAbort | .fetch _ => .fetch
  | .querySubscriber _ => .querySubscriber | .amend _ => .amend | .readAccount _ _ => .readAccount | .auditScan _ => .auditScan
  | .verifyDays _ _ => .verifyDays | .cancel _ => .cancel

/-- A kind's parameter check makes parameters of that kind (R16). -/
theorem kind_of_readParams {k : Kind} {b : Bytes} {p : Params} (h : readParams k b = some p) : p.kind = k := by
  cases k with
  | setRetention => obtain ⟨_, _, _, -, -, -, rfl⟩ := readParams_setRetention.1 h; rfl
  | placeHold => obtain ⟨_, -, -, -, -, -, -, -, rfl⟩ := readParams_placeHold.1 h; rfl
  | readStatus => obtain ⟨_, -, rfl⟩ := readParams_readStatus.1 h; rfl
  | auditScan => obtain ⟨_, -, -, -, -, -, -, -, -, -, -, rfl⟩ := readParams_auditScan.1 h; rfl
  | setConfig => obtain ⟨_, -, -, -, rfl⟩ := readParams_setConfig.1 h; rfl
  | fileClose => 
    rcases readParams_fileClose.1 h with ⟨-, rfl⟩ | ⟨_, _, -, -, -, -, rfl⟩
    · rfl
    · rfl
  | querySubscriber => obtain ⟨_, -, -, -, -, -, -, -, -, rfl⟩ := readParams_querySubscriber.1 h; rfl
  | amend => obtain ⟨_, -, -, -, -, -, -, rfl⟩ := readParams_amend.1 h; rfl
  | records | linkReset => cases h; rfl
  | _ =>
    simp only [readParams] at h
    split at h
    · cases h; rfl
    · cases h

theorem kind_of_checkedParams {k : Kind} {r : Request} {p : Params} (h : checkedParams k r = some p) : p.kind = k := by
  unfold checkedParams at h
  split at h
  · exact kind_of_readParams h
  · cases h

/-- Requests other than PLACE_HOLD and RELEASE_HOLD leave the holds (R129). -/
theorem serveParams_holds {p : Params} (hp : ∀ h, p ≠ .placeHold h) (hr : ∀ id, p ≠ .releaseHold id) (tag epoch : Nat) (s : State) :
    (serveParams p tag epoch s).ru.holds = s.ru.holds := by
  cases p with
  | placeHold h => exact absurd rfl (hp h)
  | releaseHold id => exact absurd rfl (hr id)
  | setTime time => exact serveSetTime_holds tag epoch time s
  | readStatus clear => rw [serveParams, (serveReadStatus_guarded tag epoch clear s).2]
  | _ => exact holds_of_kept (by simp [serveParams])

theorem Effect.clockGuarded {c : Instr} (he : Effect s c u) (hc : startsUp c = false) : ClockGuarded c s u := by
  have same (hc : u.ck = s.ck) : ClockGuarded c s u := .of_ck hc
  cases he with
  | nothing | link | pins => exact .of_ck rfl
  | queues e f => exact same (by rw [ck_of_kept (restartIdle_kept _ _)]; rfl)
  | startUpWaits => cases hc
  | startUpRuns hs => rw [hc] at hs; cases hs
  | powerLost => exact ⟨Nat.le_refl _, fun hl => absurd rfl hl⟩
  | @serves _ _ _ p hc hp tag epoch f =>
    by_cases ht : ∃ time, p = .setTime time
    · obtain ⟨time, rfl⟩ := ht
      have e := serveSetTime_ck tag epoch time (s.mapLp f)
      split at e
      · exact same e
      · rename_i hlt
        exact ⟨by rw [serveParams, e]; exact Nat.le_of_not_lt hlt, fun _ _ => by rw [serveParams, e]⟩
    · exact same (serveParams_ck (fun time e => ht ⟨time, e⟩) tag epoch _)
  | linkReset _ lock hx => subst hx; exact same (linkReset_guarded _).1
  | warmReset _ reset f hx => subst hx; exact same (beginWarmReset_begun _).kept.1
  | warmResetEnd => exact same (endWarmReset_guarded s).1
  | eeprom fault => exact same (eepromCompleted_guarded fault s).1
  | second => exact ⟨by rw [secondEvent_ck]; exact Nat.le_succ _, fun _ hs => by rw [secondEvent_ck]; exact hs⟩
  | tickOnly => exact ⟨Nat.le_refl _, fun _ => id⟩
  | tick =>
    have e : (tickPhase (s.mapCk fun k => { k with tick := k.tick + 1 })).ck = _ := ck_of_kept (tickPhase_kept _)
    exact ⟨by rw [e]; exact Nat.le_refl _, fun _ hs => by rw [e]; exact hs⟩
  | decode read => exact same (decodeCompleted_guarded read s).1
  | check read => exact same (checkCompleted_guarded read s).1
  | _ => exact same (ck_of_kept (by simp))

/-- A request row's parameters are those of its own kind (R16). -/
theorem Brings.holds_kind {c : Instr} {k : Kind} {r : Request} (hc : Brings c k r) (hp : ∀ r, c ≠ .placeHold r)
    (hr : ∀ r, c ≠ .releaseHold r) (hf : ∀ b, c ≠ .frameCheck b) (hu : ∀ b r, c ≠ .unknownKind b r) :
    k ≠ .placeHold ∧ k ≠ .releaseHold := by
  cases hc with
  | row => exact ⟨fun e => hp r (by rw [e]; rfl), fun e => hr r (by rw [e]; rfl)⟩
  | frame b => exact absurd rfl (hf b)
  | code b => exact absurd rfl (hu b r)

theorem Effect.holds {c : Instr} (he : Effect s c u) (hp : ∀ r, c ≠ .placeHold r)
    (hr : ∀ r, c ≠ .releaseHold r) (hf : ∀ b, c ≠ .frameCheck b) (hu : ∀ b r, c ≠ .unknownKind b r) (hs : startsUp c = false) :
    u.ru.holds = s.ru.holds := by
  cases he with
  | nothing | link | pins | tickOnly => rfl
  | queues e f => rw [holds_of_kept (restartIdle_kept _ _)]; rfl
  | startUpWaits => cases hs
  | startUpRuns h => rw [hs] at h; cases h
  | powerLost => rfl
  | @serves _ k _ p hc hq tag epoch f =>
    obtain ⟨hp', hr'⟩ := hc.holds_kind hp hr hf hu
    have hk : p.kind = k := kind_of_checkedParams hq
    exact serveParams_holds (fun h e => hp' (by rw [← hk, e]; rfl)) (fun id e => hr' (by rw [← hk, e]; rfl)) tag epoch _
  | linkReset _ lock hx => subst hx; exact (linkReset_guarded _).2
  | warmReset _ reset f hx => subst hx; exact (beginWarmReset_begun _).sweeps.2.2.1
  | warmResetEnd => exact (endWarmReset_guarded s).2
  | eeprom fault => exact (eepromCompleted_guarded fault s).2
  | second => exact secondEvent_holds s
  | tick => exact (holds_of_kept (tickPhase_kept _) :)
  | decode read => exact (decodeCompleted_guarded read s).2
  | check read => exact (checkCompleted_guarded read s).2
  | _ => exact holds_of_kept (by simp)

/-- Settles O9. -/
theorem holdsAndClockGuarded : Obligations.HoldsAndClockGuarded := by
  refine ⟨fun c s t hp hr hf hu hs h => ?_, fun c s t hs h => ?_⟩
  · obtain ⟨x, he, rfl | ⟨v, rfl⟩⟩ := exec_effect h
    · exact he.holds hp hr hf hu hs
    · exact (holds_of_kept (settleFrom_kept v x)).trans (he.holds hp hr hf hu hs)
  · obtain ⟨x, he, ht⟩ := exec_effect h
    have hck : t.ck = x.ck := by
      rcases ht with rfl | ⟨v, rfl⟩
      · rfl
      · exact ck_of_kept (settleFrom_kept v x)
    rw [hck]
    exact he.clockGuarded hs

end Sys2Proof.Machine
end

section
/-! The days through an event: what of the state the pins, the movers and the queues of days are about (`State.days`), the single changes
that the operations make of it (`Days.Step`), and that each of these changes keeps the two invariants. -/

namespace Sys2Proof.Machine

/-- A change of a partition that leaves its state, and its pins, mover and mover-waiting flag in agreement. -/
def Partition.Tidy (p q : Partition) : Prop := q.state = p.state ∧ (PinsAndMovers p → PinsAndMovers q)

/-- What the agreement of the days is about: whether the part takes events, the Partition Table, the three queues of days, the job's day with
its kind, and the day of the sweep in flight. -/
structure Days where
  active : Bool
  parts : Tab Partition
  pack : List Nat
  repack : List Nat
  wait : List Nat
  job : Option (Nat × Bool)
  sweep : Option Nat

def State.days (s : State) : Days :=
  { active := s.active, parts := s.pc.parts, pack := s.wa.packQueue, repack := s.wa.repackQueue, wait := s.ce.coldWait,
    job := s.ce.job.map fun j => (j.day, j.repack), sweep := s.ru.sweep.map (·.day) }

namespace Days

/-- The state of a day's partition. -/
def stateOf (x : Days) (day : Nat) : Option PartState := (Tab.get x.parts day).map (·.state)

/-- A partition that leaves for a state, its pins and mover in agreement. -/
def Enters (st : PartState) (p q : Partition) : Prop := q.state = st ∧ (PinsAndMovers p → PinsAndMovers q)

/-- The state in which a job of a kind has its day. -/
def jobState (repack : Bool) : PartState := if repack then .repacking else .packing

/-- The single changes of the days. -/
inductive Step (x : Days) : Days → Prop where
  | tidy (day : Nat) (f : Partition → Partition) (h : ∀ p, Partition.Tidy p (f p)) : Step x { x with parts := Tab.upd x.parts day f }
  | tidyAll (f : Nat → Partition → Partition) (h : ∀ d p, Partition.Tidy p (f d p)) : Step x { x with parts := Tab.mapAll x.parts f }
  | grant (day : Nat) (p : Partition) (w : Waiter) (hp : (day, p) ∈ x.parts) (hw : p.servable = some w) :
      Step x { x with parts := Tab.upd x.parts day (Partition.grantHead w) }
  | allocate (day : Nat) (closed : Bool) (h : Tab.get x.parts day = none) :
      Step x { x with parts := Tab.put x.parts day (newPartition closed) }
  | onward (pressure : Bool) : Step x { x with
      parts := Tab.mapAll x.parts fun _ p => p.moved pressure
      pack := joinDays (Tab.keysWhere x.parts fun _ p => p.onward pressure) x.pack }
  | reopen (day : Nat) (f : Partition → Partition) (hf : ∀ p, Enters .opened p (f p)) (h : x.stateOf day = some .quiet) : Step x { x with
      parts := Tab.upd x.parts day f, pack := x.pack.filter (· != day), wait := x.wait.filter (· != day) }
  | segmentFree : Step x { x with wait := [], pack := joinDays x.wait x.pack }
  | repack (day : Nat) (h : x.stateOf day = some .packed) : Step x { x with
      repack := if day ∈ x.repack then x.repack else x.repack ++ [day] }
  | sweepEnds : Step x { x with sweep := none }
  | sweepStarts (day : Nat) (h : x.stateOf day ≠ some .packing ∧ x.stateOf day ≠ some .repacking) : Step x { x with sweep := some day }
  | packStarts (day : Nat) (f : Partition → Partition) (hf : ∀ p, Enters .packing p (f p)) (hq : day ∈ x.pack) (hs : x.sweep ≠ some day) :
      Step x { x with
        parts := Tab.upd x.parts day f, pack := x.pack.filter (· != day), wait := x.wait.filter (· != day), job := some (day, false) }
  | repackStarts (day : Nat) (f : Partition → Partition) (hf : ∀ p, Enters .repacking p (f p)) (hq : day ∈ x.repack)
      (hs : x.sweep ≠ some day) : Step x { x with
        parts := Tab.upd x.parts day f, repack := x.repack.filter (· != day), job := some (day, true) }
  | jobPacked (day : Nat) (repack : Bool) (f : Partition → Partition) (hf : ∀ p, Enters .packed p (f p)) (h : x.job = some (day, repack)) :
      Step x { x with parts := Tab.upd x.parts day f, job := none }
  | jobRequeued (day : Nat) (f : Partition → Partition) (hf : ∀ p, Enters .quiet p (f p)) (h : x.job = some (day, false)) : Step x { x with
      parts := Tab.upd x.parts day f, job := none, pack := if day ∈ x.pack then x.pack else x.pack ++ [day] }
  | jobWaits (day : Nat) (f : Partition → Partition) (hf : ∀ p, Enters .quiet p (f p)) (h : x.job = some (day, false))
      (ha : x.active = true) : Step x { x with parts := Tab.upd x.parts day f, job := none, wait := insertAsc day x.wait }
  | freed (day : Nat) (h : x.sweep = some day) : Step x { x with
      parts := Tab.del x.parts day, pack := x.pack.filter (· != day), repack := x.repack.filter (· != day)
      wait := x.wait.filter (· != day), sweep := none }
  | rests (parts : Tab Partition) (hr : Tab.rising x.parts = true → Tab.rising parts = true)
      (hp : (∀ e ∈ x.parts, PinsAndMovers e.2) → ∀ e ∈ parts, PinsAndMovers e.2) :
      Step x { active := false, parts := parts, pack := [], repack := [], wait := [], job := none, sweep := none }
  | rebuilt (active : Bool) (test : Partition → Bool) (h : x.active = false) : Step x { x with
      active := active
      pack := Tab.keysWhere x.parts fun _ p => decide (p.state = .quiet)
      repack := Tab.keysWhere x.parts fun _ p => decide (p.state = .packed) && test p }

/-- The agreement of the queues, the job and the sweep with the partitions' states, in a Partition Table that is a map. -/
structure Agree (x : Days) : Prop where
  keyed : Tab.rising x.parts = true
  pack : x.pack.Nodup ∧ ∀ d ∈ x.pack, x.stateOf d = some .quiet
  repack : x.repack.Nodup ∧ ∀ d ∈ x.repack, x.stateOf d = some .packed
  wait : x.wait.Pairwise (· < ·) ∧ ∀ d ∈ x.wait, x.stateOf d = some .quiet ∧ d ∉ x.pack
  resting : x.active = false → x.wait = []
  quiet : x.active = true → ∀ d, x.stateOf d = some .quiet → d ∈ x.pack ∨ d ∈ x.wait
  job : ∀ d r, x.job = some (d, r) → x.stateOf d = some (jobState r)
  sweep : ∀ d, x.sweep = some d → x.stateOf d ≠ some .packing ∧ x.stateOf d ≠ some .repacking

/-- Every partition's pins, mover and mover-waiting flag agree, in a Partition Table that is a map. -/
structure Pinned (x : Days) : Prop where
  keyed : Tab.rising x.parts = true
  pins : ∀ e ∈ x.parts, PinsAndMovers e.2

/-! ## Each change keeps the pins and movers -/

theorem pinned_upd {parts : Tab Partition} {day : Nat} {f : Partition → Partition} (h : ∀ e ∈ parts, PinsAndMovers e.2)
    (hf : ∀ p, (day, p) ∈ parts → PinsAndMovers p → PinsAndMovers (f p)) : ∀ e ∈ Tab.upd parts day f, PinsAndMovers e.2 := by
  intro e he
  obtain ⟨x, hx, rfl⟩ := List.mem_map.1 he
  split
  · rename_i hd
    exact hf x.2 (by rw [← hd]; exact hx) (h x hx)
  · exact h x hx

theorem pinned_mapAll {parts : Tab Partition} {f : Nat → Partition → Partition} (h : ∀ e ∈ parts, PinsAndMovers e.2)
    (hf : ∀ d p, PinsAndMovers p → PinsAndMovers (f d p)) : ∀ e ∈ Tab.mapAll parts f, PinsAndMovers e.2 := by
  intro e he
  obtain ⟨x, hx, rfl⟩ := List.mem_map.1 he
  exact hf _ _ (h x hx)

theorem isMover_iff (w : Waiter) : w.isMover = true ↔ w = .job ∨ w = .sweep ∨ ∃ c, w = .move c := by
  cases w <;> simp [Waiter.isMover]

/-- Setting the wait queue sets the mover-waiting flag with it (R51, R52). -/
theorem pinned_withQueue {p : Partition} (h : PinsAndMovers p) (q : List Waiter) : PinsAndMovers (p.withQueue q) where
  pins := h.pins
  holding := h.holding
  waiting := by simp [Partition.withQueue, isMover_iff]

/-- The head of a wait queue that can proceed takes a pin below the limit, or the partition without a pin (R50, R51, R52). -/
theorem pinned_grantHead {p : Partition} {w : Waiter} (h : PinsAndMovers p) (hw : p.servable = some w) : PinsAndMovers (p.grantHead w) := by
  have hq := pinned_withQueue h p.waitQueue.tail
  obtain ⟨l, hl⟩ : ∃ l, p.waitQueue = w :: l := by
    unfold Partition.servable at hw
    split at hw
    · cases hw
    · rename_i v l e
      refine ⟨l, ?_⟩
      rw [e]
      repeat' split at hw
      all_goals cases hw
      all_goals rfl
  simp only [Partition.servable, hl] at hw
  unfold Partition.grantHead
  split at hw
  · cases hw
  · rename_i hh
    split at hw
    · rename_i hm
      split at hw
      · rename_i hp
        simp only [hm, if_true]
        exact { pins := hq.pins, holding := fun _ => hp, waiting := hq.waiting }
      · cases hw
    · rename_i hm
      split at hw
      · rename_i hp
        simp only [hm]
        exact { pins := hp, holding := fun e => absurd e hh, waiting := hq.waiting }
      · cases hw

theorem pinned_moved {p : Partition} (h : PinsAndMovers p) (b : Bool) : PinsAndMovers (p.moved b) := by
  unfold Partition.moved
  split
  · exact ⟨h.pins, h.holding, h.waiting⟩
  · exact h

theorem Step.pinned {x y : Days} (h : Step x y) (hx : Pinned x) : Pinned y := by
  obtain ⟨hk, hp⟩ := hx
  cases h with
  | tidy day f h => exact ⟨Tab.rising_upd _ _ hk, pinned_upd hp fun p _ => (h p).2⟩
  | tidyAll f h => exact ⟨Tab.rising_mapAll _ hk, pinned_mapAll hp fun d p => (h d p).2⟩
  | grant day p w hg hw =>
    refine ⟨Tab.rising_upd _ _ hk, pinned_upd hp fun q hq hpin => ?_⟩
    have e : Tab.get x.parts day = some q := Tab.get_of_mem hk hq
    rw [Tab.get_of_mem hk hg] at e
    cases e
    exact pinned_grantHead hpin hw
  | allocate day closed h =>
    refine ⟨Tab.rising_put _ _ hk, fun e he => ?_⟩
    rcases Tab.mem_put he with rfl | he
    · exact { pins := Nat.zero_le _, holding := fun e => (by cases e), waiting := (by simp [newPartition]) }
    · exact hp e he
  | onward b => exact ⟨Tab.rising_mapAll (fun _ p => p.moved b) hk, pinned_mapAll hp fun _ p h => pinned_moved h b⟩
  | segmentFree | repack | sweepEnds | sweepStarts | rebuilt => exact ⟨hk, hp⟩
  | reopen day f hf | packStarts day f hf | repackStarts day f hf | jobRequeued day f hf | jobWaits day f hf =>
    exact ⟨Tab.rising_upd _ _ hk, pinned_upd hp fun p _ => (hf p).2⟩
  | jobPacked day r f hf => exact ⟨Tab.rising_upd _ _ hk, pinned_upd hp fun p _ => (hf p).2⟩
  | freed day => exact ⟨Tab.rising_del _ hk, fun e he => hp e (List.mem_of_mem_filter he)⟩
  | rests parts hr hpin => exact ⟨hr hk, hpin hp⟩

/-! ## Each change keeps the agreement -/

theorem stateOf_upd {x : Days} {y : Days} {day : Nat} {f : Partition → Partition} (hy : y.parts = Tab.upd x.parts day f) (d : Nat) :
    y.stateOf d = if d = day then (Tab.get x.parts d).map (fun p => (f p).state) else x.stateOf d := by
  unfold stateOf
  rw [hy, Tab.get_upd]
  split
  · rw [Option.map_map]; rfl
  · rfl

theorem stateOf_enters {x y : Days} {day : Nat} {f : Partition → Partition} {st : PartState} (hy : y.parts = Tab.upd x.parts day f)
    (hf : ∀ p, Enters st p (f p)) (hd : (x.stateOf day).isSome) (d : Nat) : y.stateOf d = if d = day then some st else x.stateOf d := by
  rw [stateOf_upd hy]
  split
  · rename_i e
    subst e
    obtain ⟨st', h⟩ := Option.isSome_iff_exists.1 hd
    obtain ⟨p, hp, -⟩ := Option.map_eq_some_iff.1 h
    rw [hp]
    simp [(hf p).1]
  · rfl

theorem stateOf_tidy {x y : Days} {day : Nat} {f : Partition → Partition} (hy : y.parts = Tab.upd x.parts day f)
    (hf : ∀ p, (f p).state = p.state) (d : Nat) : y.stateOf d = x.stateOf d := by
  rw [stateOf_upd hy]
  split
  · unfold stateOf; simp [hf]
  · rfl

theorem stateOf_mapAll {x y : Days} {f : Nat → Partition → Partition} (hy : y.parts = Tab.mapAll x.parts f) (d : Nat) :
    y.stateOf d = (Tab.get x.parts d).map fun p => (f d p).state := by
  unfold stateOf
  rw [hy, Tab.get_mapAll, Option.map_map]
  rfl

theorem mem_keysWhere {parts : Tab Partition} (hk : Tab.rising parts = true) {test : Nat → Partition → Bool} {d : Nat} :
    d ∈ Tab.keysWhere parts test ↔ ∃ p, Tab.get parts d = some p ∧ test d p = true := by
  constructor
  · intro h
    obtain ⟨e, he, rfl⟩ := List.mem_map.1 h
    obtain ⟨hm, ht⟩ := List.mem_filter.1 he
    exact ⟨e.2, Tab.get_of_mem hk hm, ht⟩
  · rintro ⟨p, hp, ht⟩
    exact List.mem_map.2 ⟨(d, p), List.mem_filter.2 ⟨Tab.mem_of_get hp, ht⟩, rfl⟩

theorem nodup_keysWhere {parts : Tab Partition} (hk : Tab.rising parts = true) (test : Nat → Partition → Bool) :
    (Tab.keysWhere parts test).Nodup := (Tab.rising_keys (Tab.rising_keep _ hk)).imp Nat.ne_of_lt

theorem nodup_joinDays {days q : List Nat} (hq : q.Nodup) : (joinDays days q).Nodup := by
  induction days generalizing q with
  | nil => exact hq
  | cons a l ih =>
    refine ih (q := if a ∈ q then q else q ++ [a]) ?_
    split
    · exact hq
    · rename_i h
      exact List.nodup_append'.2 ⟨hq, List.nodup_singleton a, by simpa using h⟩

theorem nodup_joined {d : Nat} {q : List Nat} (hq : q.Nodup) : (if d ∈ q then q else q ++ [d]).Nodup := nodup_joinDays (days := [d]) hq

theorem mem_joined {a d : Nat} {q : List Nat} : a ∈ (if d ∈ q then q else q ++ [d]) ↔ a ∈ q ∨ a = d := by
  have h := mem_joinDays (days := [d]) (q := q) (d := a)
  simpa [joinDays] using h

theorem mem_insertAsc {a d : Nat} {l : List Nat} : a ∈ insertAsc d l ↔ a = d ∨ a ∈ l := by
  induction l with
  | nil => simp [insertAsc]
  | cons m l ih =>
    unfold insertAsc
    split
    · rename_i e; subst e; simp
    split
    · simp
    · simp only [List.mem_cons, ih]; tauto

theorem pairwise_insertAsc {d : Nat} {l : List Nat} (h : l.Pairwise (· < ·)) : (insertAsc d l).Pairwise (· < ·) := by
  induction l with
  | nil => simp [insertAsc]
  | cons m l ih =>
    obtain ⟨hm, hl⟩ := List.pairwise_cons.1 h
    unfold insertAsc
    split
    · exact h
    split
    · rename_i hlt
      refine List.pairwise_cons.2 ⟨fun a ha => ?_, h⟩
      rcases List.mem_cons.1 ha with rfl | ha
      · exact hlt
      · exact hlt.trans (hm a ha)
    · refine List.pairwise_cons.2 ⟨fun a ha => ?_, ih hl⟩
      rcases mem_insertAsc.1 ha with rfl | ha
      · omega
      · exact hm a ha

theorem mem_without {a d : Nat} {l : List Nat} : a ∈ l.filter (· != d) ↔ a ∈ l ∧ a ≠ d := by simp

/-- A day that leaves the queues for a state that is no queue's, while the other days stay as they are. -/
theorem Agree.leaves {x y : Days} (h : Agree x) {day : Nat} {st : PartState} (hk : Tab.rising y.parts = true)
    (hstate : ∀ d, y.stateOf d = if d = day then some st else x.stateOf d) (hst : st ≠ .quiet)
    (hpack : y.pack = x.pack.filter (· != day)) (hwait : y.wait = x.wait.filter (· != day)) (hactive : y.active = x.active)
    (hrepack : y.repack.Nodup ∧ ∀ d ∈ y.repack, d ∈ x.repack ∧ d ≠ day)
    (hjob : ∀ d r, y.job = some (d, r) → x.job = some (d, r) ∧ d ≠ day ∨ d = day ∧ st = jobState r)
    (hsweep : ∀ d, y.sweep = some d → x.sweep = some d ∧ (d = day → st ≠ .packing ∧ st ≠ .repacking)) : Agree y where
  keyed := hk
  pack := by
    rw [hpack]
    refine ⟨h.pack.1.filter _, fun d hd => ?_⟩
    obtain ⟨hd, hne⟩ := mem_without.1 hd
    rw [hstate, if_neg hne, h.pack.2 d hd]
  repack := ⟨hrepack.1, fun d hd => by
    obtain ⟨hm, hne⟩ := hrepack.2 d hd
    rw [hstate, if_neg hne, h.repack.2 d hm]⟩
  wait := by
    rw [hwait, hpack]
    refine ⟨h.wait.1.filter _, fun d hd => ?_⟩
    obtain ⟨hd, hne⟩ := mem_without.1 hd
    obtain ⟨hq, hn⟩ := h.wait.2 d hd
    exact ⟨by rw [hstate, if_neg hne, hq], fun hm => hn (mem_without.1 hm).1⟩
  resting ha := by rw [hwait, h.resting (hactive ▸ ha)]; rfl
  quiet ha d hd := by
    rw [hstate] at hd
    split at hd
    · exact absurd (Option.some.inj hd) hst
    · rename_i hne
      rw [hpack, hwait, mem_without, mem_without]
      exact (h.quiet (hactive ▸ ha) d hd).imp (⟨·, hne⟩) (⟨·, hne⟩)
  job d r hj := by
    rw [hstate]
    rcases hjob d r hj with ⟨hj, hne⟩ | ⟨rfl, rfl⟩
    · rw [if_neg hne, h.job d r hj]
    · rw [if_pos rfl]
  sweep d hd := by
    obtain ⟨hd, hs⟩ := hsweep d hd
    rw [hstate]
    split
    · rename_i e
      simpa using hs e
    · exact h.sweep d hd

/-- Where no partition's state, no queue and no day of a job or sweep changes, the agreement stays. -/
theorem Agree.congr {x y : Days} (h : Agree x) (hk : Tab.rising y.parts = true) (hs : ∀ d, y.stateOf d = x.stateOf d)
    (hactive : y.active = x.active) (hpack : y.pack = x.pack) (hrepack : y.repack = x.repack) (hwait : y.wait = x.wait)
    (hjob : y.job = x.job) (hsweep : y.sweep = x.sweep) : Agree y where
  keyed := hk
  pack := by simpa only [hpack, hs] using h.pack
  repack := by simpa only [hrepack, hs] using h.repack
  wait := by simpa only [hwait, hpack, hs] using h.wait
  resting := by simpa only [hactive, hwait] using h.resting
  quiet := by simpa only [hactive, hs, hpack, hwait] using h.quiet
  job := by simpa only [hjob, hs] using h.job
  sweep := by simpa only [hsweep, hs] using h.sweep

section
variable {x y : Days} {day : Nat}

theorem Agree.not_pack (h : Agree x) (hd : x.stateOf day ≠ some .quiet) : day ∉ x.pack := fun hm => hd (h.pack.2 day hm)

theorem Agree.not_wait (h : Agree x) (hd : x.stateOf day ≠ some .quiet) : day ∉ x.wait := fun hm => hd (h.wait.2 day hm).1

theorem Agree.not_repack (h : Agree x) (hd : x.stateOf day ≠ some .packed) : day ∉ x.repack := fun hm => hd (h.repack.2 day hm)

theorem jobState_ne (r : Bool) : jobState r ≠ .quiet ∧ jobState r ≠ .packed ∧ jobState r ≠ .opened := by cases r <;> decide

theorem Agree.job_ne (h : Agree x) (hd : ∀ r, x.stateOf day ≠ some (jobState r)) {d : Nat} {r : Bool} (hj : x.job = some (d, r)) : d ≠ day :=
  fun e => hd r (e ▸ h.job d r hj)

theorem without_absent {l : List Nat} (h : day ∉ l) : l.filter (· != day) = l :=
  List.filter_eq_self.2 fun d hd => by simpa using fun e : d = day => h (e ▸ hd)

/-- A day enters the Partition Table OPEN (R42). -/
theorem Agree.allocate (h : Agree x) (closed : Bool) (hn : Tab.get x.parts day = none) :
    Agree { x with parts := Tab.put x.parts day (newPartition closed) } := by
  have hno : x.stateOf day = none := by simp [stateOf, hn]
  refine h.leaves (day := day) (st := .opened) (Tab.rising_put _ _ h.keyed) (fun d => ?_) (by decide)
    (without_absent (h.not_pack (by simp [hno]))).symm (without_absent (h.not_wait (by simp [hno]))).symm rfl
    ⟨h.repack.1, fun d hd => ⟨hd, fun e => h.not_repack (by simp [hno]) (e ▸ hd)⟩⟩
    (fun d r hj => .inl ⟨hj, h.job_ne (by simp [hno]) hj⟩) fun d hd => ⟨hd, fun _ => by decide⟩
  unfold stateOf
  split
  · rename_i e
    subst e
    simp [newPartition]
  · rename_i e
    rw [Tab.get_put_ne _ _ e]

/-- R47: closed OPEN days become QUIET and join the pack queue. -/
theorem Agree.onward (h : Agree x) (b : Bool) : Agree { x with
    parts := Tab.mapAll x.parts fun _ p => p.moved b
    pack := joinDays (Tab.keysWhere x.parts fun _ p => p.onward b) x.pack } := by
  have hstate (d : Nat) : stateOf { x with
      parts := Tab.mapAll x.parts fun _ p => p.moved b
      pack := joinDays (Tab.keysWhere x.parts fun _ p => p.onward b) x.pack } d = (Tab.get x.parts d).map fun p => (p.moved b).state :=
    stateOf_mapAll (x := x) (f := fun _ p => p.moved b) rfl d
  have same (d : Nat) (st : PartState) (hd : x.stateOf d = some st) (hst : st ≠ .opened) :
      (Tab.get x.parts d).map (fun p => (p.moved b).state) = some st := by
    obtain ⟨p, hp, rfl⟩ := Option.map_eq_some_iff.1 hd
    rw [hp, Option.map_some, Partition.moved_of_ne b hst]
  have back (d : Nat) (st : PartState) (hd : (Tab.get x.parts d).map (fun p => (p.moved b).state) = some st) :
      x.stateOf d = some st ∨ st = .quiet ∧ d ∈ Tab.keysWhere x.parts fun _ p => p.onward b := by
    obtain ⟨p, hp, rfl⟩ := Option.map_eq_some_iff.1 hd
    unfold Partition.moved
    split
    · rename_i ho
      exact .inr ⟨rfl, (mem_keysWhere h.keyed).2 ⟨p, hp, ho⟩⟩
    · exact .inl (by simp [stateOf, hp])
  have moves {d : Nat} (hd : d ∈ Tab.keysWhere x.parts fun _ p => p.onward b) : x.stateOf d = some .opened ∧
      (Tab.get x.parts d).map (fun p => (p.moved b).state) = some .quiet := by
    obtain ⟨p, hp, ho⟩ := (mem_keysWhere h.keyed).1 hd
    have hs : p.state = .opened := by
      simp only [Partition.onward, Bool.and_eq_true, decide_eq_true_eq] at ho
      exact ho.1.1
    exact ⟨by simp [stateOf, hp, hs], by simp [hp, Partition.moved, ho]⟩
  refine { keyed := Tab.rising_mapAll (fun _ p => p.moved b) h.keyed, pack := ⟨nodup_joinDays h.pack.1, fun d hd => ?_⟩,
           repack := ⟨h.repack.1, fun d hd => ?_⟩, wait := ⟨h.wait.1, fun d hd => ⟨?_, fun hm => ?_⟩⟩, resting := h.resting,
           quiet := fun ha d hd => ?_, job := fun d r hj => ?_, sweep := fun d hs => ?_ }
  · rw [hstate]
    rcases mem_joinDays.1 hd with hd | hd
    · exact same d _ (h.pack.2 d hd) (by decide)
    · exact (moves hd).2
  · rw [hstate]; exact same d _ (h.repack.2 d hd) (by decide)
  · rw [hstate]; exact same d _ (h.wait.2 d hd).1 (by decide)
  · rcases mem_joinDays.1 hm with hm | hm
    · exact (h.wait.2 d hd).2 hm
    · have := (moves hm).1
      rw [(h.wait.2 d hd).1] at this
      cases this
  · rw [hstate] at hd
    rcases back d _ hd with hq | ⟨-, hm⟩
    · exact (h.quiet ha d hq).imp (fun hm => mem_joinDays.2 (.inl hm)) id
    · exact .inl (mem_joinDays.2 (.inr hm))
  · rw [hstate]; exact same d _ (h.job d r hj) (jobState_ne r).2.2
  · rw [hstate]
    constructor
    · intro e
      rcases back d _ e with e | ⟨e, -⟩
      · exact (h.sweep d hs).1 e
      · cases e
    · intro e
      rcases back d _ e with e | ⟨e, -⟩
      · exact (h.sweep d hs).2 e
      · cases e

/-- R104: the days that waited for a FREE segment slot join the pack queue. -/
theorem Agree.segmentFree (h : Agree x) : Agree { x with wait := [], pack := joinDays x.wait x.pack } where
  keyed := h.keyed
  pack := ⟨nodup_joinDays h.pack.1, fun d hd => (mem_joinDays.1 hd).elim (h.pack.2 d) fun hd => (h.wait.2 d hd).1⟩
  repack := h.repack
  wait := ⟨List.Pairwise.nil, fun d hd => by cases hd⟩
  resting _ := rfl
  quiet ha d hd := .inl (mem_joinDays.2 (h.quiet ha d hd))
  job := h.job
  sweep := h.sweep

/-- R119: a pack job that fails has its day QUIET again, at the tail of the pack queue or in the wait for a FREE segment slot. -/
theorem Agree.jobQuiet (h : Agree x) (hj : x.job = some (day, false)) (hk : Tab.rising y.parts = true)
    (hstate : ∀ d, y.stateOf d = if d = day then some .quiet else x.stateOf d) (hactive : y.active = x.active)
    (hjob : y.job = none) (hsweep : y.sweep = x.sweep) (hrepack : y.repack = x.repack)
    (hq : y.pack = (if day ∈ x.pack then x.pack else x.pack ++ [day]) ∧ y.wait = x.wait ∨
      y.pack = x.pack ∧ y.wait = insertAsc day x.wait ∧ x.active = true) : Agree y := by
  have hst : x.stateOf day = some .packing := h.job day false hj
  have hn : day ∉ x.pack := h.not_pack (by simp [hst])
  have hn' : day ∉ x.wait := h.not_wait (by simp [hst])
  have keeps {d : Nat} (hd : x.stateOf d = some .quiet) : y.stateOf d = some .quiet := by
    rw [hstate]; split
    · rfl
    · exact hd
  have hpack (d : Nat) : d ∈ y.pack → d ∈ x.pack ∨ d = day ∧ y.wait = x.wait := fun hd => by
    rcases hq with ⟨e, ew⟩ | ⟨e, -⟩
    · rw [e] at hd
      exact (mem_joined.1 hd).imp id (⟨·, ew⟩)
    · exact .inl (e ▸ hd)
  have hwait (d : Nat) : d ∈ y.wait → d ∈ x.wait ∨ d = day ∧ y.pack = x.pack := fun hd => by
    rcases hq with ⟨-, e⟩ | ⟨ep, e, -⟩
    · exact .inl (e ▸ hd)
    · rw [e] at hd
      exact (mem_insertAsc.1 hd).symm.imp id (⟨·, ep⟩)
  refine { keyed := hk, pack := ⟨?_, fun d hd => ?_⟩, repack := ⟨hrepack ▸ h.repack.1, fun d hd => ?_⟩,
           wait := ⟨?_, fun d hd => ⟨?_, fun hm => ?_⟩⟩, resting := fun ha => ?_, quiet := fun ha d hd => ?_,
           job := fun d r e => (by rw [hjob] at e; cases e), sweep := fun d hs => ?_ }
  · rcases hq with ⟨e, -⟩ | ⟨e, -⟩
    · rw [e]; exact nodup_joined h.pack.1
    · rw [e]; exact h.pack.1
  · rcases hpack d hd with hd | ⟨rfl, -⟩
    · exact keeps (h.pack.2 d hd)
    · rw [hstate, if_pos rfl]
  · rw [hrepack] at hd
    rw [hstate, if_neg fun e => h.not_repack (by simp [hst]) (e ▸ hd)]
    exact h.repack.2 d hd
  · rcases hq with ⟨-, e⟩ | ⟨-, e, -⟩
    · rw [e]; exact h.wait.1
    · rw [e]; exact pairwise_insertAsc h.wait.1
  · rcases hwait d hd with hd | ⟨rfl, -⟩
    · exact keeps (h.wait.2 d hd).1
    · rw [hstate, if_pos rfl]
  · rcases hwait d hd with hd' | ⟨rfl, e⟩
    · rcases hpack d hm with hm | ⟨rfl, -⟩
      · exact (h.wait.2 d hd').2 hm
      · exact hn' hd'
    · exact hn (e ▸ hm)
  · rcases hq with ⟨-, e⟩ | ⟨-, -, e⟩
    · rw [e]; exact h.resting (hactive ▸ ha)
    · rw [hactive, e] at ha; cases ha
  · rw [hstate] at hd
    split at hd
    · rename_i e
      subst e
      rcases hq with ⟨e, -⟩ | ⟨-, e, -⟩
      · exact .inl (by rw [e]; exact mem_joined.2 (.inr rfl))
      · exact .inr (by rw [e]; exact mem_insertAsc.2 (.inl rfl))
    · have hold := h.quiet (hactive ▸ ha) d hd
      rcases hq with ⟨ep, ew⟩ | ⟨ep, ew, -⟩
      · rw [ep, ew]; exact hold.imp (fun hm => mem_joined.2 (.inl hm)) id
      · rw [ep, ew]; exact hold.imp id fun hm => mem_insertAsc.2 (.inr hm)
  · rw [hstate]
    split
    · exact ⟨by decide, by decide⟩
    · exact h.sweep d (hsweep ▸ hs)

/-- R53: the day of a sweep leaves the Partition Table and every queue. -/
theorem Agree.freed (h : Agree x) (hd : x.sweep = some day) : Agree { x with
    parts := Tab.del x.parts day, pack := x.pack.filter (· != day), repack := x.repack.filter (· != day)
    wait := x.wait.filter (· != day), sweep := none } := by
  have hstate {d : Nat} (hne : d ≠ day) : stateOf { x with
      parts := Tab.del x.parts day, pack := x.pack.filter (· != day), repack := x.repack.filter (· != day)
      wait := x.wait.filter (· != day), sweep := none } d = x.stateOf d := by
    unfold stateOf
    rw [Tab.get_del_ne _ hne]
  refine { keyed := Tab.rising_del _ h.keyed, pack := ⟨h.pack.1.filter _, fun d hm => ?_⟩, repack := ⟨h.repack.1.filter _, fun d hm => ?_⟩,
           wait := ⟨h.wait.1.filter _, fun d hm => ?_⟩, resting := fun ha => by simp [h.resting ha],
           quiet := fun ha d hq => ?_, job := fun d r hj => ?_, sweep := fun d e => by cases e }
  · obtain ⟨hm, hne⟩ := mem_without.1 hm
    rw [hstate hne]; exact h.pack.2 d hm
  · obtain ⟨hm, hne⟩ := mem_without.1 hm
    rw [hstate hne]; exact h.repack.2 d hm
  · obtain ⟨hm, hne⟩ := mem_without.1 hm
    rw [hstate hne]
    exact ⟨(h.wait.2 d hm).1, fun hp => (h.wait.2 d hm).2 (mem_without.1 hp).1⟩
  · have hne : d ≠ day := by
      rintro rfl
      simp [stateOf] at hq
    rw [hstate hne] at hq
    exact (h.quiet ha d hq).imp (fun hm => mem_without.2 ⟨hm, hne⟩) fun hm => mem_without.2 ⟨hm, hne⟩
  · have hst := h.job d r hj
    have hne : d ≠ day := by
      rintro rfl
      have := h.sweep d hd
      rw [hst] at this
      cases r
      · exact this.1 rfl
      · exact this.2 rfl
    rw [hstate hne]; exact hst

/-- R124: the queues rebuilt from the table, while no day waits for a FREE segment slot. -/
theorem Agree.rebuilt (h : Agree x) (active : Bool) (test : Partition → Bool) (hx : x.active = false) : Agree { x with
    active := active
    pack := Tab.keysWhere x.parts fun _ p => decide (p.state = .quiet)
    repack := Tab.keysWhere x.parts fun _ p => decide (p.state = .packed) && test p } where
  keyed := h.keyed
  pack := by
    refine ⟨nodup_keysWhere h.keyed _, fun d hd => ?_⟩
    obtain ⟨p, hp, ht⟩ := (mem_keysWhere h.keyed).1 hd
    simpa [stateOf, hp] using ht
  repack := by
    refine ⟨nodup_keysWhere h.keyed _, fun d hd => ?_⟩
    obtain ⟨p, hp, ht⟩ := (mem_keysWhere h.keyed).1 hd
    simp only [Bool.and_eq_true, decide_eq_true_eq] at ht
    simp [stateOf, hp, ht.1]
  wait := by
    have hw := h.resting hx
    rw [hw]
    exact ⟨List.Pairwise.nil, fun d hd => by cases hd⟩
  resting _ := h.resting hx
  quiet _ d hd := by
    obtain ⟨p, hp, hs⟩ := Option.map_eq_some_iff.1 hd
    exact .inl ((mem_keysWhere h.keyed).2 ⟨p, hp, by simpa using hs⟩)
  job := h.job
  sweep := h.sweep

end

theorem Step.agree {x y : Days} (h : Step x y) (hx : Agree x) : Agree y := by
  cases h with
  | tidy day f h => exact hx.congr (Tab.rising_upd _ _ hx.keyed) (stateOf_tidy rfl fun p => (h p).1) rfl rfl rfl rfl rfl rfl
  | tidyAll f h =>
    refine hx.congr (Tab.rising_mapAll _ hx.keyed) (fun d => ?_) rfl rfl rfl rfl rfl rfl
    rw [stateOf_mapAll rfl]
    simp [stateOf, (h _ _).1]
  | grant day p w =>
    refine hx.congr (Tab.rising_upd _ _ hx.keyed) (stateOf_tidy rfl fun p => ?_) rfl rfl rfl rfl rfl rfl
    unfold Partition.grantHead
    split <;> rfl
  | allocate day closed hn => exact hx.allocate closed hn
  | onward b => exact hx.onward b
  | segmentFree => exact hx.segmentFree
  | sweepEnds => exact { hx with sweep := fun d e => by cases e }
  | sweepStarts day h =>
    refine { hx with sweep := fun d e => ?_ }
    cases e
    exact h
  | repack day h =>
    refine { hx with repack := ⟨nodup_joined hx.repack.1, fun d hd => ?_⟩ }
    rcases mem_joined.1 hd with hd | rfl
    · exact hx.repack.2 d hd
    · exact h
  | reopen day f hf h =>
    refine hx.leaves (day := day) (st := .opened) (Tab.rising_upd _ _ hx.keyed) (stateOf_enters rfl hf (by rw [h]; rfl)) (by decide) rfl rfl rfl
      ⟨hx.repack.1, fun d hd => ⟨hd, fun e => hx.not_repack (by simp [h]) (e ▸ hd)⟩⟩
      (fun d r hj => .inl ⟨hj, hx.job_ne (fun r => ?_) hj⟩) fun d hd => ⟨hd, fun _ => by decide⟩
    rw [h]
    exact fun e => (jobState_ne r).1 (Option.some.inj e).symm
  | packStarts day f hf hq hs =>
    have h := hx.pack.2 day hq
    refine hx.leaves (day := day) (st := .packing) (Tab.rising_upd _ _ hx.keyed) (stateOf_enters rfl hf (by rw [h]; rfl)) (by decide) rfl rfl rfl
      ⟨hx.repack.1, fun d hd => ⟨hd, fun e => hx.not_repack (by simp [h]) (e ▸ hd)⟩⟩
      (fun d r hj => .inr (by cases hj; exact ⟨rfl, rfl⟩)) fun d hd => ⟨hd, fun e => absurd (e ▸ hd) hs⟩
  | repackStarts day f hf hq hs =>
    have h := hx.repack.2 day hq
    refine hx.leaves (day := day) (st := .repacking) (Tab.rising_upd _ _ hx.keyed) (stateOf_enters rfl hf (by rw [h]; rfl)) (by decide)
      (without_absent (hx.not_pack (by simp [h]))).symm (without_absent (hx.not_wait (by simp [h]))).symm rfl
      ⟨hx.repack.1.filter _, fun d hd => mem_without.1 hd⟩
      (fun d r hj => .inr (by cases hj; exact ⟨rfl, rfl⟩)) fun d hd => ⟨hd, fun e => absurd (e ▸ hd) hs⟩
  | jobPacked day r f hf hj =>
    have h := hx.job day r hj
    have hne := jobState_ne r
    refine hx.leaves (day := day) (st := .packed) (Tab.rising_upd _ _ hx.keyed) (stateOf_enters rfl hf (by rw [h]; rfl)) (by decide)
      (without_absent (hx.not_pack (by simp [h, hne.1]))).symm (without_absent (hx.not_wait (by simp [h, hne.1]))).symm rfl
      ⟨hx.repack.1, fun d hd => ⟨hd, fun e => hx.not_repack (by simp [h, hne.2.1]) (e ▸ hd)⟩⟩
      (fun d r e => by cases e) fun d hd => ⟨hd, fun _ => by decide⟩
  | jobRequeued day f hf hj =>
    exact hx.jobQuiet hj (Tab.rising_upd _ _ hx.keyed) (stateOf_enters rfl hf (by rw [hx.job _ _ hj]; rfl)) rfl rfl rfl rfl (.inl ⟨rfl, rfl⟩)
  | jobWaits day f hf hj ha =>
    exact hx.jobQuiet hj (Tab.rising_upd _ _ hx.keyed) (stateOf_enters rfl hf (by rw [hx.job _ _ hj]; rfl)) rfl rfl rfl rfl (.inr ⟨rfl, rfl, ha⟩)
  | freed day h => exact hx.freed h
  | rests parts hr =>
    exact { keyed := hr hx.keyed, pack := ⟨List.nodup_nil, fun d hd => (by cases hd)⟩, repack := ⟨List.nodup_nil, fun d hd => (by cases hd)⟩,
            wait := ⟨List.Pairwise.nil, fun d hd => (by cases hd)⟩, resting := fun _ => rfl, quiet := fun ha => (by cases ha),
            job := fun d r e => (by cases e), sweep := fun d e => (by cases e) }
  | rebuilt active test h => exact hx.rebuilt active test h

end Days

end Sys2Proof.Machine
end

section
/-! The operations that leave the days as they are. -/

namespace Sys2Proof.Machine

section
variable (s : State)

@[simp] theorem days_mapLp (f : LinkPort → LinkPort) : (s.mapLp f).days = s.days := rfl
@[simp] theorem days_mapCk (f : ArchiveClock → ArchiveClock) : (s.mapCk f).days = s.days := rfl
@[simp] theorem days_mapIe (f : IngestEngine → IngestEngine) : (s.mapIe f).days = s.days := rfl
@[simp] theorem days_mapIx (f : IndexController → IndexController) : (s.mapIx f).days = s.days := rfl
@[simp] theorem days_mapQa (f : QueryUnit → QueryUnit) : (s.mapQa f).days = s.days := rfl
@[simp] theorem days_mapHs (f : HotStore → HotStore) : (s.mapHs f).days = s.days := rfl
@[simp] theorem days_mapCs (f : ColdStore → ColdStore) : (s.mapCs f).days = s.days := rfl
@[simp] theorem days_mapAu (f : AuditUnit → AuditUnit) : (s.mapAu f).days = s.days := rfl
@[simp] theorem days_mapCl (f : ConfigLoader → ConfigLoader) : (s.mapCl f).days = s.days := rfl

@[simp] theorem days_mapRu (f : RetentionUnit → RetentionUnit) (h : (f s.ru).sweep.map (·.day) = s.ru.sweep.map (·.day)) :
    (s.mapRu f).days = s.days := by simp [State.days, State.active, h]

@[simp] theorem days_mapWa (f : WorkArbiter → WorkArbiter) (h : (f s.wa).packQueue = s.wa.packQueue ∧ (f s.wa).repackQueue = s.wa.repackQueue) :
    (s.mapWa f).days = s.days := by simp [State.days, State.active, h.1, h.2]

@[simp] theorem days_mapCe (f : CompactionEngine → CompactionEngine) (h : (f s.ce).coldWait = s.ce.coldWait ∧ (f s.ce).job = s.ce.job) :
    (s.mapCe f).days = s.days := by simp [State.days, State.active, h.1, h.2]

end

/-- A fold of operations that each leave the days leaves them. -/
theorem foldl_days {α : Type} (g : State → α → State) (h : ∀ s a, (g s a).days = s.days) (l : List α) (s : State) :
    (l.foldl g s).days = s.days := by
  induction l generalizing s with
  | nil => rfl
  | cons a l ih => rw [List.foldl_cons, ih, h]

/-! ### Entries and requests -/

@[simp] theorem countUp_days (c : Counter) (n : Nat) (s : State) : (countUp c n s).days = s.days := rfl
@[simp] theorem updAccount_days (source day : Nat) (f : Account → Account) (s : State) : (updAccount source day f s).days = s.days := rfl
@[simp] theorem writeSlot_days (n : Nat) (r : CallRecord) (s : State) : (writeSlot n r s).days = s.days := rfl
@[simp] theorem releaseSlot_days (n : Nat) (s : State) : (releaseSlot n s).days = s.days := rfl
@[simp] theorem putEntry_days (ref : Nat) (e : MapEntry) (s : State) : (putEntry ref e s).days = s.days := rfl
@[simp] theorem dropEntry_days (ref : Nat) (s : State) : (dropEntry ref s).days = s.days := rfl
@[simp] theorem updSeg_days (n : Nat) (f : SegEntry → SegEntry) (s : State) : (updSeg n f s).days = s.days := rfl
@[simp] theorem placeRequest_days (k : JobKind) (r : Requester) (s : State) : (placeRequest k r s).days = s.days := rfl
@[simp] theorem withdrawRequest_days (k : JobKind) (r : Requester) (s : State) : (withdrawRequest k r s).days = s.days := rfl
@[simp] theorem engineIdle_days (s : State) : (engineIdle s).days = s.days := rfl
@[simp] theorem engineBusy_days (k : JobKind) (who : Requester) (quantum : Quantum) (seg : Nat) (s : State) :
    (engineBusy k who quantum seg s).days = s.days := rfl
@[simp] theorem markDamaged_days (n : Nat) (s : State) : (markDamaged n s).days = s.days := by
  unfold markDamaged
  split <;> rfl

/-! ### The Link Port -/

@[simp] theorem enqueue_days (f : OutFrame) (s : State) : (enqueue f s).days = s.days := rfl
@[simp] theorem creditsPending_days (c : Credits) (s : State) : (creditsPending c s).days = s.days := rfl
@[simp] theorem frameCreditEarned_days (s : State) : (frameCreditEarned s).days = s.days := by
  unfold frameCreditEarned
  split <;> rfl
@[simp] theorem returnWithheld_days (s : State) : (returnWithheld s).days = s.days := by
  unfold returnWithheld
  split <;> rfl
@[simp] theorem respond_days (tag epoch status : Nat) (payload : Bytes) (s : State) : (respond tag epoch status payload s).days = s.days := rfl

/-! ### Queries and amendments -/

@[simp] theorem updCtx_days (c : Nat) (f : QueryContext → QueryContext) (s : State) : (updCtx c f s).days = s.days := rfl
@[simp] theorem openContext_days (tag epoch day : Nat) (work : QueryWork) (s : State) : (openContext tag epoch day work s).days = s.days := rfl
@[simp] theorem finishContext_days (c : Nat) (q : QueryContext) (status : Nat) (payload : Bytes) (s : State) :
    (finishContext c q status payload s).days = s.days := rfl
@[simp] theorem askDecode_days (c n : Nat) (s : State) : (askDecode c n s).days = s.days := rfl
@[simp] theorem subscriberAnswer_days (c : Nat) (q : QueryContext) (more : Bool) (g : SubscriberProgress) (s : State) :
    (subscriberAnswer c q more g s).days = s.days := rfl
@[simp] theorem conflictCounted_days (s : State) : (conflictCounted s).days = s.days := rfl
@[simp] theorem tallyAmend_days (source day : Nat) (delta : Int) (s : State) : (tallyAmend source day delta s).days = s.days := rfl
@[simp] theorem updFlight_days (c : Nat) (f : AmendFlight → AmendFlight) (s : State) : (updFlight c f s).days = s.days := rfl

/-! ### Ingest -/

@[simp] theorem updContext_days (i : Nat) (f : FileContext → FileContext) (s : State) : (updContext i f s).days = s.days := rfl
@[simp] theorem updFile_days (i : Nat) (f : OpenFile → OpenFile) (s : State) : (updFile i f s).days = s.days := rfl
@[simp] theorem freeContext_days (i : Nat) (s : State) : (freeContext i s).days = s.days := rfl
@[simp] theorem advanceIdleTimers_days (s : State) : (advanceIdleTimers s).days = s.days := rfl
@[simp] theorem compareIdleTimers_days (s : State) : (compareIdleTimers s).days = s.days := rfl
@[simp] theorem endDrain_days (e : BatchEntry) (status : Nat) (payload : Bytes) (s : State) :
    (endDrain e status payload s).days = s.days := by simp [endDrain]
@[simp] theorem updDrain_days (f : Drain → Drain) (s : State) : (updDrain f s).days = s.days := rfl
@[simp] theorem nextRecord_days (size : Nat) (s : State) : (nextRecord size s).days = s.days := rfl
@[simp] theorem tallyReceived_days (e : BatchEntry) (charge : Nat) (s : State) : (tallyReceived e charge s).days = s.days := rfl
@[simp] theorem tallyRefused_days (e : BatchEntry) (code : RefusalCode) (s : State) : (tallyRefused e code s).days = s.days := rfl
@[simp] theorem refuseRecord_days (e : BatchEntry) (charge size : Nat) (code : RefusalCode) (s : State) :
    (refuseRecord e charge size code s).days = s.days := by simp [refuseRecord]
@[simp] theorem discardDuplicate_days (e : BatchEntry) (charge size source storedDay : Nat) (conflict : Bool) (s : State) :
    (discardDuplicate e charge size source storedDay conflict s).days = s.days := by
  unfold discardDuplicate
  split <;> simp
@[simp] theorem createAccount_days (source day : Nat) (s : State) : (createAccount source day s).days = s.days := by
  unfold createAccount
  split <;> rfl
@[simp] theorem countStored_days (r : CallRecord) (s : State) : (countStored r s).days = s.days := by
  rw [countStored_eq]
  rfl
@[simp] theorem truncateBatch_days (e : BatchEntry) (s : State) : (truncateBatch e s).days = s.days := by simp [truncateBatch]
@[simp] theorem takeEntry_days (e : BatchEntry) (s : State) : (takeEntry e s).days = s.days := by
  unfold takeEntry drainOpen drainClose drainAbort
  repeat' split
  all_goals simp
@[simp] theorem drainEnds_days {s t : State} (h : drainEnds s = some t) : t.days = s.days := by
  unfold drainEnds at h
  split at h
  · split at h
    · cases h
      simp
    · cases h
  · cases h
@[simp] theorem beginDrain_days {s t : State} (h : beginDrain s = some t) : t.days = s.days := by
  unfold beginDrain at h
  split at h
  · cases h
    simp
  · cases h
@[simp] theorem restartIdle_days (e : BatchEntry) (s : State) : (restartIdle e s).days = s.days := by
  unfold restartIdle
  split <;> rfl
@[simp] theorem enqueueBatch_days (e : BatchEntry) (s : State) : (enqueueBatch e s).days = s.days := rfl

/-! ### Audit -/

@[simp] theorem serveReadAccount_days (tag epoch source day : Nat) (s : State) : (serveReadAccount tag epoch source day s).days = s.days := by
  unfold serveReadAccount
  repeat' split
  all_goals rfl
@[simp] theorem serveReadCounters_days (tag epoch bank : Nat) (s : State) : (serveReadCounters tag epoch bank s).days = s.days := by
  unfold serveReadCounters
  repeat' split
  all_goals rfl
@[simp] theorem serveClearCounters_days (tag epoch : Nat) (s : State) : (serveClearCounters tag epoch s).days = s.days := rfl
@[simp] theorem serveReadStatus_days (tag epoch : Nat) (clear : Bool) (s : State) : (serveReadStatus tag epoch clear s).days = s.days := by
  cases clear <;> rfl
@[simp] theorem updSlot_days (n : Nat) (f : ScanSlot → ScanSlot) (s : State) : (updSlot n f s).days = s.days := rfl
@[simp] theorem slotRuns_days (n : Nat) (s : State) : (slotRuns n s).days = s.days := rfl
@[simp] theorem finishSlot_days (n : Nat) (q : ScanSlot) (status : Nat) (payload : Bytes) (s : State) :
    (finishSlot n q status payload s).days = s.days := rfl
@[simp] theorem setCursor_days (day place : Nat) (s : State) : (setCursor day place s).days = s.days := rfl
@[simp] theorem endPatrol_days (s : State) : (endPatrol s).days = s.days := rfl

/-! ### Holds, retention and sweeps -/

@[simp] theorem servePlaceHold_days (tag epoch : Nat) (h : Hold) (s : State) : (servePlaceHold tag epoch h s).days = s.days := by
  unfold servePlaceHold
  repeat' split
  all_goals rfl
@[simp] theorem serveListHolds_days (tag epoch : Nat) (s : State) : (serveListHolds tag epoch s).days = s.days := rfl
@[simp] theorem servePartitionInfo_days (tag epoch d first : Nat) (s : State) : (servePartitionInfo tag epoch d first s).days = s.days := by
  unfold servePartitionInfo
  repeat' split
  all_goals rfl
@[simp] theorem setPending_days (c : CallClass) (days : Nat) (s : State) : (setPending c days s).days = s.days := rfl
@[simp] theorem queueSweep_days (s : State) (d : Nat) : (queueSweep s d).days = s.days := by
  unfold queueSweep
  split <;> rfl
@[simp] theorem sweepGranted_days (s : State) : (sweepGranted s).days = s.days := by
  unfold sweepGranted
  exact days_mapRu _ _ (by simp [Option.map_map, Function.comp_def])
@[simp] theorem walkOn_days (day ref : Nat) (s : State) : (walkOn day ref s).days = s.days := by
  unfold walkOn
  exact days_mapRu _ _ (by simp [Option.map_map, Function.comp_def])

/-! ### The throttle window and the Configuration Loader -/

@[simp] theorem comparePhase_days (s : State) : (comparePhase s).days = s.days := by
  unfold comparePhase
  split <;> rfl
@[simp] theorem tickPhase_days (s : State) : (tickPhase s).days = s.days := by simp [tickPhase]
@[simp] theorem putSettings_days (values : List Nat) (s : State) : (putSettings values s).days = s.days := rfl
@[simp] theorem namedRetention_days (els : List (Nat × Nat)) (c : CallClass) (s : State) : (namedRetention els c s).days = s.days := by
  unfold namedRetention
  split <;> rfl
@[simp] theorem serveSaveConfig_days (tag epoch : Nat) (s : State) : (serveSaveConfig tag epoch s).days = s.days := rfl
@[simp] theorem serveReset_days (tag epoch : Nat) (s : State) : (serveReset tag epoch s).days = s.days := by
  unfold serveReset
  split <;> rfl
@[simp] theorem eepromCompleted_days (fault : Bool) (s : State) : (eepromCompleted fault s).days = s.days := by
  unfold eepromCompleted
  repeat' split
  all_goals rfl

end Sys2Proof.Machine
end

section
/-! Every operation moves the days by single changes: one lemma for each operation that does not leave them as they are. -/

namespace Sys2Proof.Machine

/-- From s to t the days have gone by single changes. -/
def Moves (s t : State) : Prop := Relation.ReflTransGen Days.Step s.days t.days

/-- Changes of a partition that touch neither its state nor its pins, mover and wait queue. -/
theorem Partition.Tidy.of_fields {p q : Partition} (hs : q.state = p.state) (hp : q.pins = p.pins) (hh : q.moverHolding = p.moverHolding)
    (hw : q.moverWaiting = p.moverWaiting) (hq : q.waitQueue = p.waitQueue) : p.Tidy q :=
  ⟨hs, fun h => { pins := hp ▸ h.pins, holding := by rw [hh, hp]; exact h.holding, waiting := by rw [hw, hq]; exact h.waiting }⟩

theorem Days.Enters.of_fields {st : PartState} {p q : Partition} (hs : q.state = st) (hp : q.pins = p.pins)
    (hh : q.moverHolding = p.moverHolding) (hw : q.moverWaiting = p.moverWaiting) (hq : q.waitQueue = p.waitQueue) : Days.Enters st p q :=
  ⟨hs, fun h => { pins := hp ▸ h.pins, holding := by rw [hh, hp]; exact h.holding, waiting := by rw [hw, hq]; exact h.waiting }⟩

namespace Moves

variable {s t u : State}

theorem refl (s : State) : Moves s s := Relation.ReflTransGen.refl

theorem trans (h : Moves s t) (h' : Moves t u) : Moves s u := Relation.ReflTransGen.trans h h'

/-- An operation that leaves the days may follow. -/
theorem keeps (h : Moves s t) (e : u.days = t.days) : Moves s u := by
  unfold Moves
  rw [e]
  exact h

theorem of_days (e : t.days = s.days) : Moves s t := (refl s).keeps e

theorem step (h : Moves s t) (hs : Days.Step t.days u.days) : Moves s u := h.tail hs

theorem goes (h : Moves s t) {d : Days} (hs : Days.Step t.days d) (e : u.days = d) : Moves s u := h.step (e ▸ hs)

theorem foldl {α : Type} {g : State → α → State} (hg : ∀ t a, Moves t (g t a)) (h : Moves s t) (l : List α) : Moves s (l.foldl g t) := by
  induction l generalizing t with
  | nil => exact h
  | cons a l ih => exact ih (h.trans (hg t a))

/-! ### Partitions -/

theorem updPart (h : Moves s t) (day : Nat) {f : Partition → Partition} (hf : ∀ p, Partition.Tidy p (f p)) :
    Moves s (Machine.updPart day f t) := h.step (.tidy day f hf)

theorem mapParts (h : Moves s t) {f : Nat → Partition → Partition} (hf : ∀ d p, Partition.Tidy p (f d p)) :
    Moves s (Machine.mapParts f t) := h.step (.tidyAll f hf)

theorem withQueue_tidy (p : Partition) (q : List Waiter) : Partition.Tidy p (p.withQueue q) := ⟨rfl, fun h => Days.pinned_withQueue h q⟩

theorem joinQueue (h : Moves s t) (day : Nat) (w : Waiter) : Moves s (Machine.joinQueue day w t) :=
  h.updPart day fun p => withQueue_tidy p _

theorem leaveQueue (h : Moves s t) (day : Nat) (w : Waiter) : Moves s (Machine.leaveQueue day w t) :=
  h.updPart day fun p => withQueue_tidy p _

theorem releasePin (h : Moves s t) (day : Nat) : Moves s (Machine.releasePin day t) :=
  h.updPart day fun p => ⟨rfl, fun hp =>
    { pins := (Nat.sub_le _ _).trans hp.pins, holding := fun e => (by show p.pins - 1 = 0; rw [hp.holding e]), waiting := hp.waiting }⟩

theorem releaseMover (h : Moves s t) (day : Nat) : Moves s (Machine.releaseMover day t) :=
  h.updPart day fun p => ⟨rfl, fun hp => { pins := hp.pins, holding := fun e => (by cases e), waiting := hp.waiting }⟩

theorem moveOnward (h : Moves s t) : Moves s (Machine.moveOnward t) := by
  rw [moveOnward_eq]
  exact h.step (.onward t.wa.pressure)

theorem evalPressure (h : Moves s t) : Moves s (Machine.evalPressure t) := by
  unfold Machine.evalPressure
  repeat' split
  · exact h.keeps (by simp)
  · exact h
  · exact moveOnward (h.keeps (by simp))
  · exact h

theorem closeDays (h : Moves s t) : Moves s (Machine.closeDays t) :=
  h.mapParts fun d p => by split <;> exact .of_fields rfl rfl rfl rfl rfl

theorem allocatePart (h : Moves s t) (day : Nat) : Moves s (Machine.allocatePart day t) := by
  unfold Machine.allocatePart
  split
  · exact h
  · rename_i hn
    exact h.step (.allocate day _ hn)

theorem advanceQuiet_tidy (code n : Nat) (p : Partition) : Partition.Tidy p (p.advanceQuiet code n) := by
  unfold Partition.advanceQuiet
  repeat' split
  all_goals exact .of_fields rfl rfl rfl rfl rfl

theorem expireQuiet_tidy (code : Nat) (p : Partition) : Partition.Tidy p (p.expireQuiet code) := by
  unfold Partition.expireQuiet
  split <;> exact .of_fields rfl rfl rfl rfl rfl

theorem advanceQuietTimers (h : Moves s t) (n : Nat) : Moves s (Machine.advanceQuietTimers n t) :=
  h.mapParts fun _ p => advanceQuiet_tidy _ n p

theorem compareQuietTimers (h : Moves s t) : Moves s (Machine.compareQuietTimers t) := h.mapParts fun _ p => expireQuiet_tidy _ p

theorem activity (h : Moves s t) (a : Activity) (day : Nat) : Moves s (Machine.activity a day t) := by
  unfold Machine.activity
  dsimp only
  split
  · exact h
  · rename_i p hp
    split
    · rename_i hs
      split
      · refine h.updPart day fun q => ?_
        exact .of_fields rfl rfl rfl rfl rfl
      · exact h
    · rename_i hs
      split
      · refine h.step (.reopen day (fun q => { q with state := .opened, quietElapsed := 0, quietExpired := false }) (fun q => .of_fields rfl rfl rfl rfl rfl) ?_)
        have : Tab.get t.pc.parts day = some p := hp
        simp [Days.stateOf, State.days, this, hs]
      · exact h
    · exact h

theorem repackTest (h : Moves s t) (test : Partition → Bool) (day : Nat) : Moves s (Machine.repackTest test day t) := by
  unfold Machine.repackTest
  split
  · rename_i p hp
    split
    · rename_i hs
      refine h.step (.repack day ?_)
      have : Tab.get t.pc.parts day = some p := hp
      simp [Days.stateOf, State.days, this, hs.1]
    · exact h
  · exact h

/-! ### Segments -/

theorem freeSegment (h : Moves s t) (n day : Nat) : Moves s (Machine.freeSegment n day t) := by
  rw [freeSegment_eq]
  exact (h.updPart (f := fun p => { p with segments := p.segments.filter (· != n) }) day
    fun p => .of_fields rfl rfl rfl rfl rfl).step .segmentFree

theorem segmentLoses (h : Moves s t) (n : Nat) : Moves s (Machine.segmentLoses n t) := by
  unfold Machine.segmentLoses
  split
  · exact h
  · split
    · exact h.freeSegment n _
    · exact h.keeps (by simp)

/-! ### Retention and time -/

theorem schedulePass (h : Moves s t) (sel : Nat → Partition → CallClass → Bool) : Moves s (Machine.schedulePass sel t) := by
  unfold Machine.schedulePass
  split
  · refine (h.mapParts fun d p => ?_).keeps (foldl_days _ queueSweep_days _ _)
    split <;> exact .of_fields rfl rfl rfl rfl rfl
  · exact h

theorem fullPass (h : Moves s t) : Moves s (Machine.fullPass t) := h.schedulePass _

theorem activateRetention (h : Moves s t) : Moves s (Machine.activateRetention t) := fullPass (h.keeps (by simp))

theorem serveSetRetention (h : Moves s t) (tag epoch cls days : Nat) (now : Bool) :
    Moves s (Machine.serveSetRetention tag epoch cls days now t) := by
  unfold Machine.serveSetRetention
  split
  · exact h.keeps (by simp)
  · cases now
    · exact h.keeps (by simp)
    · exact (activateRetention (h.keeps (setPending_days _ _ _))).keeps rfl

theorem serveReleaseHold (h : Moves s t) (tag epoch id : Nat) : Moves s (Machine.serveReleaseHold tag epoch id t) := by
  unfold Machine.serveReleaseHold
  split
  · exact h.keeps (by simp)
  · refine (schedulePass (mapParts (h.keeps ?_) fun d p => ?_) _).keeps rfl
    · simp
    · exact .of_fields rfl rfl rfl rfl rfl

theorem rollover (h : Moves s t) : Moves s (Machine.rollover t) :=
  (activateRetention (closeDays (h.keeps (u := t.mapCk _) rfl))).keeps rfl

/-- A rollover where one is due. -/
theorem raised (h : Moves s t) : Moves s (if t.rolloverDue then Machine.rollover t else t) := by
  split
  · exact h.rollover
  · exact h

theorem timeTaken (h : Moves s t) (wasSet : Bool) :
    Moves s (if t.rolloverDue then Machine.rollover t else if wasSet then t else Machine.fullPass t) := by
  split
  · exact h.rollover
  split
  · exact h
  · exact h.fullPass

theorem serveSetTime (h : Moves s t) (tag epoch time : Nat) : Moves s (Machine.serveSetTime tag epoch time t) := by
  unfold Machine.serveSetTime
  split
  · exact h.keeps rfl
  · refine (moveOnward (timeTaken ?_ t.ck.clockSet)).keeps rfl
    have hck : Moves s (t.mapCk fun k => { k with archiveTime := time, clockSet := true }) := h.keeps rfl
    cases t.ck.clockSet
    · exact hck
    · exact hck.advanceQuietTimers _

theorem serveCloseDay (h : Moves s t) (tag epoch d : Nat) : Moves s (Machine.serveCloseDay tag epoch d t) := by
  unfold Machine.serveCloseDay
  repeat' split
  all_goals try exact h.keeps rfl
  exact (moveOnward (h.updPart (f := fun p => { p with dayClosed := true }) d fun p => .of_fields rfl rfl rfl rfl rfl)).keeps rfl

end Moves

end Sys2Proof.Machine
end

section
/-! The days through the query contexts, the Ingest Engine and the Audit Unit. -/

namespace Sys2Proof.Machine.Moves

variable {s t : State}

/-! ### Query contexts -/

theorem finishContext (h : Moves s t) (c : Nat) (q : QueryContext) (status : Nat) (payload : Bytes) :
    Moves s (Machine.finishContext c q status payload t) := h.keeps rfl

theorem askDecode (h : Moves s t) (c n : Nat) : Moves s (Machine.askDecode c n t) := h.keeps rfl

theorem takeFetch (h : Moves s t) (tag epoch ref : Nat) : Moves s (Machine.takeFetch tag epoch ref t) := by
  unfold Machine.takeFetch
  repeat' split
  all_goals first | exact joinQueue (h.keeps (by rfl)) _ _ | exact h.keeps rfl

theorem fetchRead (h : Moves s t) (c : Nat) (q : QueryContext) (r : CallRecord) : Moves s (Machine.fetchRead c q r t) :=
  ((h.releasePin q.day).activity .query q.day).keeps rfl

theorem fetchPinned (h : Moves s t) (c : Nat) (q : QueryContext) (ref : Nat) : Moves s (Machine.fetchPinned c q ref t) := by
  have away (status : Nat) : Moves s (Machine.finishContext c q status [] (Machine.releasePin q.day t)) := (h.releasePin q.day).keeps rfl
  unfold Machine.fetchPinned
  split
  · exact away _
  · split
    · split
      · exact h.fetchRead c q _
      · exact away _
    · split
      · exact h.keeps rfl
      · exact away _

theorem subscriberNext (h : Moves s t) (c : Nat) (q : QueryContext) (p : SubscriberParams) (g : SubscriberProgress) (first : Nat) :
    Moves s (Machine.subscriberNext c q p g first t) := by
  unfold Machine.subscriberNext
  split
  · exact h.keeps rfl
  · exact joinQueue (h.keeps (by rfl)) _ _

theorem takeSubscriber (h : Moves s t) (tag epoch : Nat) (p : SubscriberParams) : Moves s (Machine.takeSubscriber tag epoch p t) := by
  unfold Machine.takeSubscriber
  split
  · exact h.keeps rfl
  · dsimp only
    split
    · refine subscriberNext (h.keeps ?_) _ _ _ _ _
      rfl
    · exact h.keeps rfl

theorem subscriberDayEnd (h : Moves s t) (c : Nat) (q : QueryContext) (p : SubscriberParams) (g : SubscriberProgress) :
    Moves s (Machine.subscriberDayEnd c q p g t) := by
  have hr := h.releasePin q.day
  unfold Machine.subscriberDayEnd
  dsimp only
  split
  · exact hr.keeps rfl
  · split
    · exact hr.keeps rfl
    · exact hr.subscriberNext _ _ _ _ _

theorem subscriberGoOn (h : Moves s t) (c : Nat) (q : QueryContext) (p : SubscriberParams) (g : SubscriberProgress) :
    Moves s (Machine.subscriberGoOn c q p g t) := by
  unfold Machine.subscriberGoOn
  split
  · exact h.subscriberDayEnd c q p g
  · exact h.keeps rfl

theorem subscriberPinned (h : Moves s t) (c : Nat) (q : QueryContext) (p : SubscriberParams) (g : SubscriberProgress) :
    Moves s (Machine.subscriberPinned c q p g t) := (h.activity .query q.day).subscriberGoOn c q p _

theorem subscriberDecoded (h : Moves s t) (c : Nat) (q : QueryContext) (p : SubscriberParams) (g : SubscriberProgress)
    (rs : Option (List CallRecord)) : Moves s (Machine.subscriberDecoded c q p g rs t) := by
  unfold Machine.subscriberDecoded
  split
  · exact (h.releasePin q.day).keeps rfl
  · split <;> exact h.subscriberGoOn c q p _

theorem cancelSubscriber (h : Moves s t) (c : Nat) (q : QueryContext) : Moves s (Machine.cancelSubscriber c q t) := by
  unfold Machine.cancelSubscriber
  split
  · exact (h.leaveQueue q.day (.query c)).keeps rfl
  · exact (releasePin (h.keeps (u := Machine.withdrawRequest .query (.query c) t) rfl) q.day).keeps rfl
  · exact h.keeps rfl

/-! ### Amendments -/

theorem amendInPlace (h : Moves s t) (p : AmendParams) (slot : Nat) (r : CallRecord) : Moves s (Machine.amendInPlace p slot r t) := by
  unfold Machine.amendInPlace
  refine activity (h.keeps ?_) .amend r.day
  rfl

theorem startMoving (h : Moves s t) (tag epoch : Nat) (p : AmendParams) (e : MapEntry) : Moves s (Machine.startMoving tag epoch p e t) := by
  unfold Machine.startMoving
  exact joinQueue (h.keeps (by rfl)) _ _

theorem takeAmend (h : Moves s t) (tag epoch : Nat) (p : AmendParams) : Moves s (Machine.takeAmend tag epoch p t) := by
  unfold Machine.takeAmend
  split
  · exact h.keeps rfl
  split
  · exact h.keeps rfl
  split
  · exact h.keeps rfl
  split
  · exact h.keeps rfl
  split
  · exact h.keeps rfl
  split
  · split
    · exact h.startMoving tag epoch p _
    · exact h.keeps rfl
  · split
    · split
      · exact (h.amendInPlace p _ _).keeps rfl
      · exact h.startMoving tag epoch p _
    · exact h.keeps rfl

theorem amendAsksMover (h : Moves s t) (c : Nat) (q : QueryContext) (loc : Location) (r : CallRecord) :
    Moves s (Machine.amendAsksMover c q loc r t) := by
  unfold Machine.amendAsksMover
  exact joinQueue (releasePin (h.keeps (by rfl)) q.day) q.day (.move c)

theorem amendPinned (h : Moves s t) (c : Nat) (q : QueryContext) (p : AmendParams) : Moves s (Machine.amendPinned c q p t) := by
  have hr := h.releasePin q.day
  unfold Machine.amendPinned
  split
  · exact hr.keeps rfl
  split
  · exact hr.keeps rfl
  split
  · split
    · exact h.keeps rfl
    · exact hr.keeps rfl
  · split
    · split
      · exact ((h.amendInPlace p _ _).releasePin q.day).keeps rfl
      · exact h.amendAsksMover c q _ _
    · exact hr.keeps rfl

theorem leaveOldLocation (h : Moves s t) (day : Nat) (old : Location) : Moves s (Machine.leaveOldLocation day old t) := by
  unfold Machine.leaveOldLocation
  split
  · exact (h.segmentLoses _).updPart day fun p => .of_fields rfl rfl rfl rfl rfl
  · split
    · exact h.updPart day fun p => .of_fields rfl rfl rfl rfl rfl
    · exact h.keeps rfl

theorem amendMove (h : Moves s t) (p : AmendParams) (old : Location) (copy : CallRecord) : Moves s (Machine.amendMove p old copy t) := by
  have hw : Moves s (putEntry p.ref ((amendedVersion p copy).entry (.hot t.nextSlot)) (writeSlot t.nextSlot (amendedVersion p copy) t)) :=
    h.keeps rfl
  exact repackTest (activity (keeps (hw.leaveOldLocation (amendedVersion p copy).day old) (tallyAmend_days _ _ _ _)) .amend _) _ _

theorem amendAdmitted (h : Moves s t) (c : Nat) (q : QueryContext) (p : AmendParams) (f : AmendFlight) :
    Moves s (Machine.amendAdmitted c q p f t) := by
  have hr := h.releaseMover q.day
  unfold Machine.amendAdmitted
  dsimp only
  split
  · exact hr.keeps rfl
  split
  · exact hr.keeps rfl
  split
  · exact hr.keeps rfl
  split
  · exact hr.keeps rfl
  · exact (hr.amendMove p _ _).keeps rfl

/-! ### What a context does at its events -/

theorem queryPinned (h : Moves s t) (c : Nat) : Moves s (Machine.queryPinned c t) := by
  unfold Machine.queryPinned
  split
  · exact h
  split
  · exact h.fetchPinned c _ _
  · exact h.subscriberPinned c _ _ _
  · exact h.amendPinned c _ _

theorem queryDecoded (h : Moves s t) (c : Nat) (rs : Option (List CallRecord)) : Moves s (Machine.queryDecoded c rs t) := by
  unfold Machine.queryDecoded
  split
  · exact h
  rename_i q _
  have hr := h.releasePin q.day
  split
  · exact h.subscriberDecoded c _ _ _ rs
  · split
    · exact hr.keeps rfl
    · exact h.fetchRead c _ _
  · split
    · exact hr.keeps rfl
    · exact h.amendAsksMover c _ _ _

theorem moveAdmitted (h : Moves s t) (c : Nat) : Moves s (Machine.moveAdmitted c t) := by
  unfold Machine.moveAdmitted
  split
  · split
    · exact h.amendAdmitted c _ _ _
    · exact h
  · exact h

theorem queryReleased (h : Moves s t) (c : Nat) : Moves s (Machine.queryReleased c t) := by
  unfold Machine.queryReleased
  split
  · exact h
  split
  · exact h.subscriberNext c _ _ _ _
  · exact h.keeps rfl

/-! ### Ingest -/

theorem commitRecord (h : Moves s t) (r : CallRecord) : Moves s (Machine.commitRecord r t) := by
  unfold Machine.commitRecord
  refine moveOnward (repackTest ?_ _ _)
  refine activity ?_ .ingest _
  refine keeps ?_ (countStored_days _ _)
  refine keeps ?_ (updAccount_days _ _ _ _)
  refine updPart ?_ _ fun p => .of_fields rfl rfl rfl rfl rfl
  refine keeps (h.allocatePart r.day) ?_
  exact createAccount_days _ _ _

theorem storeRecord (h : Moves s t) (e : BatchEntry) (size : Nat) (r : CallRecord) : Moves s (Machine.storeRecord e size r t) := by
  unfold Machine.storeRecord
  refine keeps (commitRecord (h.keeps ?_) r) (nextRecord_days _ _)
  rfl

theorem refuseRecord (h : Moves s t) (e : BatchEntry) (charge size : Nat) (code : RefusalCode) :
    Moves s (Machine.refuseRecord e charge size code t) := h.keeps (by simp)

theorem findDuplicate (h : Moves s t) (e : BatchEntry) (size : Nat) (r : CallRecord) (m : MapEntry) :
    Moves s (Machine.findDuplicate e size r m t) := by
  unfold Machine.findDuplicate
  split
  · exact h.keeps (by simp)
  · exact joinQueue (h.keeps (by rfl)) _ _

theorem decideFromDay (h : Moves s t) (e : BatchEntry) (size : Nat) (r : CallRecord) : Moves s (Machine.decideFromDay e size r t) := by
  unfold Machine.decideFromDay
  split
  · exact h.refuseRecord e _ _ _
  split
  · exact h.refuseRecord e _ _ _
  split
  · exact h.findDuplicate e size r _
  split
  · exact h.refuseRecord e _ _ _
  · exact h.storeRecord e size r

theorem decideNext (h : Moves s t) : Moves s (Machine.decideNext t) := by
  unfold Machine.decideNext
  split
  · split
    · dsimp only
      split
      · exact h.keeps (by simp)
      · unfold Machine.decideRecord
        split
        · exact h.refuseRecord _ _ _ _
        split
        · exact h.refuseRecord _ _ _ _
        split
        · exact h.refuseRecord _ _ _ _
        · exact h.decideFromDay _ _ _
    · exact h
  · exact h

theorem compareDone (h : Moves s t) (e : BatchEntry) (p : PendingDuplicate) (conflict : Bool) : Moves s (Machine.compareDone e p conflict t) :=
  (h.releasePin p.day).keeps (by simp [Machine.compareDone])

theorem compareByEntry (h : Moves s t) (e : BatchEntry) (p : PendingDuplicate) : Moves s (Machine.compareByEntry e p t) := by
  unfold Machine.compareByEntry
  split
  · exact h.compareDone e p _
  · exact decideFromDay (releasePin (h.keeps (by rfl)) p.day) e _ _

theorem ingestPinned (h : Moves s t) : Moves s (Machine.ingestPinned t) := by
  unfold Machine.ingestPinned
  split
  · split
    · exact h
    split
    · exact decideFromDay (releasePin (h.keeps (by rfl)) _) _ _ _
    split
    · split
      · exact h.compareDone _ _ _
      · exact h.compareByEntry _ _
    · split
      · exact h.keeps rfl
      · exact h.compareByEntry _ _
  · exact h

theorem ingestDecoded (h : Moves s t) (rs : Option (List CallRecord)) : Moves s (Machine.ingestDecoded rs t) := by
  unfold Machine.ingestDecoded
  split
  · split
    · exact h
    split
    · exact h.compareDone _ _ _
    · exact h.compareByEntry _ _
  · exact h

theorem ingestReleased (h : Moves s t) : Moves s (Machine.ingestReleased t) := by
  unfold Machine.ingestReleased
  split
  · split
    · exact h
    · exact decideFromDay (h.keeps (by rfl)) _ _ _
  · exact h

/-! ### Scan slots -/

theorem scanNext (h : Moves s t) (n : Nat) (q : ScanSlot) (work : ScanWork) (first : Nat) : Moves s (Machine.scanNext n q work first t) := by
  unfold Machine.scanNext
  split
  · exact h.keeps rfl
  · exact joinQueue (h.keeps (by rfl)) _ _

theorem takeSlot (h : Moves s t) (tag epoch first : Nat) (work : ScanWork) : Moves s (Machine.takeSlot tag epoch first work t) := by
  unfold Machine.takeSlot
  exact scanNext (h.keeps (by rfl)) _ _ _ _

theorem serveAuditScan (h : Moves s t) (tag epoch : Nat) (f : ScanFilter) : Moves s (Machine.serveAuditScan tag epoch f t) := by
  unfold Machine.serveAuditScan
  split
  · exact h.keeps rfl
  split
  · exact h.keeps rfl
  · exact h.takeSlot tag epoch _ _

theorem serveVerifyDays (h : Moves s t) (tag epoch first last : Nat) : Moves s (Machine.serveVerifyDays tag epoch first last t) := by
  unfold Machine.serveVerifyDays
  split
  · exact h.keeps rfl
  split
  · exact h.keeps rfl
  · exact h.takeSlot tag epoch _ _

theorem scanGoOn (h : Moves s t) (n : Nat) (q : ScanSlot) (work : ScanWork) (toRead : List Nat) :
    Moves s (Machine.scanGoOn n q work toRead t) := by
  unfold Machine.scanGoOn
  split
  · exact (h.releasePin q.visiting).scanNext n q _ _
  · exact h.keeps rfl

theorem scanPinned (h : Moves s t) (n : Nat) : Moves s (Machine.scanPinned n t) := by
  unfold Machine.scanPinned
  split
  · exact h
  · dsimp only
    split <;> exact h.scanGoOn n _ _ _

theorem scanDecoded (h : Moves s t) (n : Nat) (rs : Option (List CallRecord)) : Moves s (Machine.scanDecoded n rs t) := by
  unfold Machine.scanDecoded
  split
  · exact h
  split
  · exact h
  split
  · exact (h.releasePin _).keeps rfl
  · exact h.scanGoOn n _ _ _

theorem verifyChecked (h : Moves s t) (n : Nat) (outcome : CheckOutcome) : Moves s (Machine.verifyChecked n outcome t) := by
  unfold Machine.verifyChecked
  split
  · exact h
  split
  · exact h
  split
  · exact (h.releasePin _).keeps rfl
  · exact h.scanGoOn n _ _ _

theorem scanReleased (h : Moves s t) (n : Nat) : Moves s (Machine.scanReleased n t) := by
  unfold Machine.scanReleased
  split
  · exact h
  · exact h.scanNext n _ _ _

theorem cancelSlot (h : Moves s t) (n : Nat) (q : ScanSlot) : Moves s (Machine.cancelSlot n q t) := by
  unfold Machine.cancelSlot
  split
  · exact (h.leaveQueue q.visiting (.scan n)).keeps rfl
  · exact (releasePin (h.keeps (u := Machine.withdrawRequest q.work.kind (.slot n) t) rfl) q.visiting).keeps rfl
  · exact h.keeps rfl

theorem serveCancel (h : Moves s t) (tag epoch target : Nat) : Moves s (Machine.serveCancel tag epoch target t) := by
  have hr : Moves s (respond tag epoch Status.ok [] t) := h.keeps rfl
  unfold Machine.serveCancel
  split
  · exact h.keeps rfl
  split
  · exact hr.cancelSlot _ _
  split
  · exact hr.cancelSubscriber _ _
  · exact h.keeps rfl

/-! ### The patrol -/

theorem patrolAsks (h : Moves s t) (p : PatrolStep) (d : Nat) : Moves s (Machine.patrolAsks p d t) := joinQueue (h.keeps (by rfl)) _ _

theorem patrolFound (h : Moves s t) (p : PatrolStep) (d : Nat) : Moves s (Machine.patrolFound p d t) := by
  unfold Machine.patrolFound
  split
  · exact h.patrolAsks _ _
  split
  · exact h.keeps rfl
  · exact h.patrolAsks _ _

theorem patrolSearch (h : Moves s t) (p : PatrolStep) : Moves s (Machine.patrolSearch p t) := by
  unfold Machine.patrolSearch
  split
  · exact h.patrolFound _ _
  split
  · exact h.keeps rfl
  split
  · exact h.keeps rfl
  · exact patrolFound (h.keeps (by rfl)) _ _

theorem comparePatrolTimer (h : Moves s t) : Moves s (Machine.comparePatrolTimer t) := by
  unfold Machine.comparePatrolTimer
  split
  · exact h.patrolSearch _
  · exact h

theorem advancePatrolTimer (h : Moves s t) : Moves s (Machine.advancePatrolTimer t) := by
  unfold Machine.advancePatrolTimer
  refine comparePatrolTimer ?_
  split
  · exact h.keeps rfl
  · exact h

theorem patrolPast (h : Moves s t) (p : PatrolStep) : Moves s (Machine.patrolPast p t) := patrolSearch (h.keeps (by rfl)) _

theorem patrolPinned (h : Moves s t) : Moves s (Machine.patrolPinned t) := by
  unfold Machine.patrolPinned
  split
  · exact h
  · dsimp only
    split
    · exact h.keeps rfl
    · exact (h.releasePin _).patrolPast _

theorem patrolChecked (h : Moves s t) : Moves s (Machine.patrolChecked t) := by
  unfold Machine.patrolChecked
  split
  · exact h
  · exact (h.releasePin _).keeps rfl

theorem patrolReleased (h : Moves s t) : Moves s (Machine.patrolReleased t) := by
  unfold Machine.patrolReleased
  split
  · exact h
  · exact h.patrolPast _

end Sys2Proof.Machine.Moves
end

section
/-! The days through jobs and sweeps. -/

namespace Sys2Proof.Machine

/-- The job context and the sweep in flight: what an operation on records leaves of them. -/
def State.workers (s : State) : Option Job × Option Sweep := (s.ce.job, s.ru.sweep)

@[simp] theorem segmentLoses_workers (n : Nat) (s : State) : (segmentLoses n s).workers = s.workers := by
  obtain ⟨cs, parts, full, wait, q, h, -⟩ := segmentLoses_eq n s
  rw [h]
  rfl

theorem switchMember_workers (n : Nat) (acc : State × Nat) (m : Member × Nat) : (switchMember n acc m).1.workers = acc.1.workers := by
  obtain ⟨⟨ref, loc, copy⟩, o⟩ := m
  unfold switchMember
  dsimp only
  split
  · split
    · cases loc
      · rfl
      · exact segmentLoses_workers _ _
    · cases loc <;> rfl
  · cases loc <;> rfl

theorem switchMembers_workers (n : Nat) (ms : List (Member × Nat)) (acc : State × Nat) :
    (ms.foldl (switchMember n) acc).1.workers = acc.1.workers := by
  induction ms generalizing acc with
  | nil => rfl
  | cons m ms ih => rw [List.foldl_cons, ih, switchMember_workers]

theorem switchSegment_workers (day : Nat) (s : State) (w : Nat × List Member) : (switchSegment day s w).workers = s.workers := by
  have h := switchMembers_workers w.1 w.2.zipIdx (s, 0)
  unfold switchSegment
  dsimp only
  split <;> exact h

theorem switchSegments_workers (day : Nat) (ws : List (Nat × List Member)) (s : State) :
    (ws.foldl (switchSegment day) s).workers = s.workers := by
  induction ws generalizing s with
  | nil => rfl
  | cons w ws ih => rw [List.foldl_cons, ih, switchSegment_workers]

theorem leaveStore_workers (day : Nat) (loc : Location) (s : State) : (leaveStore day loc s).workers = s.workers := by
  cases loc
  · rfl
  · exact segmentLoses_workers _ _

theorem decideEntry_workers (ref : Nat) (e : MapEntry) (s : State) : (decideEntry ref e s).workers = s.workers := by
  unfold decideEntry
  split
  · rfl
  split
  · rfl
  split
  · rfl
  · exact leaveStore_workers e.day e.loc (dropEntry ref s)

/-- The job of the context, as the days see it. -/
theorem days_job {s : State} {j : Job} (h : s.ce.job = some j) : s.days.job = some (j.day, j.repack) := by simp [State.days, h]

theorem days_sweep {s : State} {w : Sweep} (h : s.ru.sweep = some w) : s.days.sweep = some w.day := by simp [State.days, h]

/-- A job context that changes neither its day nor its kind leaves the days. -/
theorem setJob_days {s : State} {j k : Job} (h : s.ce.job = some j) (hd : k.day = j.day) (hr : k.repack = j.repack) :
    (setJob (some k) s).days = s.days := by
  simp [State.days, setJob, State.mapCe, h, hd, hr, State.active]

theorem jobAsks_days {s : State} {j k : Job} (h : s.ce.job = some j) (hd : k.day = j.day) (hr : k.repack = j.repack) :
    (jobAsks k s).days = s.days := (placeRequest_days _ _ _).trans (setJob_days h hd hr)

/-- The state in which the first REPACK quantum of a day takes its snapshot (R122). -/
def repackBegun (day : Nat) (s : State) : State :=
  updPart day (fun p => { p with state := .repacking }) (s.mapWa fun w => { w with repackQueue := w.repackQueue.filter (· != day) })

theorem repackSnapshot_cases (day : Nat) (s : State) : repackSnapshot day s = emptyRepack day (repackBegun day s) ∨
    ∃ members toDecode, repackSnapshot day s = decodingGoesOn (newJob true day .decoding members [] toDecode) (repackBegun day s) := by
  unfold repackSnapshot
  dsimp only
  repeat' split
  all_goals first | exact .inl rfl | exact .inr ⟨_, _, by rfl⟩

/-- What follows the decodes sets the job context anew. -/
theorem decodingGoesOn_setJob (j : Job) (s : State) : decodingGoesOn j s = decodingGoesOn j (setJob (some j) s) := by
  unfold decodingGoesOn decodingDone
  dsimp only
  split
  · split <;> rfl
  · rfl

theorem joinPack_days (day : Nat) (s : State) : (joinPack day s).days =
    { s.days with pack := if day ∈ s.days.pack then s.days.pack else s.days.pack ++ [day] } := rfl

theorem unwindJob_days (j : Job) (t : State) : ∃ f : Partition → Partition,
    (∀ p, Days.Enters (if j.repack then .packed else .quiet) p (f p)) ∧
    (unwindJob j t).days = { t.days with parts := Tab.upd t.days.parts j.day f, job := none } := by
  rw [unwindJob_eq]
  exact ⟨fun p => { p with hotCount := p.hotCount - movedSlots j.members t, state := if j.repack then .packed else .quiet },
    fun p => .of_fields rfl rfl rfl rfl rfl, rfl⟩

/-- A partition FREE again, before its waiters are told (R53, R146). -/
def clearDay (day : Nat) (s : State) : State :=
  { s with
    pc := { s.pc with parts := Tab.del s.pc.parts day }
    wa := { s.wa with packQueue := s.wa.packQueue.filter (· != day), repackQueue := s.wa.repackQueue.filter (· != day) }
    ce := { s.ce with coldWait := s.ce.coldWait.filter (· != day) }
    ru := { s.ru with queue := Tab.del s.ru.queue day }
    au := { s.au with accounts := Tab.keep s.au.accounts fun k _ => decide (k % 65536 ≠ day) } }

/-- The waiters of a day, in arrival order. -/
def State.waiters (s : State) (day : Nat) : List Waiter := (s.part day).elim [] (·.waitQueue)

theorem freePartition_eq (day : Nat) (s : State) : freePartition day s = (s.waiters day).foldl waiterReleased (clearDay day s) := by
  simp only [freePartition, State.waiters, clearDay, leavePack, State.mapWa, State.mapCe, State.mapRu, State.mapAu, State.mapPc]
  cases s.part day <;> rfl

theorem del_upd {α : Type} (t : Tab α) (k : Nat) (f : α → α) : Tab.del (Tab.upd t k f) k = Tab.del t k := by
  induction t with
  | nil => rfl
  | cons e t ih =>
    simp only [Tab.del, Tab.upd, List.map_cons, List.filter_cons] at ih ⊢
    by_cases h : e.1 = k
    · simp [h, ih]
    · simp [h, ih]

theorem restartOrLeave_sweep (day : Nat) (s : State) : (restartOrLeave day s).days.sweep = s.days.sweep := by
  unfold restartOrLeave
  repeat' split
  all_goals rfl

namespace Moves

variable {s t : State}

/-! ### Jobs -/

theorem emptyRepack (h : Moves s t) {j : Job} (hj : t.ce.job = some j) : Moves s (Machine.emptyRepack j.day t) :=
  h.step (.jobPacked j.day j.repack (fun p => { p with state := .packed }) (fun _ => .of_fields rfl rfl rfl rfl rfl) (days_job hj))

theorem decodingGoesOn (h : Moves s t) {j k : Job} (hj : t.ce.job = some j) (hd : k.day = j.day) (hr : k.repack = j.repack) :
    Moves s (Machine.decodingGoesOn k t) := by
  unfold Machine.decodingGoesOn Machine.decodingDone
  dsimp only
  split
  · split
    · rw [hd]
      exact h.emptyRepack hj
    · exact h.keeps (jobAsks_days hj hd hr)
  · exact h.keeps (jobAsks_days hj hd hr)

theorem decodeTaken (h : Moves s t) (n : Nat) (rs : Option (List CallRecord)) : Moves s (Machine.decodeTaken n rs t) := by
  unfold Machine.decodeTaken
  split
  · exact h
  · rename_i j hj
    exact h.decodingGoesOn hj rfl rfl

theorem sortDone (h : Moves s t) : Moves s (Machine.sortDone t) := by
  unfold Machine.sortDone
  split
  · exact h.keeps (jobAsks_days ‹_› rfl rfl)
  · exact h

theorem packSnapshot (h : Moves s t) {day : Nat} (hq : day ∈ t.wa.packQueue) (hs : t.days.sweep ≠ some day) :
    Moves s (Machine.packSnapshot day t) :=
  h.step (.packStarts day (fun p => { p with state := .packing }) (fun _ => .of_fields rfl rfl rfl rfl rfl) hq hs)

theorem repackSnapshot (h : Moves s t) {day : Nat} (hq : day ∈ t.wa.repackQueue) (hs : t.days.sweep ≠ some day) :
    Moves s (Machine.repackSnapshot day t) := by
  have begun (k : Job) (hd : k.day = day) (hr : k.repack = true) : Moves s (setJob (some k) (repackBegun day t)) := by
    have hstep := Days.Step.repackStarts (x := t.days) day (fun p => { p with state := .repacking }) (fun _ => .of_fields rfl rfl rfl rfl rfl) hq hs
    rw [← hr] at hstep
    subst hd
    exact h.step hstep
  rcases repackSnapshot_cases day t with e | ⟨members, toDecode, e⟩
  · rw [e]
    exact (begun (newJob true day .decoding [] [] []) rfl rfl).emptyRepack rfl
  · rw [e, decodingGoesOn_setJob]
    exact (begun _ rfl rfl).decodingGoesOn rfl rfl rfl

theorem jobFails (h : Moves s t) {j : Job} (hj : t.ce.job = some j) (noEntry : Bool) (ha : noEntry = true → t.active = true) :
    Moves s (Machine.jobFails j noEntry t) := by
  obtain ⟨f, hf, e⟩ := unwindJob_days j t
  have hc : (countUp .packFailures 1 (Machine.unwindJob j t)).days = { t.days with parts := Tab.upd t.days.parts j.day f, job := none } := e
  have hjd := days_job hj
  unfold Machine.jobFails
  cases hr : j.repack with
  | true =>
    rw [if_pos rfl]
    have hstep := h.goes (.jobPacked j.day j.repack f (by simpa [hr] using hf) hjd) hc
    cases noEntry
    · exact hstep
    · exact hstep.keeps rfl
  | false =>
    have hf' : ∀ p, Days.Enters .quiet p (f p) := by simpa [hr] using hf
    rw [hr] at hjd
    cases noEntry with
    | true =>
      refine h.goes (.jobWaits j.day f hf' hjd (ha rfl)) ?_
      calc _ = { (countUp .packFailures 1 (Machine.unwindJob j t)).days with
                 wait := insertAsc j.day (countUp .packFailures 1 (Machine.unwindJob j t)).days.wait } := rfl
        _ = _ := by rw [hc]
    | false =>
      refine h.goes (.jobRequeued j.day f hf' hjd) ?_
      calc _ = (Machine.joinPack j.day (countUp .packFailures 1 (Machine.unwindJob j t))).days := rfl
        _ = _ := by rw [joinPack_days, hc]

theorem encodeQuantum (h : Moves s t) {j : Job} (hj : t.ce.job = some j) (ha : t.active = true) : Moves s (Machine.encodeQuantum j t).1 := by
  unfold Machine.encodeQuantum
  split
  · exact h.jobFails hj true fun _ => ha
  · exact h.keeps (setJob_days (s := t.mapCs _) hj rfl rfl)

theorem writeDone (h : Moves s t) {j : Job} (hj : t.ce.job = some j) (n : Nat) : Moves s (Machine.writeDone j n t) := by
  have hb : Moves s (t.mapCs fun c => { c with bodies := Tab.put c.bodies n j.body }) := h.keeps rfl
  unfold Machine.writeDone
  dsimp only
  split
  · exact joinQueue (hb.keeps (setJob_days hj rfl rfl)) _ _
  · exact hb.keeps (jobAsks_days hj rfl rfl)

theorem writeCompleted (h : Moves s t) (fault : Bool) : Moves s (Machine.writeCompleted fault t) := by
  unfold Machine.writeCompleted
  split
  · exact h
  rename_i j hj
  split
  · exact h
  split
  · exact h.jobFails hj false nofun
  · exact h.writeDone hj _

theorem switchMember (n : Nat) (acc : State × Nat) (m : Member × Nat) (h : Moves s acc.1) : Moves s (Machine.switchMember n acc m).1 := by
  obtain ⟨⟨ref, loc, copy⟩, o⟩ := m
  unfold Machine.switchMember
  dsimp only
  split
  · split
    · cases loc
      · exact h.keeps rfl
      · exact segmentLoses (h.keeps (by rfl)) _
    · cases loc <;> exact h.keeps rfl
  · cases loc <;> exact h.keeps rfl

theorem switchMembers (n : Nat) (ms : List (Member × Nat)) (acc : State × Nat) (h : Moves s acc.1) :
    Moves s (ms.foldl (Machine.switchMember n) acc).1 := by
  induction ms generalizing acc with
  | nil => exact h
  | cons m ms ih => exact ih _ (switchMember n acc m h)

theorem switchSegment (h : Moves s t) (day : Nat) (w : Nat × List Member) : Moves s (Machine.switchSegment day t w) := by
  have hm := switchMembers w.1 w.2.zipIdx (t, 0) h
  unfold Machine.switchSegment
  dsimp only
  split
  · exact hm.keeps rfl
  · refine keeps ?_ (countUp_days _ _ _)
    refine updPart ?_ day fun p => .of_fields rfl rfl rfl rfl rfl
    exact hm.keeps (updSeg_days _ _ _)

theorem switchOver (h : Moves s t) : Moves s (Machine.switchOver t) := by
  unfold Machine.switchOver
  split
  · exact h
  rename_i j hj
  dsimp only
  have hw := foldl (g := Machine.switchSegment j.day) (fun u w => switchSegment (refl u) j.day w) h j.written
  have hj' : (j.written.foldl (Machine.switchSegment j.day) t).ce.job = some j :=
    (congrArg Prod.fst (switchSegments_workers j.day j.written t)).trans hj
  generalize j.written.foldl (Machine.switchSegment j.day) t = u at hw hj' ⊢
  have hstep := Days.Step.jobPacked (x := u.days) j.day j.repack (fun p => { p with state := .packed, hotCount := u.hotRecords j.day })
    (fun p => .of_fields rfl rfl rfl rfl rfl) (days_job hj')
  exact keeps (releaseMover (hw.goes (u := setJob none (Machine.updPart j.day
    (fun p => { p with state := .packed, hotCount := u.hotRecords j.day }) u)) hstep (by rfl)) j.day) (by rfl)

/-! ### Sweeps -/

theorem startSweep (h : Moves s t) {u : State} (hu : Machine.startSweep t = some u) : Moves s u := by
  unfold Machine.startSweep at hu
  split at hu
  · rename_i d _ _ hd
    cases hu
    refine joinQueue (h.step (.sweepStarts d ?_)) d .sweep
    have hel : t.sweepEligible d = true := List.find?_some (p := fun e : Nat × SweepEntry => t.sweepEligible e.1) hd
    unfold State.sweepEligible at hel
    split at hel
    · rename_i p hp
      have hp' : Tab.get t.days.parts d = some p := hp
      simpa [Days.stateOf, hp'] using hel
    · cases hel
  · cases hu

theorem sweepAdmitted (h : Moves s t) : Moves s (Machine.sweepAdmitted t) := by
  unfold Machine.sweepAdmitted
  split
  · exact h
  · rename_i w hw
    refine h.keeps ((placeRequest_days _ _ _).trans (days_mapRu _ _ ?_))
    simp [hw]

theorem setSweep_none (h : Moves s t) : Moves s (setSweep none t) := h.step .sweepEnds

theorem withdrawSweep (h : Moves s t) (day : Nat) : Moves s (Machine.withdrawSweep day t) := by
  unfold Machine.withdrawSweep
  split
  · exact h
  split
  · split
    · exact h.setSweep_none.leaveQueue day .sweep
    · exact releaseMover (h.setSweep_none.keeps (by rfl)) day
  · exact h

theorem sweepQuantumEnds (h : Moves s t) (day : Nat) : Moves s (Machine.sweepQuantumEnds day t) :=
  releaseMover (setSweep_none (h.keeps (by rfl))) day

theorem waiterReleased (h : Moves s t) (w : Waiter) : Moves s (Machine.waiterReleased t w) := by
  unfold Machine.waiterReleased
  split
  · exact h.queryReleased _
  · exact h.queryReleased _
  · exact h.ingestReleased
  · exact h.scanReleased _
  · exact h.patrolReleased
  · exact h
  · exact h

theorem restartOrLeave (h : Moves s t) (day : Nat) : Moves s (Machine.restartOrLeave day t) := by
  unfold Machine.restartOrLeave
  split
  · exact h
  split
  · exact h.keeps (days_mapRu _ _ rfl)
  · exact updPart (h.keeps (by rfl)) day fun p => .of_fields rfl rfl rfl rfl rfl

theorem freedDay (h : Moves s t) {day : Nat} (hs : t.days.sweep = some day) :
    Moves s (freePartition day (Machine.sweepQuantumEnds day t)) := by
  rw [freePartition_eq]
  refine foldl (fun u w => waiterReleased (refl u) w) (h.goes (.freed day hs) ?_) _
  calc _ = { t.days with
             parts := Tab.del (Tab.upd t.days.parts day fun p => { p with moverHolding := false }) day
             pack := t.days.pack.filter (· != day), repack := t.days.repack.filter (· != day)
             wait := t.days.wait.filter (· != day), sweep := none } := rfl
    _ = _ := by rw [del_upd]

theorem endWalk (h : Moves s t) {day : Nat} (hs : t.days.sweep = some day) : Moves s (Machine.endWalk day t) := by
  unfold Machine.endWalk
  dsimp only
  split
  · exact (h.restartOrLeave day).sweepQuantumEnds day
  · split
    · refine freedDay (h.restartOrLeave day) ?_
      rw [restartOrLeave_sweep]
      exact hs
    · exact ((h.restartOrLeave day).sweepQuantumEnds day).repackTest _ day

theorem leaveStore (h : Moves s t) (day : Nat) (loc : Location) : Moves s (Machine.leaveStore day loc t) := by
  cases loc with
  | hot n => exact updPart (h.keeps (u := releaseSlot n t) rfl) day fun p => .of_fields rfl rfl rfl rfl rfl
  | segment n o => exact h.segmentLoses n

theorem decideEntry (h : Moves s t) (ref : Nat) (e : MapEntry) : Moves s (Machine.decideEntry ref e t) := by
  unfold Machine.decideEntry
  split
  · exact h
  split
  · exact h
  split
  · refine keeps ?_ (countUp_days _ _ _)
    exact h.updPart e.day fun p => .of_fields rfl rfl rfl rfl rfl
  · unfold retireRecord
    dsimp only
    refine keeps ?_ (countUp_days _ _ _)
    refine keeps ?_ (countUp_days _ _ _)
    refine keeps ?_ (updAccount_days _ _ _ _)
    refine updPart ?_ e.day fun p => .of_fields rfl rfl rfl rfl rfl
    exact leaveStore (h.keeps (dropEntry_days ref t)) e.day e.loc

theorem afterDecision (h : Moves s t) {day : Nat} (hs : t.days.sweep = some day) : Moves s (Machine.afterDecision day t) := by
  unfold Machine.afterDecision
  split
  · exact h.endWalk hs
  split
  · split
    · exact h.sweepQuantumEnds day
    · exact h
  · exact h

theorem sweepDecision (h : Moves s t) : Moves s (Machine.sweepDecision t) := by
  unfold Machine.sweepDecision
  split
  · exact h
  rename_i w hw
  split
  · exact h.endWalk (days_sweep hw)
  · rename_i ref e _
    refine afterDecision ((h.decideEntry ref e).keeps (walkOn_days _ _ _)) ?_
    have hk : (Machine.decideEntry ref e t).ru.sweep = some w := (congrArg Prod.snd (decideEntry_workers ref e t)).trans hw
    rw [walkOn_days]
    exact days_sweep hk

end Moves
end Sys2Proof.Machine
end

section
/-! The days through the grants, what follows within an event and every step: the pins and movers (O10) and the queues of days (O11). -/

namespace Sys2Proof.Machine

theorem withdrawSweep_sweep (day : Nat) (s : State) : (withdrawSweep day s).days.sweep ≠ some day := by
  unfold withdrawSweep
  split
  · rename_i h
    simp [State.days, h]
  · rename_i w h
    split
    · split <;> exact nofun
    · rename_i hd
      simp [State.days, h, hd]

theorem withdrawSweep_queues (day : Nat) (s : State) : (withdrawSweep day s).wa.packQueue = s.wa.packQueue ∧
    (withdrawSweep day s).wa.repackQueue = s.wa.repackQueue := by
  unfold withdrawSweep
  repeat' split
  all_goals exact ⟨rfl, rfl⟩

namespace Moves

variable {s t : State}

/-! ### Grants -/

theorem grantQuery (h : Moves s t) (who : Requester) : Moves s (Machine.grantQuery who t) := by
  unfold Machine.grantQuery
  split
  · split
    · exact h
    split
    · exact h.keeps rfl
    · exact h.queryDecoded _ none
  · dsimp only
    split
    · exact h.keeps rfl
    · exact h.ingestDecoded none
  · exact h

theorem grantScan (h : Moves s t) (who : Requester) : Moves s (Machine.grantScan who t) := by
  unfold Machine.grantScan
  split
  · split
    · exact h.keeps rfl
    · exact h.scanDecoded _ none
  · exact h

theorem grantVerify (h : Moves s t) (who : Requester) : Moves s (Machine.grantVerify who t) := by
  unfold Machine.grantVerify
  split
  · split
    · exact h.keeps rfl
    · exact h.verifyChecked _ _
  · exact h

theorem grantPatrol (h : Moves s t) : Moves s (Machine.grantPatrol t) := by
  unfold Machine.grantPatrol
  split
  · exact h
  split
  · exact h.keeps rfl
  · exact h.patrolChecked

theorem grantRunningJob (h : Moves s t) {j : Job} (hj : t.ce.job = some j) (ha : t.active = true) :
    Moves s (Machine.grantRunningJob j t) := by
  unfold Machine.grantRunningJob
  split
  · have he := h.encodeQuantum hj ha
    split
    · rename_i heq
      rw [heq] at he
      exact he
    · rename_i heq
      rw [heq] at he
      exact he.keeps (engineBusy_days _ _ _ _ _)
  · dsimp only
    split
    · exact h.keeps rfl
    · exact h.decodeTaken _ none
  · exact h

theorem grantFirstPack (h : Moves s t) : Moves s (Machine.grantFirstPack t) := by
  unfold Machine.grantFirstPack
  split
  · exact h
  · rename_i day rest hq
    refine keeps (packSnapshot (h.withdrawSweep day) ?_ (withdrawSweep_sweep day t)) (engineBusy_days _ _ _ _ _)
    rw [(withdrawSweep_queues day t).1, hq]
    exact List.mem_cons_self

theorem grantFirstRepack (h : Moves s t) : Moves s (Machine.grantFirstRepack t) := by
  unfold Machine.grantFirstRepack
  split
  · exact h
  · rename_i day rest hq
    refine repackSnapshot (h.withdrawSweep day) ?_ (withdrawSweep_sweep day t)
    rw [(withdrawSweep_queues day t).2, hq]
    exact List.mem_cons_self

theorem grantJob (h : Moves s t) (ha : t.active = true) :
    Moves s (match t.ce.job with | some j => Machine.grantRunningJob j t | none => t) := by
  split
  · rename_i j hj
    exact h.grantRunningJob hj ha
  · exact h

theorem grantKind (h : Moves s t) (ha : t.active = true) (k : JobKind) (who : Option Requester) : Moves s (Machine.grantKind k who t) := by
  unfold Machine.grantKind
  split
  · exact h.grantQuery _
  · exact h.grantScan _
  · exact h.grantVerify _
  · exact h.grantPatrol
  · exact h.keeps ((engineBusy_days _ _ _ _ _).trans (sweepGranted_days t))
  · exact h.grantJob ha
  · exact h.grantJob ha
  · exact h.grantFirstPack
  · exact h.grantFirstRepack
  · exact h

/-! ### Completions -/

theorem decodeOwner (h : Moves s t) (g : Grant) (rs : Option (List CallRecord)) : Moves s (Machine.decodeOwner g rs t) := by
  unfold Machine.decodeOwner
  split
  · exact h.queryDecoded _ rs
  · exact h.ingestDecoded rs
  · exact h.scanDecoded _ rs
  · exact h.decodeTaken _ rs
  · exact h
  · exact h

theorem decodeCompleted (h : Moves s t) (read : ReadResult) : Moves s (Machine.decodeCompleted read t) := by
  unfold Machine.decodeCompleted
  split
  · exact h
  split
  · exact decodeOwner (h.keeps (engineIdle_days t)) _ _
  · exact decodeOwner (h.keeps ((markDamaged_days _ _).trans (engineIdle_days t))) _ none

theorem checkOwner (h : Moves s t) (g : Grant) (passed : Bool) : Moves s (Machine.checkOwner g passed t) := by
  unfold Machine.checkOwner
  split
  · exact h.verifyChecked _ _
  · exact h.patrolChecked
  · exact h

theorem checkCompleted (h : Moves s t) (read : ReadResult) : Moves s (Machine.checkCompleted read t) := by
  unfold Machine.checkCompleted
  split
  · exact h
  split
  · exact checkOwner (h.keeps (engineIdle_days t)) _ true
  · exact checkOwner (h.keeps ((markDamaged_days _ _).trans (engineIdle_days t))) _ false

theorem sortCompleted (h : Moves s t) : Moves s (Machine.sortCompleted t) := by
  unfold Machine.sortCompleted
  split
  · exact h
  · exact sortDone (h.keeps (engineIdle_days t))

theorem writeEnded (h : Moves s t) (fault : Bool) : Moves s (Machine.writeEnded fault t) := by
  unfold Machine.writeEnded
  split
  · exact h
  · exact writeCompleted (h.keeps (engineIdle_days t)) fault

theorem sweepEvent (h : Moves s t) : Moves s (Machine.sweepEvent t) := by
  unfold Machine.sweepEvent
  split
  · exact h
  · exact h.sweepDecision

/-! ### Settings -/

theorem onChange (h : Moves s t) (old : Settings) (f : Settings → Nat) {g : State → State} (hg : ∀ u, Moves u (g u)) :
    Moves s (Machine.onChange old f g t) := by
  unfold Machine.onChange
  split
  · exact h
  · exact h.trans (hg t)

theorem settingEffects (h : Moves s t) (old : Settings) : Moves s (Machine.settingEffects old t) := by
  unfold Machine.settingEffects
  refine moveOnward (evalPressure ?_)
  refine onChange ?_ old (·.patrolCode) fun u => (refl u).comparePatrolTimer
  refine onChange ?_ old (·.restCode) fun u => of_days (comparePhase_days u)
  refine onChange ?_ old (·.activeCode) fun u => of_days (comparePhase_days u)
  refine onChange ?_ old (·.fileIdleCode) fun u => of_days (compareIdleTimers_days u)
  refine onChange ?_ old (·.quietCode) fun u => (refl u).compareQuietTimers
  exact onChange h old (·.graceDays) fun u => (refl u).closeDays

theorem serveSetConfig (h : Moves s t) (tag epoch : Nat) (els : List (Nat × Nat)) : Moves s (Machine.serveSetConfig tag epoch els t) := by
  unfold Machine.serveSetConfig
  split
  · exact h.keeps rfl
  · refine keeps (settingEffects (h.keeps ?_) _) (respond_days _ _ _ _ _)
    exact (foldl_days (fun s c => namedRetention els c s) (fun s c => namedRetention_days els c s) _ _).trans (putSettings_days _ t)

/-! ### Requests -/

theorem serveWaiting (h : Moves s t) (p : Params) (tag epoch : Nat) : Moves s (Machine.serveWaiting p tag epoch t) := by
  unfold Machine.serveWaiting
  split
  · exact h.takeFetch tag epoch _
  · exact h.takeSubscriber tag epoch _
  · exact h.takeAmend tag epoch _
  · exact h.serveSetConfig tag epoch _
  · exact h.keeps rfl
  · exact h.keeps (serveReset_days tag epoch t)
  · exact h

theorem serveParams (h : Moves s t) (p : Params) (tag epoch : Nat) : Moves s (Machine.serveParams p tag epoch t) := by
  unfold Machine.serveParams
  split
  · exact h.serveSetTime tag epoch _
  · exact h.serveCloseDay tag epoch _
  · exact h.serveSetRetention tag epoch _ _ _
  · exact h.keeps (servePlaceHold_days tag epoch _ t)
  · exact h.serveReleaseHold tag epoch _
  · exact h.keeps rfl
  · exact h.keeps (serveReadStatus_days tag epoch _ t)
  · exact h.keeps (serveReadCounters_days tag epoch _ t)
  · exact h.keeps rfl
  · exact h.keeps (servePartitionInfo_days tag epoch _ _ t)
  · exact h.keeps (serveReadAccount_days tag epoch _ _ t)
  · exact h.serveAuditScan tag epoch _
  · exact h.serveVerifyDays tag epoch _ _
  · exact h.serveCancel tag epoch _
  · exact h.serveWaiting _ tag epoch

/-! ### What follows within an event -/

theorem waiterProceeds (h : Moves s t) (w : Waiter) : Moves s (Machine.waiterProceeds w t) := by
  unfold Machine.waiterProceeds
  split
  · exact h.queryPinned _
  · exact h.ingestPinned
  · exact h.scanPinned _
  · exact h.patrolPinned
  · exact h.switchOver
  · exact h.moveAdmitted _
  · exact h.sweepAdmitted

theorem serveWaiters (h : Moves s t) {u : State} (hu : Machine.serveWaiters t = some u) : Moves s u := by
  unfold Machine.serveWaiters at hu
  split at hu
  · rename_i d w hd
    cases hu
    obtain ⟨e, he, hs⟩ := List.exists_of_findSome?_eq_some hd
    obtain ⟨v, hv, hw⟩ := Option.map_eq_some_iff.1 hs
    cases hw
    exact waiterProceeds (h.step (.grant e.1 e.2 w he hv)) w
  · cases hu

theorem takeWaiting (h : Moves s t) {v : Server} {u : State} (hu : Machine.takeWaiting v t = some u) : Moves s u := by
  unfold Machine.takeWaiting at hu
  split at hu
  · split at hu
    · cases hu
      exact serveWaiting (h.keeps (by rfl)) _ _ _
    · cases hu
  · cases hu

theorem pressureTurn (h : Moves s t) {u : State} (hu : Machine.pressureTurn t = some u) : Moves s u := by
  unfold Machine.pressureTurn at hu
  split at hu
  · cases hu
    exact h.evalPressure
  · cases hu

theorem grantEngine (h : Moves s t) (ha : t.active = true) {u : State} (hu : Machine.grantEngine t = some u) : Moves s u := by
  unfold Machine.grantEngine at hu
  split at hu
  · cases hu
    refine grantKind (h.keeps ?_) ?_ _ _
    · exact days_mapWa _ _ ⟨rfl, rfl⟩
    · exact ha
  · cases hu

theorem acts (h : Moves s t) (ha : t.active = true) {u : State} (hu : Acts t u) : Moves s u := by
  cases hu with
  | waiter hu => exact h.serveWaiters hu
  | query hu => exact h.takeWaiting hu
  | loader hu => exact h.takeWaiting hu
  | sweep hu => exact h.startSweep hu
  | pressure hu => exact h.pressureTurn hu
  | drainEnd hu => exact h.keeps (drainEnds_days hu)
  | drain hu => exact h.keeps (beginDrain_days hu)
  | grant hu => exact h.grantEngine ha hu

theorem active_of_kept {s t : State} (h : t.kept = s.kept) : t.active = s.active := by
  have hp : t.power = s.power := congrArg Kept.power h
  simp [State.active, hp]

theorem settleFrom (h : Moves s t) (u : Turn) : Moves s (Machine.settleFrom u t) := by
  cases ha : t.active with
  | false => rw [Machine.settleFrom, ha]; exact h
  | true =>
    exact (settleFrom_induction (P := fun x => x.active = true ∧ Moves s x)
      (fun x y hxy hx => ⟨(active_of_kept (acts_kept hxy)).trans hx.1, hx.2.acts hx.1 hxy⟩) u t ⟨ha, h⟩).2

end Moves

/-! ## Resets and start-up -/

theorem cleaned_pinned (p : Partition) : PinsAndMovers p.cleaned where
  pins := Nat.zero_le _
  holding := nofun
  waiting := by simp [Partition.cleaned]

namespace Moves

variable {s t : State}

theorem beginWarmReset (h : Moves s t) : Moves s (Machine.beginWarmReset t) := by
  have hr : Tab.rising t.pc.parts = true → Tab.rising (abandonJob t).pc.parts = true := fun hk => by
    unfold abandonJob
    split
    · rw [unwindJob_eq]
      dsimp only
      exact Tab.rising_upd _ _ hk
    · exact hk
  refine h.goes (.rests (Tab.mapAll (abandonJob t).pc.parts fun _ p => p.cleaned) (fun hk => Tab.rising_mapAll _ (hr hk))
    fun _ e he => ?_) ?_
  · obtain ⟨x, -, rfl⟩ := List.mem_map.1 he
    exact cleaned_pinned x.2
  · rw [beginWarmReset_eq]
    simp [State.days, State.active, freshArbiter]

theorem rebuilt (h : Moves s t) (ha : t.active = false) {u : State}
    (hu : u.days = { t.days with active := u.active }) : Moves s (rebuildQueues u) := by
  refine h.goes (.rebuilt u.active (fun p => u.hotTest p || u.sparseTest p) ha) ?_
  calc (rebuildQueues u).days = { u.days with
          pack := Tab.keysWhere u.days.parts fun _ p => decide (p.state = .quiet)
          repack := Tab.keysWhere u.days.parts fun _ p => decide (p.state = .packed) && (u.hotTest p || u.sparseTest p) } := rfl
    _ = _ := by rw [hu]

theorem endWarmReset (h : Moves s t) (hd : t.warmResetDone = true) : Moves s (Machine.endWarmReset t) := by
  unfold Machine.endWarmReset
  refine fullPass (moveOnward (evalPressure (h.rebuilt ?_ rfl)))
  simp only [State.warmResetDone, Bool.and_eq_true] at hd
  simp [State.active, hd.1.2]

theorem signalLinkReset (h : Moves s t) : Moves s (Machine.signalLinkReset t) := by
  unfold Machine.signalLinkReset
  refine foldl (fun u e => ?_) (foldl (fun u (e : Nat × ScanSlot) => (refl u).cancelSlot e.1 e.2) h _) _
  split
  · exact (refl u).cancelSubscriber _ _
  · exact refl u

theorem linkReset (h : Moves s t) : Moves s (Machine.linkReset t) := by
  unfold Machine.linkReset
  split
  · exact h.beginWarmReset
  · exact signalLinkReset (h.keeps (by rfl))

theorem losePower (h : Moves s t) : Moves s (Machine.losePower t) := h.goes (.rests t.pc.parts id fun hp => hp) rfl

end Moves

theorem releaseStranded_days (s : State) : ∃ f : Nat → Partition → Partition,
    (releaseStranded s).days = { s.days with parts := Tab.mapAll s.days.parts f } := by
  unfold releaseStranded
  dsimp only
  refine ⟨fun d p => { p with
    hotCount := p.hotCount - Tab.count (Tab.keep s.hs.slots s.strandedSlot) fun _ r => decide (r.day = d) }, ?_⟩
  exact foldl_days (fun s (e : Nat × CallRecord) => releaseSlot e.1 s) (fun s e => releaseSlot_days e.1 s) _ _

/-- The days at the beginning of a start-up: the queues and the work are gone (R173, R178). -/
def Days.bare (parts : Tab Partition) (active : Bool) : Days :=
  { active := active, parts := parts, pack := [], repack := [], wait := [], job := none, sweep := none }

/-- RESUME: the partitions are cleaned, the queues rebuilt, and the closed days moved onward (R56, R124). -/
theorem resume_steps {x : Days} {y : State} {b : Bool} (hy : y.days = Days.bare x.parts b) (a : Bool) :
    Relation.ReflTransGen Days.Step x { (resume y).days with active := a } := by
  obtain ⟨f, hf⟩ := releaseStranded_days (freeWriting y)
  have hy' : (freeWriting y).days = Days.bare x.parts b := hy
  rw [hy'] at hf
  let u := mapParts (fun _ p => p.cleaned) (releaseStranded (freeWriting y))
  let parts := Tab.mapAll (Tab.mapAll x.parts f) fun _ p => p.cleaned
  have hu : u.days = Days.bare parts b := by
    show { (releaseStranded (freeWriting y)).days with parts := Tab.mapAll (releaseStranded (freeWriting y)).days.parts fun _ p => p.cleaned } = _
    rw [hf]
    rfl
  have rests : Days.Step x (Days.bare parts false) := by
    refine .rests parts (fun hk => Tab.rising_mapAll (fun _ p => p.cleaned) (Tab.rising_mapAll f hk)) fun _ e he => ?_
    obtain ⟨p, -, rfl⟩ := List.mem_map.1 he
    exact cleaned_pinned p.2
  have rebuilt := Days.Step.rebuilt (x := Days.bare parts false) a (fun p => u.hotTest p || u.sparseTest p) rfl
  have onward := Days.Step.onward (x := { Days.bare parts false with
    active := a
    pack := Tab.keysWhere parts fun _ p => decide (p.state = .quiet)
    repack := Tab.keysWhere parts fun _ p => decide (p.state = .packed) && (u.hotTest p || u.sparseTest p) })
    (decide (u.freeSlots < u.cl.settings.lowWatermark))
  refine ((Relation.ReflTransGen.single rests).tail rebuilt).tail ?_
  have hr : (resume y).days = { u.days with
      parts := Tab.mapAll u.days.parts fun _ p => p.moved (decide (u.freeSlots < u.cl.settings.lowWatermark))
      pack := joinDays (Tab.keysWhere u.days.parts fun _ p => p.onward (decide (u.freeSlots < u.cl.settings.lowWatermark)))
        (Tab.keysWhere u.days.parts fun _ p => decide (p.state = .quiet))
      repack := Tab.keysWhere u.days.parts fun _ p => decide (p.state = .packed) && (u.hotTest p || u.sparseTest p) } := by
    unfold resume
    rw [moveOnward_eq]
    rfl
  rw [hr, hu]
  exact onward

/-- INITIALISE: no partition is left (R57). -/
theorem initialise_steps {x : Days} {y : State} {b : Bool} (hy : y.days = Days.bare x.parts b) (values : List Nat) (a : Bool) :
    Relation.ReflTransGen Days.Step x { (initialise values y).days with active := a } := by
  have rests : Days.Step x (Days.bare [] false) := .rests [] (fun _ => rfl) fun _ e he => (by cases he)
  refine (Relation.ReflTransGen.single rests).tail ?_
  have hi : (initialise values y).days = { y.days with parts := [] } := rfl
  rw [hi, hy]
  exact .rebuilt a (fun _ => false) rfl

theorem days_mapPower (f : PowerState → PowerState) (s : State) : (s.mapPower f).days = { s.days with active := (s.mapPower f).active } := rfl

theorem transientAtPowerOn_days (s : State) : (transientAtPowerOn s).days = Days.bare s.days.parts s.active := by
  simp [transientAtPowerOn, clearWork, freshArbiter, Days.bare, State.days, State.active, State.mapQa, State.mapRu, State.mapCe, State.mapAu,
    State.mapIe, State.mapWa, State.mapCl, State.mapCk, State.mapLp]

theorem runStartUp_moves {s t : State} (u : StartUp) (h : t.days.parts = s.days.parts) : Moves s (runStartUp u t) := by
  have hb : (transientAtPowerOn t).days = Days.bare s.days.parts t.active := by rw [transientAtPowerOn_days, h]
  unfold runStartUp Moves
  dsimp only
  rw [days_mapPower]
  split
  · exact resume_steps ((days_mapCl _ _).trans ((putSettings_days _ _).trans hb)) _
  · exact initialise_steps ((days_mapCl _ _).trans ((putSettings_days _ _).trans hb)) _ _

/-! ## Every step -/

theorem Effect.moves {s u : State} {c : Instr} (he : Effect s c u) : Moves s u := by
  have h := Moves.refl s
  cases he with
  | nothing => exact h
  | link | pins | tickOnly => exact h.keeps rfl
  | serves hc hp tag epoch f => exact Moves.serveParams (h.keeps (by rfl)) _ tag epoch
  | queues e f => exact h.keeps (restartIdle_days _ _)
  | linkReset _ _ hx => subst hx; exact Moves.linkReset (h.keeps (by rfl))
  | warmReset _ _ _ hx => subst hx; exact Moves.beginWarmReset (h.keeps (by rfl))
  | warmResetEnd hd => exact h.endWarmReset hd
  | startUpWaits fault node v hp => exact h.keeps (by simp [State.days, State.active, State.mapPower, dramFound, State.mapIx, hp])
  | startUpRuns hc v lost f hx =>
    subst hx
    exact runStartUp_moves v rfl
  | powerLost => exact h.losePower
  | eeprom fault => exact h.keeps (eepromCompleted_days fault s)
  | record => exact h.decideNext
  | second hr =>
    unfold Machine.secondEvent
    refine Moves.moveOnward (Moves.raised (Moves.advancePatrolTimer (Moves.keeps ?_ (advanceIdleTimers_days _))))
    split
    · exact Moves.advanceQuietTimers (h.keeps (by rfl)) 1
    · exact h.keeps (by rfl)
  | quiet day hr => exact Moves.moveOnward (h.updPart day fun p => Moves.expireQuiet_tidy _ p)
  | idle ctx => exact h.keeps rfl
  | patrol => exact h.comparePatrolTimer
  | tick => exact h.keeps (tickPhase_days _)
  | phase => exact h.keeps (comparePhase_days s)
  | sort => exact h.sortCompleted
  | write fault => exact h.writeEnded fault
  | decode read => exact h.decodeCompleted read
  | check read => exact h.checkCompleted read
  | sweep => exact h.sweepEvent

theorem step_moves {s t : State} (h : step s = .next t) : Moves s t := by
  rcases step_runs h with rfl | ⟨c, rest, x, he, rfl | ⟨u, rfl⟩⟩
  · exact .refl _
  · exact he.moves
  · exact he.moves.settleFrom u

theorem QueuesAgree.days {s : State} (h : QueuesAgree s) (hk : Tab.rising s.pc.parts = true) : s.days.Agree where
  keyed := hk
  pack := h.pack
  repack := h.repack
  wait := h.wait
  resting := h.resting
  quiet ha d hd := by
    obtain ⟨p, hp, hs⟩ := Option.map_eq_some_iff.1 hd
    exact h.quiet ha d p hp hs
  job d r hj := by
    obtain ⟨j, hs, e⟩ := Option.map_eq_some_iff.1 hj
    cases e
    exact h.job j hs
  sweep d hs := by
    obtain ⟨w, hw, e⟩ := Option.map_eq_some_iff.1 hs
    cases e
    exact h.sweep w hw

theorem Days.Agree.queues {s : State} (h : s.days.Agree) : QueuesAgree s where
  pack := h.pack
  repack := h.repack
  wait := h.wait
  resting := h.resting
  quiet ha d p hp hs := h.quiet ha d (Option.map_eq_some_iff.2 ⟨p, hp, hs⟩)
  job j hj := h.job j.day j.repack (days_job hj)
  sweep w hw := h.sweep w.day (days_sweep hw)

/-- What every change of the days keeps, every step keeps. -/
theorem Moves.keep {P : Days → Prop} (hP : ∀ x y, Days.Step x y → P x → P y) {s t : State} (h : Moves s t) (hs : P s.days) : P t.days := by
  unfold Moves at h
  generalize t.days = y at h ⊢
  induction h with
  | refl => exact hs
  | tail _ hxy ih => exact hP _ _ hxy ih

/-- Settles O10: each change of the days keeps them. -/
theorem pinsAndMoversKept : Obligations.PinsAndMoversKept :=
  fun _ _ hk hp h => ((step_moves h).keep (fun _ _ hxy => hxy.pinned) ⟨hk.2.1, hp⟩).pins

/-- Settles O11: each change of the days keeps the agreement. -/
theorem queuesOfDaysAgree : Obligations.QueuesOfDaysAgree :=
  fun _ _ hk ha h => ((step_moves h).keep (fun _ _ hxy => hxy.agree) (ha.days hk.2.1)).queues

end Sys2Proof.Machine
end

section
/-! The throttle window (O27). -/

namespace Sys2Proof.Machine

/-- The phase that follows the running one (R168). -/
def State.nextPhase (s : State) : WindowPhase :=
  match s.wa.phase with
  | .active => if s.restLength = 0 then .active else .rest
  | .rest => .active

theorem endPhase_eq (s : State) : endPhase s = s.mapWa fun w => { w with phase := s.nextPhase, elapsed := 0 } := rfl

/-- A phase that has reached its length gives way to the next, and else stays (R168). -/
theorem comparePhase_eq (s : State) : comparePhase s = s.mapWa fun w =>
    if s.phaseLength ≤ w.elapsed then { w with phase := s.nextPhase, elapsed := 0 } else w := by
  unfold comparePhase
  split
  · rename_i h
    rw [endPhase_eq]
    simp only [State.mapWa, h, if_true]
  · rename_i h
    simp only [State.mapWa, h, if_false]

theorem tickPhase_eq (s : State) : tickPhase s = s.mapWa fun w =>
    if s.phaseLength ≤ w.elapsed + 1 then { w with phase := s.nextPhase, elapsed := 0 } else { w with elapsed := w.elapsed + 1 } :=
  comparePhase_eq (s.mapWa fun w => { w with elapsed := w.elapsed + 1 })

/-- Settles O27. -/
theorem throttleWindowRuns : Obligations.ThrottleWindowRuns := by
  refine ⟨fun s hr => ?_, fun s hr => ⟨?_, ?_⟩⟩
  · intro rest length next
    have hl : length = s.phaseLength := rfl
    have hn : next = s.nextPhase := rfl
    rw [hl, hn]
    constructor
    · simp only [exec, execMillisecondTick, hr, if_true, tickPhase_eq]
      rfl
    · simp only [exec, execThrottlePhaseEnd, hr, if_true, comparePhase_eq]
  · simp [exec, execThrottlePhaseEnd, hr]
  · simp only [exec, execMillisecondTick, hr, Bool.false_eq_true, if_false]
    cases s.power.powered <;> rfl

end Sys2Proof.Machine
end

section
/-! The full scheduling pass, read at each day and each Sweep Queue entry; SET_RETENTION (O30). -/

namespace Sys2Proof.Tab

variable {α : Type}

theorem mapAll_mapAll (t : Tab α) (f g : Nat → α → α) : mapAll (mapAll t f) g = mapAll t fun k a => g k (f k a) := by
  simp [mapAll, Function.comp_def]

theorem mapAll_id (t : Tab α) : mapAll t (fun _ a => a) = t := by simp [mapAll]

theorem upd_eq_mapAll (t : Tab α) (k : Nat) (f : α → α) : upd t k f = mapAll t fun d a => if d = k then f a else a :=
  List.map_congr_left fun e _ => by
    dsimp only
    split <;> rfl

theorem keysWhere_mapAll (t : Tab α) (f : Nat → α → α) (test : Nat → α → Bool) :
    keysWhere (mapAll t f) test = keysWhere t fun k a => test k (f k a) := by
  simp [keysWhere, keep, mapAll, List.filter_map, Function.comp_def]

end Sys2Proof.Tab

namespace Sys2Proof.Machine

open Wire

variable {s t u : State}

theorem PerClass.mask_ne_zero (p : PerClass Bool) : decide (p.mask ≠ 0) = [CallClass.voice, .message, .data, .other].any p.get := by
  obtain ⟨v, m, d, o⟩ := p
  revert v m d o
  decide

/-! ## The Sweep Queue -/

theorem queueSweep_eq (s : State) (d : Nat) : ∃ e, sweepQueued true (Tab.get s.ru.queue d) = some e ∧
    queueSweep s d = s.mapRu fun r => { r with queue := Tab.put r.queue d e } := by
  unfold queueSweep
  split
  · rename_i h
    exact ⟨_, by rw [h]; rfl, rfl⟩
  · rename_i e h
    exact ⟨_, by rw [h]; rfl, rfl⟩

/-- Days joining the Sweep Queue one after another, each once (R135). -/
theorem foldl_queueSweep (l : List Nat) (s : State) : ∃ q,
    l.foldl queueSweep s = { s with ru := { s.ru with queue := q } } ∧
    (l.Nodup → ∀ d, Tab.get q d = sweepQueued (decide (d ∈ l)) (Tab.get s.ru.queue d)) := by
  induction l generalizing s with
  | nil => exact ⟨s.ru.queue, rfl, fun _ d => rfl⟩
  | cons a l ih =>
    obtain ⟨e, he, hs⟩ := queueSweep_eq s a
    obtain ⟨q, hq, hget⟩ := ih (queueSweep s a)
    refine ⟨q, by rw [List.foldl_cons, hq, hs]; rfl, fun hl d => ?_⟩
    obtain ⟨ha, hl⟩ := List.nodup_cons.1 hl
    have hold : Tab.get (queueSweep s a).ru.queue d = if d = a then some e else Tab.get s.ru.queue d := by
      rw [hs]
      split
      · rename_i hd
        subst hd
        exact Tab.get_put_self _ _ _
      · exact Tab.get_put_ne _ _ ‹_›
    rw [hget hl, hold]
    by_cases hd : d = a
    · subst hd
      simp only [ha, decide_false, List.mem_cons_self, decide_true, he, if_true]
      rfl
    · simp [hd]

/-! ## The pass -/

/-- A partition after a full pass (R134). -/
def State.flagged (s : State) (d : Nat) (p : Partition) : Partition := { p with expiryDue := s.dueFlags (fun _ _ _ => true) d p }

/-- A full pass while the clock is set: every day's flags, and the days with a flag set in the Sweep Queue (R134, R135). -/
theorem fullPass_set (h : s.ck.clockSet = true) : ∃ q,
    fullPass s = { s with pc := { parts := Tab.mapAll s.pc.parts s.flagged }, ru := { s.ru with queue := q } } ∧
    (Tab.rising s.pc.parts = true → ∀ d, Tab.get q d = sweepQueued
      ((s.part d).any fun p => [CallClass.voice, .message, .data, .other].any (s.flagged d p).expiryDue.get) (Tab.get s.ru.queue d)) := by
  obtain ⟨q, hq, hget⟩ := foldl_queueSweep (s.markedDays fun _ _ _ => true) (mapParts s.flagged s)
  refine ⟨q, ?_, fun hk d => ?_⟩
  · unfold fullPass schedulePass
    rw [if_pos h]
    exact hq
  · have hn : (s.markedDays fun _ _ _ => true).Nodup := Days.nodup_keysWhere hk _
    have hm : decide (d ∈ s.markedDays fun _ _ _ => true) =
        ((s.part d).any fun p => [CallClass.voice, .message, .data, .other].any (s.flagged d p).expiryDue.get) := by
      rw [State.markedDays, Bool.eq_iff_iff, decide_eq_true_eq, Days.mem_keysWhere hk, Option.any_eq_true]
      refine exists_congr fun p => and_congr Iff.rfl ?_
      rw [PerClass.mask_ne_zero]
      rfl
    rw [hget hn, hm]
    rfl

theorem fullPass_unset (h : s.ck.clockSet = false) : fullPass s = s := by simp [fullPass, schedulePass, h]

theorem dueAfter_full (s : State) (d : Nat) (p : Partition) (c : CallClass) : (s.flagged d p).expiryDue.get c =
    (p.expiryDue.get c || (decide (0 < p.live.get c) && decide ((s.ru.table.get c).active ≠ 0) &&
      decide (d + (s.ru.table.get c).active < s.currentDay) && !p.heldRemainder.get c)) := by
  rw [State.flagged, dueFlags_get, State.dueAfter, State.expired]
  simp [Bool.and_assoc]

/-- No pass at all. -/
theorem FullPass.none_ran (today : Nat) (s : State) : FullPass false today s s where
  flags d p q hp hq c := by
    rw [hp] at hq
    cases hq
    simp
  queue d := rfl
  sweep := rfl

/-- A full pass, at the state's current day and under its active retentions (R134, R135). -/
theorem FullPass.of_fullPass (hk : Tab.rising s.pc.parts = true) : FullPass s.ck.clockSet s.currentDay s (fullPass s) := by
  cases hc : s.ck.clockSet with
  | false =>
    rw [fullPass_unset hc]
    exact .none_ran _ s
  | true =>
    obtain ⟨q, hs, hq⟩ := fullPass_set hc
    have hp (d : Nat) : (fullPass s).part d = (s.part d).map (s.flagged d) := by
      rw [hs]
      exact Tab.get_mapAll _ _ _
    refine { flags := fun d p p' hd hd' c => ?_, queue := fun d => ?_, sweep := by rw [hs] }
    · rw [hp, hd] at hd'
      cases hd'
      rw [dueAfter_full, hs, Bool.true_and]
    · have e : (fullPass s).ru.queue = q := by rw [hs]
      rw [e, hq hk, hp]
      cases s.part d <;> rfl

/-- What a pass reads of a partition: its live counts, its expiry-due flags and its held-remainder flags. -/
def Partition.scheduled (p : Partition) : PerClass Nat × PerClass Bool × PerClass Bool := (p.live, p.expiryDue, p.heldRemainder)

/-- What is done before a pass to other parts of the state does not count in it. -/
theorem FullPass.before {ran : Bool} {today : Nat} (h : FullPass ran today t u)
    (hp : ∀ d, (t.part d).map Partition.scheduled = (s.part d).map Partition.scheduled) (hq : t.ru.queue = s.ru.queue)
    (hw : t.ru.sweep = s.ru.sweep) : FullPass ran today s u where
  flags d p q hd hd' c := by
    have hs := hp d
    rw [hd, Option.map_some, Option.map_eq_some_iff] at hs
    obtain ⟨p', hp', e⟩ := hs
    obtain ⟨hl, hdue, hheld⟩ : p'.live = p.live ∧ p'.expiryDue = p.expiryDue ∧ p'.heldRemainder = p.heldRemainder := by
      simpa [Partition.scheduled] using e
    rw [h.flags d p' q hp' hd' c, hl, hdue, hheld]
  queue d := by rw [h.queue d, hq]
  sweep := h.sweep.trans hw

/-- Nor does what is done after it. -/
theorem FullPass.after {ran : Bool} {today : Nat} (h : FullPass ran today s t)
    (hp : ∀ d, (u.part d).map (·.expiryDue) = (t.part d).map (·.expiryDue)) (hr : u.ru = t.ru) : FullPass ran today s u where
  flags d p q hd hd' c := by
    have hs := hp d
    rw [hd', Option.map_some, eq_comm, Option.map_eq_some_iff] at hs
    obtain ⟨q', hq', e⟩ := hs
    rw [← e, h.flags d p q' hd hq' c, hr]
  queue d := by
    have e : ((u.part d).any fun q => [CallClass.voice, .message, .data, .other].any q.expiryDue.get) =
        ((t.part d).any fun q => [CallClass.voice, .message, .data, .other].any q.expiryDue.get) := by
      have hs := congrArg (Option.any fun x : PerClass Bool => [CallClass.voice, .message, .data, .other].any x.get) (hp d)
      simpa only [Option.any_map, Function.comp_def] using hs
    rw [hr, h.queue d, e]
  sweep := by rw [hr, h.sweep]

/-! ## SET_RETENTION -/

section
variable {k : Kind} {r : Request} {pool : Pool}

/-- The Link Port after a served request is answered from a state whose Link Port is as the request was taken. -/
theorem respond_lp (status : Nat) (payload : Bytes) (h : t.lp = (takenState k r pool s).lp) :
    (respond r.tag.toNat s.lp.epoch status payload t).lp = (replied k r pool status payload s).lp := by
  rw [← respond_replied]
  exact congrArg (LinkPort.answer _ _ _ _) h

end

/-- A pass changes expiry-due flags alone in the Partition Table. -/
theorem fullPass_parts (s : State) : ∃ f : Nat → Partition → PerClass Bool,
    (fullPass s).pc.parts = Tab.mapAll s.pc.parts fun d p => { p with expiryDue := f d p } := by
  cases h : s.ck.clockSet with
  | false => exact ⟨fun _ p => p.expiryDue, by rw [fullPass_unset h]; exact (Tab.mapAll_id _).symm⟩
  | true =>
    obtain ⟨q, hs, -⟩ := fullPass_set h
    exact ⟨fun d p => (s.flagged d p).expiryDue, by rw [hs]; rfl⟩

/-- A table whose entries have each been changed, read at a day. -/
theorem part_of_mapAll {f : Nat → Partition → Partition} (h : t.pc.parts = Tab.mapAll s.pc.parts f) (d : Nat) :
    t.part d = (s.part d).map (f d) := by
  unfold State.part
  rw [h, Tab.get_mapAll]

/-- The Retention Table with every pending value active (R127). -/
def activated (table : PerClass Retention) : PerClass Retention :=
  { voice := { table.voice with active := table.voice.pending }, message := { table.message with active := table.message.pending },
    data := { table.data with active := table.data.pending }, other := { table.other with active := table.other.pending } }

theorem activated_get (table : PerClass Retention) (c : CallClass) :
    (activated table).get c = { active := (table.get c).pending, pending := (table.get c).pending } := by cases c <;> rfl

theorem activateRetention_def (s : State) : activateRetention s = fullPass (s.mapRu fun r => { r with table := activated r.table }) := rfl

theorem activateRetention_parts (s : State) : ∃ f : Nat → Partition → PerClass Bool,
    (activateRetention s).pc.parts = Tab.mapAll s.pc.parts fun d p => { p with expiryDue := f d p } :=
  fullPass_parts (s.mapRu fun r => { r with table := activated r.table })

theorem FullPass.of_activateRetention (hk : Tab.rising s.pc.parts = true) :
    FullPass s.ck.clockSet s.currentDay s (activateRetention s) :=
  (FullPass.of_fullPass (s := s.mapRu fun r => { r with table := activated r.table }) hk).before (fun _ => rfl) rfl rfl

theorem PerClass.get_set {α : Type} (p : PerClass α) (c : CallClass) (v : α) : (p.set c v).get c = v := by cases c <;> rfl

theorem ofCode_code (c : CallClass) : CallClass.ofCode c.code = c := by cases c <;> rfl

/-- The clamped list of SET_RETENTION: empty, or the number 2 (R126). -/
theorem clampedList_bytes (days : Nat) : (if 3650 < days then be 2 1 ++ be 1 2 else be 2 0) = if 3650 < days then [0, 1, 2] else [0, 0] := by
  split <;> rfl

theorem clampDays_eq_min (days : Nat) : clampDays days = min days 3650 := by
  unfold clampDays
  split <;> omega

/-- Settles O30. -/
theorem setRetentionServed : Obligations.SetRetentionServed := by
  intro r cls days now pool s h hs
  have hx : exec (.setRetention r) s = .next (settle (serveSetRetention r.tag.toNat s.lp.epoch cls days now (takenState .setRetention r pool s))) := by
    simp only [exec, execSetRetention, served_requested h]
    rfl
  refine ⟨fun hc => ?_, fun c hc => ?_⟩
  · rw [hx, serveSetRetention, if_pos hc, respond_replied, settle_of_settled (settled_replied hs)]
  · intro held clamped table
    subst hc
    have hle : ¬ 3 < c.code := by cases c <;> decide
    have hpend : setPending c days (takenState .setRetention r pool s) = takenState .setRetention r pool (s.mapRu fun u => { u with table := table }) := by
      unfold setPending
      rw [clampDays_eq_min]
      rfl
    rw [serveSetRetention, if_neg hle, ofCode_code] at hx
    dsimp only at hx
    rw [clampedList_bytes, hpend] at hx
    have hget : table.get c = { active := (s.ru.table.get c).active, pending := held } := PerClass.get_set _ _ _
    constructor
    · rintro rfl
      have hset : Settled (s.mapRu fun u => { u with table := table }) := hs.congr rfl rfl rfl rfl rfl rfl rfl rfl rfl rfl rfl rfl
      have e : ((takenState .setRetention r pool (s.mapRu fun u => { u with table := table })).ru.table.get c) = table.get c := rfl
      simp only [Bool.false_eq_true, if_false] at hx
      rw [e, hget] at hx
      rw [hx]
      exact congrArg _ ((congrArg settle (respond_replied (s := s.mapRu fun u => { u with table := table }) _ _)).trans
        (settle_of_settled (settled_replied hset)))
    · rintro rfl
      simp only [if_true] at hx
      generalize hv : activateRetention (takenState .setRetention r pool (s.mapRu fun u => { u with table := table })) = v at hx
      obtain ⟨pc, q, hshape⟩ := activateRetention_eq (takenState .setRetention r pool (s.mapRu fun u => { u with table := table }))
      obtain ⟨f, hparts⟩ := activateRetention_parts (takenState .setRetention r pool (s.mapRu fun u => { u with table := table }))
      rw [hv] at hshape hparts
      have hpart := part_of_mapAll (s := s) hparts
      have htable (k : CallClass) : v.ru.table.get k = { active := (table.get k).pending, pending := (table.get k).pending } := by
        rw [hshape]
        exact activated_get table k
      refine ⟨_, hx, ?_, htable, ?_⟩
      · rw [htable, hget]
        refine respond_lp Status.ok _ ?_
        rw [hshape]
        rfl
      · rw [hshape] at hpart ⊢
        refine ⟨rfl, rfl, rfl, rfl, rfl, rfl, rfl, rfl, rfl, rfl, rfl, rfl, fun d hd => ?_, fun d p hd => ?_, fun hk => ?_⟩
        · exact (hpart d).trans (by rw [hd]; rfl)
        · exact ⟨_, (hpart d).trans (by rw [hd]; rfl), rfl⟩
        · have hpass := FullPass.of_activateRetention (s := takenState .setRetention r pool (s.mapRu fun u => { u with table := table })) hk.2.1
          rw [hv, hshape] at hpass
          exact (hpass.before (s := s) (fun _ => rfl) rfl rfl).after (fun _ => rfl) rfl

end Sys2Proof.Machine
end

section
/-! CLOSE_DAY and the reading kinds (O28, O29). -/

namespace Sys2Proof.Machine

open Wire

variable {s t u : State}

theorem moveOnward_other (s : State) : ∃ pc q, moveOnward s = { s with pc := pc, wa := { s.wa with packQueue := q } } :=
  ⟨_, _, moveOnward_eq s⟩

/-- The move onward of a day that has just been closed (R44, R47). -/
theorem closed_moved (b : Bool) (p : Partition) : Partition.moved b { p with dayClosed := true } =
    { p with dayClosed := true, state := if p.state = .opened ∧ (p.quietExpired = true ∨ b = true) then .quiet else p.state } := by
  rw [Partition.moved_eq]
  simp [Partition.onward]

/-- Settles O28. -/
theorem closeDayServed : Obligations.CloseDayServed := by
  intro r d pool s h hs
  have hx : exec (.closeDay r) s = .next (settle (serveCloseDay r.tag.toNat s.lp.epoch d (takenState .closeDay r pool s))) := by
    simp only [exec, execCloseDay, served_requested h]
    rfl
  have answers {status : Nat} {payload : Bytes}
      (e : serveCloseDay r.tag.toNat s.lp.epoch d (takenState .closeDay r pool s) =
        respond r.tag.toNat s.lp.epoch status payload (takenState .closeDay r pool s)) :
      exec (.closeDay r) s = .next (replied .closeDay r pool status payload s) := by
    rw [hx, e, respond_replied, settle_of_settled (settled_replied hs)]
  have hck : (takenState .closeDay r pool s).ck.clockSet = s.ck.clockSet := rfl
  have hday : (takenState .closeDay r pool s).currentDay = s.ck.archiveTime / 86400 := rfl
  have hpart : (takenState .closeDay r pool s).part d = s.part d := rfl
  refine ⟨fun hc => answers ?_, fun hc hd => answers ?_, fun hc hd hp => answers ?_, fun p hc hd hp hcl => answers ?_, fun p hc hd hp hcl => ?_⟩
  · rw [serveCloseDay, hck, if_pos hc]
  · rw [serveCloseDay, hck, if_neg (by simp [hc]), hday, if_pos hd]
  · rw [serveCloseDay, hck, if_neg (by simp [hc]), hday, if_neg (by omega), hpart, hp]
  · rw [serveCloseDay, hck, if_neg (by simp [hc]), hday, if_neg (by omega), hpart, hp]
    simp only [hcl, if_true]
    rfl
  · intro after
    rw [serveCloseDay, hck, if_neg (by simp [hc]), hday, if_neg (by omega), hpart, hp] at hx
    simp only [hcl, Bool.false_eq_true, if_false] at hx
    generalize hy : updPart d (fun p => { p with dayClosed := true }) (takenState .closeDay r pool s) = y at hx
    have hyp : y.part d = some { p with dayClosed := true } := by
      rw [← hy, updPart_part]
      simp [hpart, hp]
    have hpress : y.wa.pressure = s.wa.pressure := by rw [← hy]; rfl
    have hmp : (moveOnward y).part d = some { p with dayClosed := true, state := after } := by
      rw [moveOnward_part, hyp, hpress, Option.map_some, closed_moved]
    rw [hmp] at hx
    obtain ⟨pc, q, e⟩ := moveOnward_other y
    refine ⟨_, hx, hmp, fun ho ha => ?_, ?_, ?_⟩
    · show d ∈ (moveOnward y).wa.packQueue
      rw [moveOnward_wa]
      refine mem_joinDays.2 (.inr (mem_keysWhere_of_part hyp ?_))
      have hq : p.quietExpired = true ∨ s.wa.pressure = true := by
        by_contra hn
        rw [show after = p.state from if_neg fun h => hn h.2, ho] at ha
        cases ha
      simpa [Partition.onward, ho, hpress] using hq
    · refine respond_lp Status.ok _ ?_
      rw [e, ← hy]
      rfl
    · rw [e, ← hy]
      exact ⟨rfl, rfl, rfl, rfl, rfl, rfl, rfl, rfl, rfl, rfl, rfl⟩

/-! ## The reading kinds -/

/-- A request that is served by its answer alone. -/
theorem answers_respond {c : Instr} {k : Kind} {r : Request} {pool : Pool} {status : Nat} {payload : Bytes} {x : State}
    (hx : exec c s = .next (settle x)) (e : x = respond r.tag.toNat s.lp.epoch status payload (takenState k r pool s)) :
    Answers c s (replied k r pool status payload s) :=
  .of_exec (by rw [hx, e, respond_replied]) settled_replied

/-- A bank's 37 counters of 4 bytes and 3 of 8 (R151). -/
theorem bankBytes_length {bank : List Nat} (h : bank.length = 40) : (bankBytes bank).length = 172 := by
  simp [bankBytes, h]

theorem sum64_of_range {x : Int} (h : -9223372036854775808 ≤ x) (h' : x < 9223372036854775808) : sum64 x = x := if_pos ⟨h, h'⟩

theorem partitionInfoServed {r : Request} {d first : Nat} {pool : Pool} (h : Requested .partitionInfo r (.partitionInfo d first) pool s) :
    (Config.lastDay < d → Answers (.partitionInfo r) s (replied .partitionInfo r pool Status.valueRange [] s)) ∧
    (d ≤ Config.lastDay → s.part d = none → Answers (.partitionInfo r) s (replied .partitionInfo r pool Status.notFound [] s)) ∧
    (∀ p, d ≤ Config.lastDay → s.part d = some p →
      Answers (.partitionInfo r) s (replied .partitionInfo r pool Status.ok (s.partitionView d first p) s)) := by
  have hx : exec (.partitionInfo r) s = .next (settle (servePartitionInfo r.tag.toNat s.lp.epoch d first (takenState .partitionInfo r pool s))) := by
    simp only [exec, execPartitionInfo, served_requested h]
    rfl
  have hpart : (takenState .partitionInfo r pool s).part d = s.part d := rfl
  refine ⟨fun hd => answers_respond hx ?_, fun hd hp => answers_respond hx ?_, fun p hd hp => answers_respond hx ?_⟩
  · rw [servePartitionInfo, if_pos hd]
  · rw [servePartitionInfo, if_neg (Nat.not_lt.2 hd), hpart, hp]
  · rw [servePartitionInfo, if_neg (Nat.not_lt.2 hd), hpart, hp]
    rfl

theorem readCountersServed {r : Request} {bank : Nat} {pool : Pool} (h : Requested .readCounters r (.readCounters bank) pool s) :
    (1 < bank → Answers (.readCounters r) s (replied .readCounters r pool Status.valueRange [] s)) ∧
    (bank = 0 → Answers (.readCounters r) s (replied .readCounters r pool Status.ok (optional 2 none ++ bankBytes s.au.current) s)) ∧
    (bank = 1 → Answers (.readCounters r) s
      (replied .readCounters r pool Status.ok (optional 2 s.au.captureDay ++ bankBytes s.au.previous) s)) := by
  have hx : exec (.readCounters r) s = .next (settle (serveReadCounters r.tag.toNat s.lp.epoch bank (takenState .readCounters r pool s))) := by
    simp only [exec, execReadCounters, served_requested h]
    rfl
  refine ⟨fun hb => answers_respond hx ?_, fun hb => answers_respond hx ?_, fun hb => answers_respond hx ?_⟩
  · rw [serveReadCounters, if_neg (by omega), if_neg (by omega)]
  · rw [serveReadCounters, if_pos hb]
    rfl
  · rw [serveReadCounters, if_neg (by omega), if_pos hb]
    rfl

theorem readAccountServed {r : Request} {source day : Nat} {pool : Pool} (h : Requested .readAccount r (.readAccount source day) pool s) :
    (source = 0 ∨ Config.maxSource < source ∨ Config.lastDay < day → Answers (.readAccount r) s (replied .readAccount r pool Status.valueRange [] s)) ∧
    (¬ (source = 0 ∨ Config.maxSource < source ∨ Config.lastDay < day) →
      (Tab.get s.au.accounts (accountKey source day) = none → Answers (.readAccount r) s (replied .readAccount r pool Status.notFound [] s)) ∧
      (∀ a, Tab.get s.au.accounts (accountKey source day) = some a →
        Answers (.readAccount r) s (replied .readAccount r pool Status.ok a.view s))) := by
  have hx : exec (.readAccount r) s = .next (settle (serveReadAccount r.tag.toNat s.lp.epoch source day (takenState .readAccount r pool s))) := by
    simp only [exec, execReadAccount, served_requested h]
    rfl
  have hacc : (takenState .readAccount r pool s).au = s.au := rfl
  refine ⟨fun hb => answers_respond hx ?_, fun hb => ⟨fun ha => answers_respond hx ?_, fun a ha => answers_respond hx ?_⟩⟩
  · rw [serveReadAccount, if_pos hb]
  · rw [serveReadAccount, if_neg hb, hacc, ha]
  · rw [serveReadAccount, if_neg hb, hacc, ha]

/-- Settles O29. -/
theorem readingKindsServed : Obligations.ReadingKindsServed := by
  refine ⟨fun r d first pool s h => ?_, fun r bank pool s h => ?_, fun r source day pool s h => ?_⟩
  · obtain ⟨hrange, hnone, hsome⟩ := partitionInfoServed h
    refine ⟨hrange, hnone, fun p hd hp => ⟨fun hl => ?_, ?_⟩⟩
    · rw [List.drop_eq_nil_of_le hl]
      rfl
    · have hv := hsome p hd hp
      unfold State.partitionView PartState.code at hv
      exact hv
  · obtain ⟨hrange, hcurrent, hprevious⟩ := readCountersServed h
    have hday : (match s.au.captureDay with | none => [0] | some d => [1] ++ be 2 d : Bytes) = optional 2 s.au.captureDay := by
      cases s.au.captureDay <;> rfl
    intro answers body day
    have hbody (b : List Nat) (hb : b.length = 40) : (body b).length = 172 := bankBytes_length hb
    have hd : day = optional 2 s.au.captureDay := hday
    refine ⟨hrange, hcurrent, fun hb => ?_, fun hc => ?_, fun hc => ?_⟩
    · rw [hd]
      exact hprevious hb
    · rw [List.length_append, hbody _ hc]
      rfl
    · rw [List.length_append, hbody _ hc, hd]
      cases s.au.captureDay <;> simp [Wire.optional]
  · obtain ⟨hrange, hin⟩ := readAccountServed h
    refine ⟨hrange, fun h1 h2 h3 => ?_⟩
    obtain ⟨hnone, hsome⟩ := hin (by simp only [Config.maxSource, Config.lastDay]; omega)
    refine ⟨hnone, fun a ha hlow hhigh => ⟨?_, ?_⟩⟩
    · simp [beInt_length]
    · have hv := hsome a ha
      rw [Account.view, Account.liveSum, sum64_of_range hlow hhigh] at hv
      exact hv

end Sys2Proof.Machine
end

section
/-! Time passing over the partitions: the quiet timers, a rollover where one is due, and the move onward; SET_TIME (O24). -/

namespace Sys2Proof.Machine

open Wire

variable {s t u : State}

/-! ## One partition -/

/-- The day close of a partition, where one comes (R43). -/
def Partition.closing (closes : Bool) (p : Partition) : Partition := if closes then { p with dayClosed := true } else p

theorem Partition.closing_eq (closes : Bool) (p : Partition) : p.closing closes = { p with dayClosed := p.dayClosed || closes } := by
  unfold closing
  cases closes <;> simp

/-- A running quiet timer after n seconds (R40, R45). -/
theorem Partition.advanceQuiet_eq (code n : Nat) (p : Partition) : p.advanceQuiet code n =
    let runs := decide (p.state = .opened) && !p.quietExpired && decide (p.quietElapsed < intervalOf code)
    { p with quietElapsed := if runs then min (p.quietElapsed + n) (intervalOf code) else p.quietElapsed
             quietExpired := p.quietExpired || (runs && decide (intervalOf code ≤ p.quietElapsed + n)) } := by
  have hcode : p.quietElapsed < intervalOf code → code ≠ 0 := by
    rintro h rfl
    exact absurd h (by simp [intervalOf, Config.intervalSeconds])
  unfold advanceQuiet
  split
  · rename_i h
    obtain ⟨ho, he, -, hl⟩ := h
    split
    · rename_i hi
      simp [ho, he, hl, hi]
    · rename_i hi
      simp only [ho, he, hl, hi, decide_true, decide_false, Bool.and_true, Bool.and_false, Bool.or_false, Bool.not_false, if_true]
      simp [Nat.min_eq_left (Nat.le_of_lt (Nat.not_le.1 hi))]
  · rename_i h
    have hr : (decide (p.state = .opened) && !p.quietExpired && decide (p.quietElapsed < intervalOf code)) = false := by
      by_contra hc
      simp only [Bool.not_eq_false, Bool.and_eq_true, decide_eq_true_eq, Bool.not_eq_true'] at hc
      exact h ⟨hc.1.1, by simp [hc.1.2], hcode hc.2, hc.2⟩
    simp [hr]

/-- The timer, the day close and the move onward of a partition together. -/
theorem Partition.afterTime_eq (code n : Nat) (closes b : Bool) (p : Partition) :
    ((p.advanceQuiet code n).closing closes).moved b = partAfterTime (intervalOf code) n closes b p := by
  rw [moved_eq, closing_eq, advanceQuiet_eq]
  simp [partAfterTime, onward, and_assoc]

theorem Partition.advanceQuiet_zero (code : Nat) (p : Partition) : p.advanceQuiet code 0 = p := by
  unfold advanceQuiet
  split
  · rename_i h
    rw [if_neg (by omega)]
    rfl
  · rfl

/-- Moving onward reads no expiry-due flag. -/
theorem Partition.moved_flags (b : Bool) (p : Partition) (x : PerClass Bool) :
    Partition.moved b { p with expiryDue := x } = { p.moved b with expiryDue := x } := by
  unfold moved onward
  split <;> rfl

/-- The days that move onward are the OPEN ones that are QUIET after it. -/
theorem Partition.onward_eq (b : Bool) (p : Partition) :
    p.onward b = (decide (p.state = .opened) && decide ((p.moved b).state = .quiet)) := by
  by_cases h : p.onward b = true
  · have ho : p.state = .opened := by
      simp only [onward, Bool.and_eq_true, decide_eq_true_eq] at h
      exact h.1.1
    simp [moved, h, ho]
  · rw [moved, if_neg h, Bool.eq_false_iff.2 h]
    cases p.state <;> rfl

/-! ## A rollover -/

/-- A partition closed at a rollover on the state's current day. -/
def State.closesDay (s : State) (d : Nat) : Bool := decide (d + s.cl.settings.graceDays < s.currentDay)

theorem closeDays_parts (s : State) : (closeDays s).pc.parts = Tab.mapAll s.pc.parts fun d p => p.closing (s.closesDay d) := by
  have h (d : Nat) (p : Partition) : (if d + s.cl.settings.graceDays < s.currentDay then { p with dayClosed := true } else p) =
      p.closing (s.closesDay d) := by
    unfold Partition.closing State.closesDay
    split <;> simp_all
  exact congrArg (Tab.mapAll s.pc.parts) (funext fun d => funext (h d))

/-- What is raised at a time: a rollover where one is due, a full pass where else asked for, or nothing. -/
structure Raised (passes : Bool) (s u : State) : Prop where
  parts : ∃ f : Nat → Partition → PerClass Bool, u.pc.parts = Tab.mapAll s.pc.parts fun d p =>
    { p.closing (s.rolloverDue && s.closesDay d) with expiryDue := f d p }
  shape : ∃ pc q, u = { s with
    ck := { s.ck with rolloverDay := if s.rolloverDue then s.currentDay else s.ck.rolloverDay }, pc := pc
    ru := { s.ru with queue := q, table := if s.rolloverDue then activated s.ru.table else s.ru.table }
    au := { s.au with previous := if s.rolloverDue then s.au.current else s.au.previous
                      captureDay := if s.rolloverDue then some s.currentDay else s.au.captureDay } }
  pass : Tab.rising s.pc.parts = true → FullPass (s.rolloverDue || passes && s.ck.clockSet) s.currentDay s u

theorem Raised.of_rollover (passes : Bool) (h : s.rolloverDue = true) : Raised passes s (rollover s) where
  parts := by
    obtain ⟨f, hf⟩ := activateRetention_parts (closeDays (s.mapCk fun k => { k with rolloverDay := dayOf k.archiveTime }))
    refine ⟨fun d p => f d (p.closing (s.closesDay d)), ?_⟩
    calc (rollover s).pc.parts = _ := hf
      _ = _ := by
        rw [closeDays_parts, Tab.mapAll_mapAll, h]
        rfl
  shape := by
    obtain ⟨pc, q, e⟩ := rollover_eq s
    refine ⟨pc, q, ?_⟩
    rw [e, h]
    rfl
  pass hk := by
    have hc : s.ck.clockSet = true := by
      simp only [State.rolloverDue, Bool.and_eq_true] at h
      exact h.1
    have hp := FullPass.of_activateRetention (s := closeDays (s.mapCk fun k => { k with rolloverDay := dayOf k.archiveTime }))
      (by rw [closeDays_parts]; exact Tab.rising_mapAll _ hk)
    have hf : FullPass s.ck.clockSet s.currentDay s (activateRetention (closeDays (s.mapCk fun k => { k with rolloverDay := dayOf k.archiveTime }))) := by
      refine hp.before (fun d => ?_) rfl rfl
      rw [closeDays_part, Option.map_map]
      refine congrArg (fun f => Option.map f _) (funext fun p => ?_)
      dsimp only [Function.comp]
      split <;> rfl
    rw [h, Bool.true_or, ← hc]
    exact hf.after (fun _ => rfl) rfl

theorem Raised.of_pass (h : s.rolloverDue = false) : Raised true s (fullPass s) where
  parts := by
    obtain ⟨f, hf⟩ := fullPass_parts s
    exact ⟨f, by rw [hf, h]; rfl⟩
  shape := by
    rw [h]
    cases hc : s.ck.clockSet with
    | false => exact ⟨s.pc, s.ru.queue, by rw [fullPass_unset hc]; rfl⟩
    | true =>
      obtain ⟨q, e, -⟩ := fullPass_set hc
      exact ⟨_, q, e⟩
  pass hk := by
    rw [h]
    simpa using FullPass.of_fullPass hk

theorem Raised.of_nothing (h : s.rolloverDue = false) : Raised false s s where
  parts := ⟨fun _ p => p.expiryDue, by rw [h]; exact (Tab.mapAll_id _).symm⟩
  shape := ⟨s.pc, s.ru.queue, by rw [h]; rfl⟩
  pass _ := by
    rw [h]
    exact .none_ran _ s

/-! ## Time passing -/

/-- What time makes of the partitions: each as it is at `base`, or closed where a rollover comes, and then moved onward. -/
structure TimePassed (base : Nat → Partition → Partition) (passes : Bool) (s u : State) : Prop where
  parts : ∃ f : Nat → Partition → PerClass Bool, u.pc.parts = Tab.mapAll s.pc.parts fun d p =>
    { ((base d p).closing (s.rolloverDue && s.closesDay d)).moved s.wa.pressure with expiryDue := f d p }
  shape : ∃ pc q pack, u = { s with
    ck := { s.ck with rolloverDay := if s.rolloverDue then s.currentDay else s.ck.rolloverDay }, pc := pc
    ru := { s.ru with queue := q, table := if s.rolloverDue then activated s.ru.table else s.ru.table }
    au := { s.au with previous := if s.rolloverDue then s.au.current else s.au.previous
                      captureDay := if s.rolloverDue then some s.currentDay else s.au.captureDay }
    wa := { s.wa with packQueue := pack } }
  pass : Tab.rising s.pc.parts = true → FullPass (s.rolloverDue || passes && s.ck.clockSet) s.currentDay s u
  pack : Tab.rising s.pc.parts = true → (∀ d p, s.part d = some p → p.state = .opened → d ∉ s.wa.packQueue) →
    u.wa.packQueue = s.wa.packQueue ++ Tab.keysWhere s.pc.parts fun d p => decide (p.state = .opened) &&
      decide ((((base d p).closing (s.rolloverDue && s.closesDay d)).moved s.wa.pressure).state = .quiet)

/-- A base: what has been done to the partitions, that keeps what a pass reads of them and their states. -/
structure Basis (base : Nat → Partition → Partition) : Prop where
  state : ∀ d p, (base d p).state = p.state
  scheduled : ∀ d p, (base d p).scheduled = p.scheduled

theorem TimePassed.of_raised {base : Nat → Partition → Partition} {passes : Bool} (hb : Basis base)
    (ht : t = s.mapPc fun c => { c with parts := Tab.mapAll c.parts base }) (h : Raised passes t u) :
    TimePassed base passes s (moveOnward u) := by
  have hparts : t.pc.parts = Tab.mapAll s.pc.parts base := by rw [ht]; rfl
  have hdue : t.rolloverDue = s.rolloverDue := by rw [ht]; rfl
  have hcl (d : Nat) : t.closesDay d = s.closesDay d := by rw [ht]; rfl
  obtain ⟨f, hf⟩ := h.parts
  obtain ⟨pc, q, hshape⟩ := h.shape
  have hpress : u.wa.pressure = s.wa.pressure := by rw [hshape, ht]; rfl
  have hpack : u.wa.packQueue = s.wa.packQueue := by rw [hshape, ht]; rfl
  have hup : u.pc.parts = Tab.mapAll s.pc.parts fun d p =>
      { (base d p).closing (s.rolloverDue && s.closesDay d) with expiryDue := f d (base d p) } := by
    rw [hf, hparts, Tab.mapAll_mapAll, hdue]
    simp only [hcl]
  refine { parts := ⟨fun d p => f d (base d p), ?_⟩, shape := ?_, pass := fun hk => ?_, pack := fun hk ho => ?_ }
  · rw [moveOnward_eq]
    show Tab.mapAll u.pc.parts (fun _ p => p.moved u.wa.pressure) = _
    rw [hup, Tab.mapAll_mapAll, hpress]
    simp only [Partition.moved_flags]
  · obtain ⟨pc', q', e⟩ := moveOnward_other u
    refine ⟨pc', q, q', ?_⟩
    rw [e, hshape, ht]
    rfl
  · have hp : FullPass (s.rolloverDue || passes && s.ck.clockSet) s.currentDay t u := by
      have hp := h.pass (by rw [hparts]; exact Tab.rising_mapAll _ hk)
      rw [hdue, show t.ck = s.ck by rw [ht]; rfl, show t.currentDay = s.currentDay by rw [ht]; rfl] at hp
      exact hp
    refine (hp.before (s := s) (fun d => ?_) (by rw [ht]; rfl) (by rw [ht]; rfl)).after (fun d => ?_) ?_
    · rw [part_of_mapAll hparts, Option.map_map]
      exact congrArg (fun g => Option.map g _) (funext fun p => hb.scheduled d p)
    · rw [moveOnward_part, Option.map_map]
      exact congrArg (fun g => Option.map g _) (funext fun p => Partition.moved_expiryDue _ p)
    · obtain ⟨_, _, e⟩ := moveOnward_other u
      rw [e]
  · have hstate (d : Nat) (p : Partition) : ((base d p).closing (s.rolloverDue && s.closesDay d)).state = p.state := by
      rw [Partition.closing_eq]
      exact hb.state d p
    rw [moveOnward_appends, hpack, hpress, hup, Tab.keysWhere_mapAll]
    · refine congrArg (fun g => _ ++ Tab.keysWhere _ g) (funext fun d => funext fun p => ?_)
      rw [Partition.onward_eq, Partition.moved_flags, ← hstate d p]
    · rw [hup]
      exact Tab.rising_mapAll _ hk
    · intro d p hd hst
      rw [part_of_mapAll hup] at hd
      obtain ⟨p', hp', rfl⟩ := Option.map_eq_some_iff.1 hd
      rw [hpack]
      exact ho d p' hp' ((hstate d p').symm.trans hst)

/-- The quiet timers after n seconds as a basis. -/
theorem basis_advanceQuiet (code n : Nat) : Basis fun _ p => p.advanceQuiet code n where
  state _ p := by rw [Partition.advanceQuiet_eq]
  scheduled _ p := by rw [Partition.advanceQuiet_eq]; rfl

/-! ## SET_TIME -/

/-- The clock as SET_TIME sets it. -/
def State.timeSet (s : State) (time : Nat) : State := s.mapCk fun k => { k with archiveTime := time, clockSet := true }

/-- The seconds that the quiet timers count at a SET_TIME (R45). -/
def State.skips (s : State) (time : Nat) : Nat := if s.ck.clockSet then time - s.ck.archiveTime else 0

theorem serveSetTime_eq (tag epoch : Nat) {time : Nat} (h : s.ck.archiveTime ≤ time) : ∃ u,
    serveSetTime tag epoch time s = respond tag epoch Status.ok (be 4 time ++ flag (s.timeSet time).rolloverDue) u ∧
    TimePassed (fun _ p => p.advanceQuiet s.cl.settings.quietCode (s.skips time)) (!s.ck.clockSet) (s.timeSet time) u := by
  generalize hb : (fun (_ : Nat) (p : Partition) => p.advanceQuiet s.cl.settings.quietCode (s.skips time)) = base
  generalize ht : (s.timeSet time).mapPc (fun c => { c with parts := Tab.mapAll c.parts base }) = t
  have hadv : (if s.ck.clockSet then advanceQuietTimers (time - s.ck.archiveTime) (s.timeSet time) else s.timeSet time) = t := by
    rw [← ht, ← hb, State.skips]
    cases s.ck.clockSet with
    | true => rfl
    | false =>
      simp only [Bool.false_eq_true, if_false, Partition.advanceQuiet_zero, Tab.mapAll_id]
      rfl
  have hdue : t.rolloverDue = (s.timeSet time).rolloverDue := by rw [← ht]; rfl
  have hu : serveSetTime tag epoch time s = respond tag epoch Status.ok (be 4 time ++ flag t.rolloverDue)
      (moveOnward (if t.rolloverDue then rollover t else if s.ck.clockSet then t else fullPass t)) := by
    rw [serveSetTime, if_neg (by omega)]
    exact congrArg (fun x => respond tag epoch Status.ok (be 4 time ++ flag x.rolloverDue)
      (moveOnward (if x.rolloverDue then rollover x else if s.ck.clockSet then x else fullPass x))) hadv
  refine ⟨_, by rw [hu, hdue], TimePassed.of_raised (hb ▸ basis_advanceQuiet _ _) ht.symm ?_⟩
  cases hr : t.rolloverDue with
  | true =>
    rw [← hdue, hr, if_pos rfl]
    exact .of_rollover _ hr
  | false =>
    rw [← hdue, hr, if_neg (by decide)]
    cases s.ck.clockSet with
    | true => exact .of_nothing hr
    | false => exact .of_pass hr

/-- Settles O24. -/
theorem setTimeServed : Obligations.SetTimeServed := by
  intro r time pool s h
  have hx : exec (.setTime r) s = .next (settle (serveSetTime r.tag.toNat s.lp.epoch time (takenState .setTime r pool s))) := by
    simp only [exec, execSetTime, served_requested h]
    rfl
  refine ⟨fun ht => answers_respond hx ?_, fun ht => ?_⟩
  · rw [serveSetTime, if_pos (show time < (takenState .setTime r pool s).ck.archiveTime from ht)]
    rfl
  · intro rolls after
    obtain ⟨u, hu, hp⟩ := serveSetTime_eq (s := takenState .setTime r pool s) r.tag.toNat s.lp.epoch ht
    have hdue : ((takenState .setTime r pool s).timeSet time).rolloverDue = rolls := Bool.true_and _
    obtain ⟨f, hf⟩ := hp.parts
    obtain ⟨pc, q, pack, hshape⟩ := hp.shape
    rw [hdue] at hf hshape hu
    have hafter (d : Nat) (p : Partition) : (((p.advanceQuiet s.cl.settings.quietCode (s.skips time)).closing
        (rolls && decide (d + s.cl.settings.graceDays < time / 86400))).moved s.wa.pressure) = after d p := Partition.afterTime_eq _ _ _ _ _
    have hpart (d : Nat) : u.part d = (s.part d).map fun p => { after d p with expiryDue := f d p } := by
      rw [part_of_mapAll (s := s) hf]
      exact congrArg (fun g => Option.map g _) (funext fun p => by rw [← hafter]; rfl)
    rw [hu] at hx
    refine ⟨_, hx, ?_, ?_, ?_, fun c => ?_, fun d hd => ?_, fun d p hd => ?_, fun hk => ?_, fun hk ho => ?_, ?_⟩
    · show u.ck = _
      rw [hshape]
      rfl
    · rw [respond_lp Status.ok _ (show u.lp = (takenState .setTime r pool s).lp by rw [hshape]; rfl)]
      rfl
    · show u.au = _
      rw [hshape]
      rfl
    · show u.ru.table.get c = _
      rw [hshape]
      show PerClass.get (if rolls then activated s.ru.table else s.ru.table) c = _
      split
      · exact activated_get _ c
      · rfl
    · exact (hpart d).trans (by rw [hd]; rfl)
    · exact ⟨_, (hpart d).trans (by rw [hd]; rfl), rfl⟩
    · have hpass := hp.pass hk.2.1
      rw [hdue, show ((takenState .setTime r pool s).timeSet time).ck.clockSet = true from rfl, Bool.and_true] at hpass
      exact (hpass.before (s := s) (fun _ => rfl) rfl rfl).after (fun _ => rfl) rfl
    · refine (hp.pack hk.2.1 ho).trans (congrArg (fun g => s.wa.packQueue ++ Tab.keysWhere s.pc.parts g) ?_)
      funext d p
      rw [← hafter, hdue]
      rfl
    · show u.wa = { s.wa with packQueue := u.wa.packQueue } ∧ _
      rw [hshape]
      exact ⟨rfl, rfl, rfl, rfl, rfl, rfl, rfl, rfl, rfl, rfl⟩

end Sys2Proof.Machine
end

section
/-! The end of a warm reset (O21). -/

namespace Sys2Proof.Machine

open Wire

variable {s t u : State}

theorem Partition.moved_moved (b : Bool) (p : Partition) : (p.moved b).moved b = p.moved b := by
  by_cases h : p.onward b = true
  · exact Partition.moved_of_ne b (by rw [moved, if_pos h]; exact nofun)
  · rw [show p.moved b = p from if_neg h, show p.moved b = p from if_neg h]

theorem Partition.onward_moved (b : Bool) (p : Partition) : (p.moved b).onward b = false := by
  by_cases h : p.onward b = true
  · rw [moved, if_pos h]
    rfl
  · rw [show p.moved b = p from if_neg h]
    exact Bool.eq_false_iff.2 h

/-- What has moved onward does not move again. -/
theorem moveOnward_moveOnward (s : State) : moveOnward (moveOnward s) = moveOnward s := by
  have hkeys : (Tab.keysWhere (Tab.mapAll s.pc.parts fun _ p => p.moved s.wa.pressure) fun _ p => p.onward s.wa.pressure) = [] := by
    rw [Tab.keysWhere_mapAll]
    simp [Partition.onward_moved, Tab.keysWhere, Tab.keep]
  rw [moveOnward_eq s, moveOnward_eq]
  simp only [State.mapWa, State.mapPc, Tab.mapAll_mapAll, Partition.moved_moved, hkeys]
  rfl

/-- An evaluation of pressure followed by the move onward: the partitions move at the pressure found (R47, R48, R170, R171). -/
theorem moveOnward_evalPressure (s : State) : ∃ l, (s.lp.withheld = 0 → l = s.lp) ∧
    moveOnward (evalPressure s) = moveOnward { s with lp := l, wa := { s.wa with pressure := s.pressureAfter } } := by
  unfold evalPressure State.pressureAfter
  cases hp : s.wa.pressure with
  | true =>
    by_cases h : s.cl.settings.highWatermark ≤ s.freeSlots
    · obtain ⟨l, e, -, -, -, -, -, hl⟩ := returnWithheld_eq (s.mapWa fun w => { w with pressure := false })
      refine ⟨l, hl, ?_⟩
      simp only [if_true, h, e, decide_true, Bool.not_true]
      rfl
    · refine ⟨s.lp, fun _ => rfl, ?_⟩
      simp only [if_true, h, if_false, decide_false, Bool.not_false]
      rw [← hp]
  | false =>
    refine ⟨s.lp, fun _ => rfl, ?_⟩
    by_cases h : s.freeSlots < s.cl.settings.lowWatermark
    · simp only [Bool.false_eq_true, if_false, h, if_true, decide_true, moveOnward_moveOnward]
      rfl
    · simp only [Bool.false_eq_true, if_false, h, decide_false]
      rw [← hp]

theorem fullPass_shape (s : State) : ∃ pc q, fullPass s = { s with pc := pc, ru := { s.ru with queue := q } } := by
  cases h : s.ck.clockSet with
  | false => exact ⟨s.pc, s.ru.queue, fullPass_unset h⟩
  | true =>
    obtain ⟨q, e, -⟩ := fullPass_set h
    exact ⟨_, q, e⟩

/-- Settles O21. -/
theorem warmResetEndRebuilds : Obligations.WarmResetEndRebuilds := by
  refine ⟨fun s hp hw hr hk => ?_, fun s h => ?_⟩
  · intro free pressed leaves
    let y := rebuildQueues (s.mapPower fun p => { p with warmReset := false })
    have hx : exec .warmResetEnd s = .next (settle (fullPass (moveOnward (evalPressure y)))) := by
      simp only [exec, execWarmResetEnd, State.warmResetDone, hp, hw, hr]
      rfl
    obtain ⟨l, hl, hmoved⟩ := moveOnward_evalPressure y
    have hpressed : y.pressureAfter = pressed := by
      have hflip : (!decide (s.cl.settings.highWatermark ≤ free)) = decide (free < s.cl.settings.highWatermark) := by
        rw [← decide_not]
        exact decide_eq_decide.2 Nat.not_le
      show (if s.wa.pressure then !decide (s.cl.settings.highWatermark ≤ free) else decide (free < s.cl.settings.lowWatermark)) = pressed
      rw [hflip]
    rw [hmoved, hpressed] at hx
    generalize hz : ({ y with lp := l, wa := { y.wa with pressure := pressed } } : State) = z at hx
    have hzparts : z.pc.parts = s.pc.parts := by rw [← hz]; rfl
    have hzpack : z.wa.packQueue = Tab.keysWhere s.pc.parts fun _ p => decide (p.state = .quiet) := by rw [← hz]; rfl
    have hzpress : z.wa.pressure = pressed := by rw [← hz]
    have hpack : (moveOnward z).wa.packQueue = Tab.keysWhere s.pc.parts (fun _ p => decide (p.state = .quiet)) ++
        Tab.keysWhere s.pc.parts (fun _ p => leaves p) := by
      rw [moveOnward_appends (by rw [hzparts]; exact hk.2.1), hzpack, hzparts, hzpress]
      · rfl
      · intro d p hd ho hm
        rw [hzpack] at hm
        obtain ⟨p', hp', hq⟩ := (Days.mem_keysWhere hk.2.1).1 hm
        have hd' : Tab.get s.pc.parts d = some p := by rw [← hzparts]; exact hd
        rw [hd'] at hp'
        cases hp'
        rw [ho] at hq
        exact absurd hq (by decide)
    obtain ⟨f, hf⟩ := fullPass_parts (moveOnward z)
    obtain ⟨pc, q, hshape⟩ := fullPass_shape (moveOnward z)
    obtain ⟨pc', q', hmove⟩ := moveOnward_other z
    have hpart (d : Nat) : (fullPass (moveOnward z)).part d = (s.part d).map fun p =>
        { p with state := if leaves p then .quiet else p.state, expiryDue := f d (p.moved pressed) } := by
      rw [part_of_mapAll hf, moveOnward_part, Option.map_map, State.part, hzparts, hzpress]
      refine congrArg (fun g => Option.map g _) (funext fun p => ?_)
      show { p.moved pressed with expiryDue := f d (p.moved pressed) } = _
      generalize f d (p.moved pressed) = flags
      rw [Partition.moved_eq]
      rfl
    have hpass : FullPass s.ck.clockSet (s.ck.archiveTime / 86400) s (fullPass (moveOnward z)) := by
      have h := FullPass.of_fullPass (s := moveOnward z)
        (by rw [moveOnward_eq]; exact Tab.rising_mapAll (fun _ p => p.moved z.wa.pressure) (hzparts ▸ hk.2.1))
      have hck : (moveOnward z).ck = s.ck := by rw [hmove, ← hz]; rfl
      rw [State.currentDay, hck] at h
      refine h.before (fun d => ?_) (by rw [hmove, ← hz]; rfl) (by rw [hmove, ← hz]; rfl)
      rw [moveOnward_part, Option.map_map, State.part, hzparts]
      refine congrArg (fun g => Option.map g _) (funext fun p => ?_)
      simp [Partition.scheduled]
    rw [hshape] at hpart hpass hx
    refine ⟨_, hx, ?_, hpack, ?_, ?_, fun d hd => ?_, fun d p hd => ⟨_, (hpart d).trans (by rw [hd]; rfl), rfl⟩, hpass, ?_⟩
    · rw [hmove, ← hz]; rfl
    · rw [hmove, ← hz]; rfl
    · rw [hmove, ← hz]; rfl
    · exact (hpart d).trans (by rw [hd]; rfl)
    · rw [hmove, ← hz]
      exact ⟨rfl, rfl, hl, rfl, rfl, rfl, rfl, rfl, rfl, rfl, rfl, rfl⟩
  · have hd : s.warmResetDone = false := by
      rcases h with h | h <;> simp [State.warmResetDone, h]
    simp only [exec, execWarmResetEnd, hd, Bool.false_eq_true, if_false]

end Sys2Proof.Machine
end

section
/-! The patrol's timer and search, the idle timers of files, and a second event (O25). -/

namespace Sys2Proof.Machine

open Wire

variable {s t u : State}

/-! ## The lowest day of a range -/

theorem dayFrom_of_mapAll {f : Nat → Partition → Partition} (h : t.pc.parts = Tab.mapAll s.pc.parts f) (first last : Nat) :
    t.dayFrom first last = s.dayFrom first last := by
  unfold State.dayFrom Tab.first
  rw [h, Tab.mapAll, List.find?_map, Option.map_map]
  rfl

/-! ## The patrol's timer -/

/-- A patrol step at its beginning, the day found first (R162). -/
def PatrolStep.beginning (d : Nat) : PatrolStep := { began := some d, wrapped := false, day := d, seg := 0, place := 0, stage := .pinWait }

/-- The day that a patrol step begins on: the lowest at or above the cursor's, or the lowest of all (R162). -/
def State.patrolStart (s : State) : Option Nat :=
  if (s.dayFrom s.au.cursorDay Config.lastDay).isSome then s.dayFrom s.au.cursorDay Config.lastDay else s.dayFrom 0 Config.lastDay

/-- The Audit Unit after a patrol step has begun (R161, R162). -/
def State.patrolBegun (s : State) : AuditUnit :=
  { s.au with
    patrol := s.patrolStart.map PatrolStep.beginning
    patrolElapsed := if s.patrolStart = none then 0 else s.au.patrolElapsed
    cursorDay := if s.dayFrom s.au.cursorDay Config.lastDay = none then 0 else s.au.cursorDay
    cursorPlace := if s.dayFrom s.au.cursorDay Config.lastDay = none then 0 else s.au.cursorPlace }

/-- A partition whose wait queue the patrol joins. -/
def Partition.patrolled (joins : Bool) (p : Partition) : Partition := if joins then p.withQueue (p.waitQueue ++ [.patrol]) else p

theorem beginPatrol_eq (s : State) : beginPatrol s = { s with
    au := s.patrolBegun
    pc := { s.pc with parts := Tab.mapAll s.pc.parts fun d p => p.patrolled (decide (s.patrolStart = some d)) } } := by
  have joins (d : Nat) (x : State) : joinQueue d .patrol x = { x with
      pc := { x.pc with parts := Tab.mapAll x.pc.parts fun i p => p.patrolled (decide (some d = some i)) } } := by
    unfold joinQueue updPart
    rw [State.mapPc, Tab.upd_eq_mapAll]
    refine congrArg (fun f => ({ x with pc := { x.pc with parts := Tab.mapAll x.pc.parts f } } : State)) (funext fun i => funext fun p => ?_)
    by_cases h : i = d
    · simp [Partition.patrolled, h]
    · simp [Partition.patrolled, h, Ne.symm h]
  unfold beginPatrol patrolSearch
  cases ha : s.dayFrom s.au.cursorDay Config.lastDay with
  | some d =>
    have hs : s.patrolStart = some d := by simp [State.patrolStart, ha]
    simp only [patrolFound, patrolAsks, joins, State.patrolBegun, hs, ha]
    rfl
  | none =>
    cases h0 : s.dayFrom 0 Config.lastDay with
    | some d =>
      have hs : s.patrolStart = some d := by simp [State.patrolStart, ha, h0]
      simp only [patrolFound, patrolAsks, joins, State.patrolBegun, hs, ha]
      rfl
    | none =>
      have hs : s.patrolStart = none := by simp [State.patrolStart, ha, h0]
      simp only [State.patrolBegun, hs, ha]
      simp [Partition.patrolled, Tab.mapAll_id]
      rfl

/-- The patrol timer counts a second while no step is in progress (R161). -/
def State.patrolCounts (s : State) : Bool := s.au.patrol.isNone && s.cl.settings.patrolCode != 0

/-- That second is the last of the patrol's interval (R161). -/
def State.patrolBegins (s : State) : Bool :=
  s.patrolCounts && decide (intervalOf s.cl.settings.patrolCode ≤ s.au.patrolElapsed + 1)

/-- The state with one more second on the patrol timer. -/
def State.patrolled (s : State) : State := s.mapAu fun a => { a with patrolElapsed := a.patrolElapsed + 1 }

theorem advancePatrolTimer_still (h : s.patrolCounts = false) : advancePatrolTimer s = s := by
  have hc : ¬ (s.au.patrol.isNone ∧ s.cl.settings.patrolCode ≠ 0) := by simpa [State.patrolCounts] using h
  have hd : s.patrolDue = false := by
    unfold State.patrolDue
    rw [show (s.au.patrol.isNone && s.cl.settings.patrolCode != 0) = false from h, Bool.false_and]
  rw [advancePatrolTimer, if_neg hc, comparePatrolTimer, hd]
  rfl

theorem advancePatrolTimer_counts (h : s.patrolCounts = true) :
    advancePatrolTimer s = if s.patrolBegins then beginPatrol s.patrolled else s.patrolled := by
  have hc : s.au.patrol.isNone ∧ s.cl.settings.patrolCode ≠ 0 := by simpa [State.patrolCounts] using h
  have hd : s.patrolled.patrolDue = s.patrolBegins := rfl
  rw [advancePatrolTimer, if_pos hc]
  show comparePatrolTimer s.patrolled = _
  rw [comparePatrolTimer, hd]

/-- The day that a step found at this second begins on. -/
def State.patrolFinds (s : State) : Option Nat := if s.patrolBegins then s.patrolStart else none

/-- The Audit Unit after the patrol timer's second (R161, R162). -/
def State.patrolAdvanced (s : State) : AuditUnit :=
  if s.patrolBegins then s.patrolled.patrolBegun else if s.patrolCounts then s.patrolled.au else s.au

theorem advancePatrolTimer_eq (s : State) : advancePatrolTimer s = { s with
    au := s.patrolAdvanced
    pc := { s.pc with parts := Tab.mapAll s.pc.parts fun d p => p.patrolled (decide (s.patrolFinds = some d)) } } := by
  have quiet (hb : s.patrolBegins = false) (a : AuditUnit) : ({ s with au := a, pc := { s.pc with
      parts := Tab.mapAll s.pc.parts fun d p => p.patrolled (decide (s.patrolFinds = some d)) } } : State) = { s with au := a } := by
    simp [State.patrolFinds, hb, Partition.patrolled, Tab.mapAll_id]
  cases hc : s.patrolCounts with
  | false =>
    have hb : s.patrolBegins = false := by rw [State.patrolBegins, hc, Bool.false_and]
    rw [advancePatrolTimer_still hc, quiet hb, State.patrolAdvanced, hb, hc]
    rfl
  | true =>
    rw [advancePatrolTimer_counts hc]
    cases hb : s.patrolBegins with
    | false =>
      rw [quiet hb, State.patrolAdvanced, hb, hc]
      rfl
    | true =>
      rw [if_pos rfl, beginPatrol_eq, State.patrolAdvanced, State.patrolFinds, hb]
      rfl

/-! ## The idle timers of files -/

/-- A file context after a second event (R40, R76). -/
def FileContext.aged (code : Nat) (queued : Bool) (c : FileContext) : FileContext :=
  let c := c.advanced code queued
  if c.idleDue code then { c with file := none } else c

/-- The OPEN contexts of a table. -/
def openCount (l : List FileContext) : Nat := l.countP fun c => c.file.isSome

theorem openCount_timedOut (due : FileContext → Bool) (hd : ∀ c, due c = true → c.file.isSome = true) (l : List FileContext) :
    openCount (l.map fun c => if due c then { c with file := none } else c) + l.countP due = openCount l := by
  induction l with
  | nil => rfl
  | cons c l ih =>
    simp only [openCount, List.map_cons, List.countP_cons] at ih ⊢
    cases h : due c with
    | false =>
      simp only [Bool.false_eq_true, if_false]
      omega
    | true =>
      simp only [if_true, hd c h, Option.isSome_none, Bool.false_eq_true, if_false]
      omega

theorem idleDue_open {code : Nat} {c : FileContext} (h : c.idleDue code = true) : c.file.isSome = true := by
  unfold FileContext.idleDue at h
  split at h
  · rename_i f hf
    rw [hf]
    rfl
  · cases h

theorem openCount_mapIdx (f : Nat → FileContext → FileContext) (hf : ∀ i c, (f i c).file.isSome = c.file.isSome) (l : List FileContext) :
    openCount (l.mapIdx f) = openCount l := by
  induction l generalizing f with
  | nil => rfl
  | cons c l ih =>
    simp only [openCount] at ih
    simp only [openCount, List.mapIdx_cons, List.countP_cons, ih (fun i => f (i + 1)) fun i c => hf (i + 1) c, hf]

theorem advanced_open (code : Nat) (queued : Bool) (c : FileContext) : (c.advanced code queued).file.isSome = c.file.isSome := by
  unfold FileContext.advanced
  split
  · rfl
  · cases c.file <;> rfl

/-- The idle timers at a second event: the contexts, and those that time out counted (R76). -/
theorem advanceIdleTimers_eq (s : State) :
    let contexts := s.ie.contexts.mapIdx fun i c => c.aged s.cl.settings.fileIdleCode (s.hasQueued i c.generation)
    advanceIdleTimers s = countUp .filesTimedOut (openCount s.ie.contexts - openCount contexts)
      (s.mapIe fun e => { e with contexts := contexts }) := by
  intro contexts
  let adv := s.ie.contexts.mapIdx fun i c => c.advanced s.cl.settings.fileIdleCode (s.hasQueued i c.generation)
  let due := FileContext.idleDue s.cl.settings.fileIdleCode
  have hc : (adv.map fun c => if due c then { c with file := none } else c) = contexts := by
    refine List.ext_getElem? fun i => ?_
    rw [List.getElem?_map, List.getElem?_mapIdx, List.getElem?_mapIdx, Option.map_map]
    rfl
  have hn : openCount contexts + adv.countP due = openCount s.ie.contexts := by
    rw [← hc, openCount_timedOut due (fun c h => idleDue_open h), openCount_mapIdx _ fun i c => advanced_open _ _ c]
  have hk : openCount s.ie.contexts - openCount contexts = adv.countP due := by omega
  rw [hk, ← hc]
  rfl

/-! ## A second event -/

/-- A second event before its rollover: the clock, the counters and the timers (R35, R45, R76, R161). -/
def State.secondCounted (s : State) : State :=
  let clock := countUp .hotSlotSeconds s.hs.slots.length (s.mapCk fun k => { k with archiveTime := k.archiveTime + 1 })
  advanceIdleTimers (if s.ck.clockSet then advanceQuietTimers 1 clock else clock)

theorem secondEvent_eq (s : State) : secondEvent s =
    moveOnward (if (advancePatrolTimer s.secondCounted).rolloverDue then rollover (advancePatrolTimer s.secondCounted)
      else advancePatrolTimer s.secondCounted) := rfl

/-- The partitions through a second event before its rollover (R45, R162). -/
def State.secondBase (s : State) (d : Nat) (p : Partition) : Partition :=
  (p.advanceQuiet s.cl.settings.quietCode (if s.ck.clockSet then 1 else 0)).patrolled (decide (s.patrolFinds = some d))

theorem Partition.patrolled_eq (joins : Bool) (p : Partition) : p.patrolled joins =
    { p with waitQueue := if joins then p.waitQueue ++ [.patrol] else p.waitQueue
             moverWaiting := if joins then p.waitQueue.any Waiter.isMover else p.moverWaiting } := by
  cases joins with
  | false => rfl
  | true => simp [patrolled, Partition.withQueue, Waiter.isMover]

/-- Joining the wait queue and moving onward do not read each other. -/
theorem patrolled_onward (joins closes pressure : Bool) (p : Partition) : ((p.patrolled joins).closing closes).moved pressure =
    { (p.closing closes).moved pressure with
      waitQueue := if joins then p.waitQueue ++ [.patrol] else p.waitQueue
      moverWaiting := if joins then p.waitQueue.any Waiter.isMover else p.moverWaiting } := by
  rw [Partition.patrolled_eq, Partition.closing_eq, Partition.moved_eq, Partition.closing_eq, Partition.moved_eq]
  rfl

theorem basis_second (s : State) : Basis s.secondBase where
  state d p := by rw [State.secondBase, Partition.patrolled_eq, Partition.advanceQuiet_eq]
  scheduled d p := by rw [State.secondBase, Partition.patrolled_eq, Partition.advanceQuiet_eq]; rfl

/-- The file contexts after a second event (R76). -/
def State.agedContexts (s : State) : List FileContext :=
  s.ie.contexts.mapIdx fun i c => c.aged s.cl.settings.fileIdleCode (s.hasQueued i c.generation)

/-- The counters after a second event (R76, R149). -/
def State.secondBank (s : State) : List Nat :=
  bankAdd (bankAdd s.au.current .hotSlotSeconds s.hs.slots.length) .filesTimedOut (openCount s.ie.contexts - openCount s.agedContexts)

/-- The state in which a rollover of a second event is raised, but for its partitions. -/
def State.secondTimed (s : State) : State :=
  { s with
    ck := { s.ck with archiveTime := s.ck.archiveTime + 1 }
    ie := { s.ie with contexts := s.agedContexts }
    au := { s.patrolAdvanced with current := s.secondBank } }

theorem secondCounted_shape (s : State) : s.secondCounted = { s with
    ck := { s.ck with archiveTime := s.ck.archiveTime + 1 }
    ie := { s.ie with contexts := s.agedContexts }
    au := { s.au with current := s.secondBank }
    pc := { s.pc with
      parts := Tab.mapAll s.pc.parts fun _ p => p.advanceQuiet s.cl.settings.quietCode (if s.ck.clockSet then 1 else 0) } } := by
  have hquiet (x : State) (hx : x.pc = s.pc ∧ x.cl = s.cl) : (if s.ck.clockSet then advanceQuietTimers 1 x else x) = { x with pc := { s.pc with
      parts := Tab.mapAll s.pc.parts fun _ p => p.advanceQuiet s.cl.settings.quietCode (if s.ck.clockSet then 1 else 0) } } := by
    rw [← hx.1, ← hx.2]
    cases s.ck.clockSet with
    | true => rfl
    | false => simp only [Bool.false_eq_true, if_false, Partition.advanceQuiet_zero, Tab.mapAll_id]
  rw [State.secondCounted]
  dsimp only
  rw [hquiet (countUp .hotSlotSeconds s.hs.slots.length (s.mapCk fun k => { k with archiveTime := k.archiveTime + 1 })) ⟨rfl, rfl⟩,
    advanceIdleTimers_eq]
  rfl

/-- The patrol reads the days, its own part of the Audit Unit and its interval alone. -/
theorem patrolAdvanced_congr {bank : List Nat} (hau : t.au = { s.au with current := bank }) (hcl : t.cl = s.cl)
    (hday : ∀ a b, t.dayFrom a b = s.dayFrom a b) :
    t.patrolFinds = s.patrolFinds ∧ t.patrolAdvanced = { s.patrolAdvanced with current := bank } := by
  have hcounts : t.patrolCounts = s.patrolCounts := by simp [State.patrolCounts, hau, hcl]
  have hbegins : t.patrolBegins = s.patrolBegins := by simp [State.patrolBegins, hcounts, hau, hcl]
  have hstart : t.patrolStart = s.patrolStart := by simp [State.patrolStart, hau, hday]
  have hstart' : t.patrolled.patrolStart = s.patrolled.patrolStart := hstart
  have hday' (a b : Nat) : t.patrolled.dayFrom a b = s.patrolled.dayFrom a b := hday a b
  have hau' : t.patrolled.au = { s.patrolled.au with current := bank } :=
    congrArg (fun a : AuditUnit => { a with patrolElapsed := a.patrolElapsed + 1 }) hau
  refine ⟨by simp only [State.patrolFinds, hbegins, hstart], ?_⟩
  unfold State.patrolAdvanced
  rw [hbegins, hcounts]
  split
  · simp only [State.patrolBegun, hstart', hau', hday']
  · split
    · exact hau'
    · exact hau

theorem secondCounted_eq (s : State) : advancePatrolTimer s.secondCounted =
    s.secondTimed.mapPc fun c => { c with parts := Tab.mapAll c.parts s.secondBase } := by
  obtain ⟨hfinds, hadvanced⟩ := patrolAdvanced_congr (t := s.secondCounted) (s := s) (bank := s.secondBank) (by rw [secondCounted_shape])
    (by rw [secondCounted_shape]) (dayFrom_of_mapAll (by rw [secondCounted_shape]))
  rw [advancePatrolTimer_eq, hfinds, hadvanced, secondCounted_shape]
  simp only [Tab.mapAll_mapAll]
  rfl

theorem secondEvent_reads (s : State) : TimePassed s.secondBase false s.secondTimed (secondEvent s) := by
  rw [secondEvent_eq, secondCounted_eq]
  refine .of_raised (basis_second s) rfl ?_
  cases hr : (s.secondTimed.mapPc fun c => { c with parts := Tab.mapAll c.parts s.secondBase }).rolloverDue with
  | true => exact .of_rollover _ hr
  | false => exact .of_nothing hr

/-- The idle count of an open file after a second (R76). -/
def OpenFile.idleAfter (code : Nat) (queued : Bool) (f : OpenFile) : Nat := if code = 0 ∨ queued = true then f.idle else f.idle + 1

theorem FileContext.aged_eq (code : Nat) (queued : Bool) (c : FileContext) : c.aged code queued = { c with
    file := c.file.bind fun f => if decide (code ≠ 0) && decide (intervalOf code ≤ f.idleAfter code queued) then none
      else some { f with idle := f.idleAfter code queued } } := by
  obtain ⟨generation, file⟩ := c
  have hadv (f : OpenFile) : FileContext.advanced code queued { generation := generation, file := some f } =
      { generation := generation, file := some { f with idle := f.idleAfter code queued } } := by
    unfold FileContext.advanced OpenFile.idleAfter
    by_cases h : code = 0 ∨ queued = true
    · rw [if_pos (by rcases h with h | h <;> simp [h]), if_pos h]
    · rw [if_neg (by simpa [or_comm, not_or] using h), if_neg h]
      rfl
  cases file with
  | none =>
    unfold FileContext.aged FileContext.advanced
    cases queued || code == 0 <;> rfl
  | some f =>
    have hdue (g : OpenFile) : FileContext.idleDue code { generation := generation, file := some g } =
        (decide (code ≠ 0) && decide (intervalOf code ≤ g.idle)) :=
      congrArg (· && _) (by by_cases h : code = 0 <;> simp [h])
    rw [FileContext.aged]
    dsimp only
    rw [hadv, hdue, Option.bind_some]
    split <;> rfl

theorem patrolAdvanced_fields (s : State) : ∃ patrol elapsed day place, s.patrolAdvanced = { s.au with
    patrol := patrol, patrolElapsed := elapsed, cursorDay := day, cursorPlace := place } := by
  unfold State.patrolAdvanced
  split
  · exact ⟨_, _, _, _, rfl⟩
  · split
    · exact ⟨_, _, _, _, rfl⟩
    · exact ⟨_, _, _, _, rfl⟩

/-- The Audit Unit after the patrol timer's second, by whether a step begins (R161, R162). -/
theorem patrolAdvanced_eq (s : State) : s.patrolAdvanced = { s.au with
    patrol := if s.patrolBegins then s.patrolFinds.map PatrolStep.beginning else s.au.patrol
    patrolElapsed :=
      if s.patrolBegins then (if s.patrolFinds = none then 0 else s.au.patrolElapsed + 1)
      else if s.patrolCounts then s.au.patrolElapsed + 1 else s.au.patrolElapsed
    cursorDay := if s.patrolBegins = true ∧ s.dayFrom s.au.cursorDay Config.lastDay = none then 0 else s.au.cursorDay
    cursorPlace := if s.patrolBegins = true ∧ s.dayFrom s.au.cursorDay Config.lastDay = none then 0 else s.au.cursorPlace } := by
  rw [State.patrolAdvanced, State.patrolFinds]
  cases hb : s.patrolBegins with
  | true =>
    simp only [if_true, true_and]
    rfl
  | false =>
    simp only [Bool.false_eq_true, if_false, false_and]
    cases s.patrolCounts <;> rfl

theorem patrolFinds_none (h : s.patrolBegins = false) : s.patrolFinds = none := by rw [State.patrolFinds, h]; rfl

/-- Settles O25. -/
theorem secondEventAdvances : Obligations.SecondEventAdvances := by
  refine ⟨fun s hr ht => ?_, fun s h => ?_⟩
  · intro day rolls interval after counts begins above found idle timesOut aged isOpen
    have hx : exec .secondEvent s = .next (settle (secondEvent s)) := by
      rw [exec, execSecondEvent, if_pos ⟨hr, ht⟩]
    have hp := secondEvent_reads s
    have hdue : s.secondTimed.rolloverDue = rolls := rfl
    obtain ⟨f, hf⟩ := hp.parts
    obtain ⟨pc, q, pack, hshape⟩ := hp.shape
    have hpass := hp.pass
    have hpack := hp.pack
    rw [hdue] at hf hshape hpass hpack
    generalize secondEvent s = u at hx hf hshape hpass hpack
    have hcounts : counts ↔ s.patrolCounts = true := by simp [counts, State.patrolCounts]
    have hbegins : begins ↔ s.patrolBegins = true := by
      simp only [begins, hcounts, State.patrolBegins, Bool.and_eq_true, decide_eq_true_eq]
      rfl
    have hfound : found = s.patrolFinds := by
      simp only [found, hbegins, State.patrolFinds]
      rfl
    have haged : s.ie.contexts.mapIdx aged = s.agedContexts := by
      refine congrArg (List.mapIdx · s.ie.contexts) (funext fun i => funext fun c => ?_)
      rw [FileContext.aged_eq]
      rfl
    have hafter (d : Nat) (p : Partition) : ((s.secondBase d p).closing (rolls && decide (d + s.cl.settings.graceDays < day))).moved s.wa.pressure =
        { after d p with
          waitQueue := if found = some d then p.waitQueue ++ [.patrol] else p.waitQueue
          moverWaiting := if found = some d then p.waitQueue.any Waiter.isMover else p.moverWaiting } := by
      have ha : after d p = ((p.advanceQuiet s.cl.settings.quietCode (if s.ck.clockSet then 1 else 0)).closing
          (rolls && decide (d + s.cl.settings.graceDays < day))).moved s.wa.pressure := (Partition.afterTime_eq _ _ _ _ _).symm
      have hqueue : (p.advanceQuiet s.cl.settings.quietCode (if s.ck.clockSet then 1 else 0)).waitQueue = p.waitQueue ∧
          (p.advanceQuiet s.cl.settings.quietCode (if s.ck.clockSet then 1 else 0)).moverWaiting = p.moverWaiting := by
        rw [Partition.advanceQuiet_eq]
        exact ⟨rfl, rfl⟩
      rw [ha, State.secondBase, ← hfound, patrolled_onward, hqueue.1, hqueue.2]
      simp only [decide_eq_true_eq]
    have hau : u.au = { s.patrolAdvanced with
        current := s.secondBank
        previous := if rolls then s.secondBank else s.patrolAdvanced.previous
        captureDay := if rolls then some day else s.patrolAdvanced.captureDay } := by
      rw [hshape]
      rfl
    have hie : u.ie = { s.ie with contexts := s.ie.contexts.mapIdx aged } := by
      rw [haged, hshape]
      rfl
    have hpatrol := patrolAdvanced_eq s
    obtain ⟨patrol, elapsed, cday, cplace, hadv⟩ := patrolAdvanced_fields s
    have hbank : u.au.current = bankAdd (bankAdd s.au.current .hotSlotSeconds s.hs.slots.length) .filesTimedOut
        (s.ie.contexts.countP isOpen - u.ie.contexts.countP isOpen) := by
      rw [hau, hie, haged]
      rfl
    have hpart (d : Nat) : u.part d = (s.part d).map fun p => { after d p with
        waitQueue := if found = some d then p.waitQueue ++ [.patrol] else p.waitQueue
        moverWaiting := if found = some d then p.waitQueue.any Waiter.isMover else p.moverWaiting
        expiryDue := f d p } := by
      rw [part_of_mapAll (s := s) hf]
      refine congrArg (fun g => Option.map g _) (funext fun p => ?_)
      exact congrArg (fun x : Partition => { x with expiryDue := f d p }) (hafter d p)
    refine ⟨u, hx, (by rw [hshape]; rfl), hie, hbank, ?_, ?_, ?_, fun hb => ?_, fun hb hn => ?_, ?_, ?_, fun c => ?_, fun d hd => ?_,
      fun d p hd => ⟨_, (hpart d).trans (by rw [hd]; rfl), rfl, rfl⟩, fun hk => ?_, fun hk ho => ?_, ?_⟩
    · rw [hau, hadv]
    · rw [hau, hadv]
    · rw [hau]
      exact (congrArg AuditUnit.patrol hpatrol).trans (if_congr hbegins.symm (by rw [hfound]; rfl) rfl)
    · rw [hau]
      refine (congrArg AuditUnit.patrolElapsed hpatrol).trans ((if_neg fun h => hb (hbegins.2 h)).trans ?_)
      exact if_congr hcounts.symm rfl rfl
    · rw [hau]
      refine (congrArg AuditUnit.patrolElapsed hpatrol).trans ((if_pos (hbegins.1 hb)).trans ?_)
      exact if_pos (hfound.symm.trans hn)
    · rw [hau]
      exact (congrArg AuditUnit.cursorDay hpatrol).trans (if_congr (and_congr_left' hbegins.symm) rfl rfl)
    · rw [hau]
      exact (congrArg AuditUnit.cursorPlace hpatrol).trans (if_congr (and_congr_left' hbegins.symm) rfl rfl)
    · rw [hshape]
      show PerClass.get (if rolls then activated s.ru.table else s.ru.table) c = _
      split
      · exact activated_get _ c
      · rfl
    · exact (hpart d).trans (by rw [hd]; rfl)
    · have h := hpass hk.2.1
      rw [Bool.false_and, Bool.or_false] at h
      exact (h.before (s := s) (fun _ => rfl) rfl rfl).after (fun _ => rfl) rfl
    · refine (hpack hk.2.1 ho).trans (congrArg (fun g => s.wa.packQueue ++ Tab.keysWhere s.pc.parts g) ?_)
      funext d p
      have hstate := congrArg Partition.state (hafter d p)
      exact congrArg (fun x : PartState => decide (p.state = .opened) && decide (x = .quiet)) hstate
    · refine ⟨by rw [hshape]; rfl, by rw [hshape]; rfl, by rw [hshape]; rfl, by rw [hau, hadv], by rw [hau, hadv], by rw [hau, hadv], ?_⟩
      rw [hshape]
      exact ⟨rfl, rfl, rfl, rfl, rfl, rfl, rfl⟩
  · rw [exec, execSecondEvent, if_neg]
    rintro ⟨hr, ht⟩
    rcases h with h | h
    · rw [h] at hr
      cases hr
    · exact absurd ht (Nat.not_lt.2 h)

end Sys2Proof.Machine
end

section
/-! The expiries of the quiet, the file idle and the patrol timer, and the patrol's search (O26). -/

namespace Sys2Proof.Machine

open Wire

variable {s t u : State}

/-! ## The lowest day of a range, by its property -/

/-- The first entry that a test selects in a table of rising keys is the one of the lowest key. -/
theorem first_eq_some {α : Type} {tab : Tab α} (hk : Tab.rising tab = true) {test : Nat → α → Bool} {d : Nat} {v : α} (hd : Tab.get tab d = some v)
    (ht : test d v = true) (hleast : ∀ i w, Tab.get tab i = some w → test i w = true → d ≤ i) : Tab.first tab test = some (d, v) := by
  rw [Tab.first]
  cases hf : tab.find? fun e => test e.1 e.2 with
  | none => exact absurd ht (by simpa using List.find?_eq_none.1 hf (d, v) (Tab.mem_of_get hd))
  | some e =>
    have hm := List.mem_of_find?_eq_some hf
    have hte : test e.1 e.2 = true := by simpa using List.find?_some hf
    obtain ⟨as, bs, htab, has⟩ := (List.find?_eq_some_iff_append.1 hf).2
    have hle : d ≤ e.1 := hleast e.1 e.2 (Tab.get_of_mem hk hm) hte
    have hpair := Tab.rising_keys hk
    rw [htab, List.map_append, List.map_cons, List.pairwise_append, List.pairwise_cons] at hpair
    have hmem := Tab.mem_of_get hd
    rw [htab, List.mem_append, List.mem_cons] at hmem
    rcases hmem with h | h | h
    · exact absurd ht (by simpa using has _ h)
    · rw [h]
    · exact absurd (hpair.2.1.1 d (List.mem_map.2 ⟨_, h, rfl⟩)) (by omega)

theorem dayFrom_eq_some (hk : Tab.rising s.pc.parts = true) {first last d : Nat} (h1 : first ≤ d) (h2 : d ≤ last) (hd : (s.part d).isSome = true)
    (hleast : ∀ i, (s.part i).isSome = true → first ≤ i → i ≤ last → d ≤ i) : s.dayFrom first last = some d := by
  obtain ⟨p, hp⟩ := Option.isSome_iff_exists.1 hd
  unfold State.dayFrom
  rw [first_eq_some hk hp (by simp [h1, h2]) fun i w hw ht => ?_]
  · rfl
  · simp only [Bool.and_eq_true, decide_eq_true_eq] at ht
    exact hleast i (Option.isSome_iff_exists.2 ⟨w, hw⟩) ht.1 ht.2

theorem dayFrom_eq_none {first last : Nat} (h : ∀ i, (s.part i).isSome = true → first ≤ i → i ≤ last → False) (hk : Tab.rising s.pc.parts = true) :
    s.dayFrom first last = none := by
  unfold State.dayFrom Tab.first
  rw [Option.map_eq_none_iff, List.find?_eq_none]
  intro e he ht
  simp only [Bool.and_eq_true, decide_eq_true_eq] at ht
  exact h e.1 (Option.isSome_iff_exists.2 ⟨e.2, Tab.get_of_mem hk he⟩) ht.1 ht.2

/-! ## The patrol's search past a day -/

/-- The patrol step ends, the cursor at the beginning of a day (R161). -/
def patrolEnds (day : Nat) (x : State) : State :=
  { x with au := { x.au with patrol := none, patrolElapsed := 0, cursorDay := day, cursorPlace := 0 } }

/-- The patrol step asks for a pin on the day found (R162). -/
def patrolGoes (w : PatrolStep) (d : Nat) (wraps : Bool) (x : State) : State := { x with
  au := { x.au with
    patrol := some { w with wrapped := w.wrapped || wraps, day := d, stage := .pinWait }
    cursorDay := if wraps then 0 else w.day + 1, cursorPlace := 0 }
  pc := { x.pc with parts := Tab.upd x.pc.parts d fun y =>
    { y with waitQueue := y.waitQueue ++ [.patrol], moverWaiting := y.waitQueue.any Waiter.isMover } } }

theorem withQueue_patrol (y : Partition) : y.withQueue (y.waitQueue ++ [.patrol]) =
    { y with waitQueue := y.waitQueue ++ [.patrol], moverWaiting := y.waitQueue.any Waiter.isMover } := by
  simp [Partition.withQueue, Waiter.isMover]

section
variable {w : PatrolStep} {b d : Nat}

theorem patrolFound_goes (wraps : Bool) (hb : w.began = some b) : patrolFound { w with wrapped := w.wrapped || wraps } d
      (setCursor (if wraps then 0 else w.day + 1) 0 s) =
    if (w.wrapped || wraps) = true ∧ b ≤ d then patrolEnds b s else patrolGoes w d wraps s := by
  unfold patrolFound
  rw [show ({ w with wrapped := w.wrapped || wraps } : PatrolStep).began = some b from hb]
  refine if_congr Iff.rfl rfl ?_
  unfold patrolAsks joinQueue
  simp only [withQueue_patrol, ← hb]
  rfl

/-- A day above the step's is found first (R162). -/
theorem patrolPast_above (hb : w.began = some b) (hk : Tab.rising s.pc.parts = true) (hd : (s.part d).isSome = true) (hlast : d ≤ Config.lastDay)
    (habove : w.day < d) (hleast : ∀ i, i ≤ Config.lastDay → (s.part i).isSome = true → w.day < i → d ≤ i) :
    patrolPast w s = if w.wrapped ∧ b ≤ d then patrolEnds b s else patrolGoes w d false s := by
  have hday : (setCursor (w.day + 1) 0 s).dayFrom (w.day + 1) Config.lastDay = some d :=
    dayFrom_eq_some (s := s) hk habove hlast hd fun i hi h1 h2 => hleast i h2 hi h1
  have hgoes := patrolFound_goes (s := s) (d := d) false hb
  rw [Bool.or_false] at hgoes
  unfold patrolPast patrolSearch
  rw [show (setCursor (w.day + 1) 0 s).au.cursorDay = w.day + 1 from rfl, hday]
  exact hgoes

/-- No day lies above the step's: the search wraps to the lowest one (R162, log entry 12). -/
theorem patrolPast_wraps (hb : w.began = some b) (hk : Tab.rising s.pc.parts = true) (hnone : ∀ i, i ≤ Config.lastDay → (s.part i).isSome = true → i ≤ w.day)
    (hd : (s.part d).isSome = true) (hlast : d ≤ Config.lastDay) (hleast : ∀ i, i ≤ Config.lastDay → (s.part i).isSome = true → d ≤ i) :
    patrolPast w s = if w.wrapped ∨ b ≤ d then patrolEnds b s else patrolGoes w d true s := by
  have hday : (setCursor (w.day + 1) 0 s).dayFrom (w.day + 1) Config.lastDay = none :=
    dayFrom_eq_none (s := s) (fun i hi h1 h2 => absurd (hnone i h2 hi) (by omega)) hk
  have hday0 : (setCursor (w.day + 1) 0 s).dayFrom 0 Config.lastDay = some d :=
    dayFrom_eq_some (s := s) hk (Nat.zero_le d) hlast hd fun i hi _ h2 => hleast i h2 hi
  have hgoes := patrolFound_goes (s := s) (d := d) true hb
  unfold patrolPast patrolSearch
  rw [show (setCursor (w.day + 1) 0 s).au.cursorDay = w.day + 1 from rfl, hday, hday0]
  dsimp only
  rw [hb]
  cases hw : w.wrapped with
  | true => rfl
  | false =>
    rw [hw, hb] at hgoes
    exact (if_neg (by simp)).trans (hgoes.trans (by simp))

/-- No day has an entry (R162). -/
theorem patrolPast_none (hk : Tab.rising s.pc.parts = true) (hnone : ∀ i, i ≤ Config.lastDay → (s.part i).isSome = true → False) :
    patrolPast w s = patrolEnds 0 s := by
  have hday (a : Nat) : (setCursor (w.day + 1) 0 s).dayFrom a Config.lastDay = none :=
    dayFrom_eq_none (s := s) (fun i hi _ h2 => hnone i h2 hi) hk
  unfold patrolPast patrolSearch
  rw [hday, hday]
  rfl

theorem segments_of_part {p : Partition} (hp : s.part d = some p) : (match s.part d with | some t => t.segments | none => []) = p.segments := by
  rw [hp]

/-- A patrol step granted its pin asks for a quantum on the first ACTIVE segment from its start (R162). -/
theorem patrolPinned_finds {p : Partition} (hw : s.au.patrol = some w) (hp : s.part w.day = some p) {i n : Nat}
    (hi : (p.segments.drop (if w.day = s.au.cursorDay then s.au.cursorPlace else 0)).findIdx? s.segActive = some i)
    (hn : p.segments[(if w.day = s.au.cursorDay then s.au.cursorPlace else 0) + i]? = some n) : patrolPinned s =
      placeRequest .patrol .patrol (s.mapAu fun a => { a with patrol := some { w with
        seg := n, place := (if w.day = s.au.cursorDay then s.au.cursorPlace else 0) + i, stage := .grantWait } }) := by
  unfold patrolPinned
  rw [hw]
  dsimp only
  rw [hp]
  dsimp only
  rw [hi]
  dsimp only
  rw [List.getD_eq_getElem?_getD, hn]
  rfl

theorem patrolPinned_past {p : Partition} (hw : s.au.patrol = some w) (hp : s.part w.day = some p)
    (hi : (p.segments.drop (if w.day = s.au.cursorDay then s.au.cursorPlace else 0)).findIdx? s.segActive = none) :
    patrolPinned s = patrolPast w (releasePin w.day s) := by
  unfold patrolPinned
  rw [hw]
  dsimp only
  rw [hp]
  dsimp only
  rw [hi]

end

/-! ## The expiry rows -/

theorem exec_quietTimerExpiry {day : Nat} (hr : s.running = true) : exec (.quietTimerExpiry day) s =
    .next (settle (moveOnward (updPart day (Partition.expireQuiet s.cl.settings.quietCode) s))) := by
  rw [exec, execQuietTimerExpiry, if_pos hr]

theorem exec_fileIdleExpiry {ctx : Nat} {c : FileContext} (hc : s.ie.contexts[ctx]? = some c) (hd : c.idleDue s.cl.settings.fileIdleCode = true) :
    exec (.fileIdleExpiry ctx) s = .next (settle (countUp .filesTimedOut 1 (freeContext ctx s))) := by
  rw [exec, execFileIdleExpiry, hc]
  exact if_pos hd

theorem exec_patrolTimerExpiry (hr : s.running = true) (hd : s.patrolDue = true) :
    exec .patrolTimerExpiry s = .next (settle (beginPatrol s)) := by
  rw [exec, execPatrolTimerExpiry, if_pos hr, comparePatrolTimer, if_pos hd]

theorem quietTimer_expires {day : Nat} {p : Partition} (hr : s.running = true) (hp : s.part day = some p) (ho : p.state = .opened)
    (hx : p.quietExpired = false) (hcode : s.cl.settings.quietCode ≠ 0)
    (hdue : intervalOf s.cl.settings.quietCode ≤ p.quietElapsed) :
    ∃ u, exec (.quietTimerExpiry day) s = .next (settle u) ∧
      u.part day = some { p with quietExpired := true, state := if p.dayClosed then .quiet else .opened } ∧
      (p.dayClosed = true → day ∈ u.wa.packQueue) ∧ u.ix = s.ix ∧ u.lp = s.lp ∧ u.ck = s.ck ∧ u.au = s.au ∧ u.hs = s.hs ∧
      u.ie = s.ie ∧ u.qa = s.qa ∧ u.ce = s.ce ∧ u.cs = s.cs ∧ u.ru = s.ru ∧ u.cl = s.cl ∧ u.power = s.power := by
  have hexpired : p.expireQuiet s.cl.settings.quietCode = { p with quietExpired := true } := if_pos ⟨ho, by simp [hx], hcode, hdue⟩
  have hpart : (updPart day (Partition.expireQuiet s.cl.settings.quietCode) s).part day = some { p with quietExpired := true } := by
    rw [updPart_part, if_pos rfl, hp, Option.map_some, hexpired]
  have honward : ({ p with quietExpired := true } : Partition).onward s.wa.pressure = p.dayClosed := by
    simp [Partition.onward, ho]
  refine ⟨_, exec_quietTimerExpiry hr, ?_, fun hclosed => ?_, ?_⟩
  · rw [moveOnward_part, hpart, Option.map_some, Partition.moved_eq]
    rw [show (updPart day (Partition.expireQuiet s.cl.settings.quietCode) s).wa.pressure = s.wa.pressure from rfl, honward, ho]
  · rw [moveOnward_wa]
    exact mem_joinDays.2 (.inr (mem_keysWhere_of_part hpart (honward.trans hclosed)))
  · rw [moveOnward_eq]
    exact ⟨rfl, rfl, rfl, rfl, rfl, rfl, rfl, rfl, rfl, rfl, rfl, rfl⟩

theorem fileIdle_expires {ctx g : Nat} {f : OpenFile} (hc : s.ie.contexts[ctx]? = some { generation := g, file := some f })
    (hcode : s.cl.settings.fileIdleCode ≠ 0) (hdue : intervalOf s.cl.settings.fileIdleCode ≤ f.idle) (hs : Settled s) :
    exec (.fileIdleExpiry ctx) s = .next
      ((s.mapIe fun e => { e with contexts := e.contexts.set ctx { generation := g, file := none } }).mapAu fun a =>
        { a with current := bankAdd a.current .filesTimedOut 1 }) := by
  have hfree : freeContext ctx s = s.mapIe fun e => { e with contexts := e.contexts.set ctx { generation := g, file := none } } := by
    refine congrArg (fun l => s.mapIe fun e => { e with contexts := l }) ?_
    rw [List.modify_eq_set_getElem?, hc]
    rfl
  rw [exec_fileIdleExpiry hc (by simp [FileContext.idleDue, hcode, hdue]), hfree]
  exact congrArg _ (settle_of_settled (hs.congr rfl rfl rfl rfl rfl rfl rfl rfl rfl rfl rfl rfl))

/-- Settles O26. -/
theorem timerExpiries : Obligations.TimerExpiries := by
  refine ⟨fun day p s hr hp ho hx hcode hdue => quietTimer_expires hr hp ho hx hcode hdue,
    fun ctx g f s hc hcode hdue hs => fileIdle_expires hc hcode hdue hs, fun s hr hnone hcode hdue => ?_, fun w b s hw hb hk => ?_⟩
  · have hd : s.patrolDue = true := by
      simp only [State.patrolDue, hnone, Option.isNone_none, Bool.true_and, Bool.and_eq_true, bne_iff_ne, decide_eq_true_eq]
      exact ⟨hcode, hdue⟩
    refine ⟨fun hparts hs => ?_, fun d p hd' hp => ?_⟩
    · have hday (a : Nat) : s.dayFrom a Config.lastDay = none := by rw [State.dayFrom, hparts]; rfl
      have hbegin : beginPatrol s = s.mapAu fun a => { a with cursorDay := 0, cursorPlace := 0, patrolElapsed := 0 } := by
        have hstart : s.patrolStart = none := by rw [State.patrolStart, hday, hday]; rfl
        rw [beginPatrol_eq, State.patrolBegun, hstart, hday]
        simp [Partition.patrolled, Tab.mapAll_id, hnone, State.mapAu]
      rw [exec_patrolTimerExpiry hr hd, hbegin]
      exact congrArg _ (settle_of_settled (hs.congr rfl rfl rfl rfl rfl rfl rfl rfl rfl rfl rfl rfl))
    · have hstart : s.patrolStart = some d := by
        rcases hd' with h | ⟨h, h0⟩
        · rw [State.patrolStart, show s.dayFrom s.au.cursorDay Config.lastDay = some d from h]
          rfl
        · rw [State.patrolStart, show s.dayFrom s.au.cursorDay Config.lastDay = none from h]
          exact h0
      refine ⟨_, exec_patrolTimerExpiry hr hd, ?_⟩
      rw [beginPatrol_eq]
      refine ⟨?_, ⟨p.patrolled true, ?_, rfl⟩, rfl, rfl, rfl, rfl, rfl, rfl, rfl, rfl, rfl, rfl, rfl, rfl, rfl, rfl⟩
      · simp only [State.patrolBegun, hstart]
        rfl
      · refine (part_of_mapAll (s := s) (f := fun i q => q.patrolled (decide (s.patrolStart = some i))) rfl d).trans ?_
        rw [hp, Option.map_some, hstart, decide_eq_true rfl]
  · intro ends asks listed goesOn
    obtain ⟨-, hparts, -⟩ := hk
    have hgoesOn (x : State) (hx : Tab.rising x.pc.parts = true) (hl : ∀ d, (x.part d).isSome = (s.part d).isSome) :
        goesOn x (patrolPast w x) := by
      refine ⟨fun d hd habove hleast => ?_, fun hnone => ⟨fun d hd hleast => ?_, fun h0 => ?_⟩⟩
      · exact patrolPast_above hb hx ((hl d).trans hd.2) hd.1 habove fun i h1 h2 => hleast i ⟨h1, (hl i).symm.trans h2⟩
      · exact patrolPast_wraps hb hx (fun i h1 h2 => hnone i ⟨h1, (hl i).symm.trans h2⟩) ((hl d).trans hd.2) hd.1
          fun i h1 h2 => hleast i ⟨h1, (hl i).symm.trans h2⟩
      · exact patrolPast_none hx fun i h1 h2 => h0 i ⟨h1, (hl i).symm.trans h2⟩
    refine ⟨?_, fun p hp => ?_⟩
    · have h : patrolReleased s = patrolPast w s := by
        unfold patrolReleased
        rw [hw]
      rw [h]
      exact hgoesOn s hparts fun _ => rfl
    · intro start
      refine ⟨fun i n hi hn ha hbefore => ?_, fun hnone => ?_⟩
      · have hfirst : (p.segments.drop start).findIdx? s.segActive = some (i - start) := by
          have hlen : i < p.segments.length := (List.getElem?_eq_some_iff.1 hn).1
          refine List.findIdx?_eq_some_iff_getElem.2 ⟨by rw [List.length_drop]; omega, ?_, fun j hj => ?_⟩
          · have h : (p.segments.drop start)[i - start]? = some n := by rw [List.getElem?_drop, Nat.add_sub_cancel' hi, hn]
            rw [(List.getElem?_eq_some_iff.1 h).2]
            exact ha
          · have h := hbefore (start + j) _ (Nat.le_add_right ..) (by omega) (List.getElem?_eq_getElem (by omega))
            rw [List.getElem_drop, h]
            exact Bool.false_ne_true
        have hplace : start + (i - start) = i := Nat.add_sub_cancel' hi
        have h := patrolPinned_finds hw hp hfirst (by rw [← hn]; exact congrArg (p.segments[·]?) hplace)
        refine h.trans ?_
        rw [show (if w.day = s.au.cursorDay then s.au.cursorPlace else 0) = start from rfl, hplace]
        rfl
      · rw [patrolPinned_past hw hp]
        · exact hgoesOn (releasePin w.day s) (Tab.rising_upd w.day (fun q : Partition => { q with pins := q.pins - 1 }) hparts) fun d => by
            rw [releasePin_part]
            split <;> simp
        · refine List.findIdx?_eq_none_iff.2 fun m hm => ?_
          obtain ⟨j, hj⟩ := List.mem_iff_getElem?.1 hm
          rw [List.getElem?_drop] at hj
          exact hnone (start + j) m (Nat.le_add_right ..) hj

end Sys2Proof.Machine
end

section
/-! The completions of a decode and of a check (O53). -/

namespace Sys2Proof.Machine

open Wire

variable {s t u : State}

/-! ## Completions -/

theorem runningQuantum_eq {g : Grant} (he : s.wa.engine = some g) : s.runningQuantum g.quantum = some g := by
  rw [State.runningQuantum, he]
  exact if_pos rfl

/-- A good decode goes to its owner, the engine IDLE (R106, R163). -/
theorem exec_decoded {g : Grant} {read : ReadResult} {rs : List CallRecord} (he : s.wa.engine = some g) (hq : g.quantum = .decode)
    (hd : s.decoded g.seg read = some rs) :
    exec (.decodeCompletion read) s = .next (settleCompletion (decodeOwner g (some rs) (engineIdle s))) := by
  refine congrArg (fun x => Host.Outcome.next (settleCompletion x)) ?_
  rw [decodeCompleted, ← hq, runningQuantum_eq he]
  dsimp only
  rw [hd]

/-- A check goes to its owner with its outcome; a failed one marks an ACTIVE segment DAMAGED (R159, R160). -/
theorem exec_checked {g : Grant} {read : ReadResult} (he : s.wa.engine = some g) (hq : g.quantum = .check) :
    exec (.readCompletion read) s = .next (settleCompletion (checkOwner g (s.checkPasses g.seg read)
      (if s.checkPasses g.seg read then engineIdle s else markDamaged g.seg (engineIdle s)))) := by
  refine congrArg (fun x => Host.Outcome.next (settleCompletion x)) ?_
  rw [checkCompleted, ← hq, runningQuantum_eq he]
  dsimp only
  cases s.checkPasses g.seg read <;> rfl

theorem completions_idle (read : ReadResult) (he : s.wa.engine = none) : decodeCompleted read s = s ∧ checkCompleted read s = s := by
  have h (q : Quantum) : s.runningQuantum q = none := by rw [State.runningQuantum, he]
  rw [decodeCompleted, checkCompleted, h, h]
  exact ⟨rfl, rfl⟩

/-- Marking a segment DAMAGED, in the terms of the statements (R160). -/
theorem markDamaged_eq (n : Nat) (s : State) : markDamaged n s = damagedAt n true s := by
  cases h : s.segActive n with
  | true => rw [markDamaged_active h, damagedAt, if_pos ⟨rfl, h⟩]; rfl
  | false => rw [markDamaged_other h, damagedAt, if_neg (by simp [h])]

theorem damagedAt_active {n : Nat} (h : s.segActive n = true) : damagedAt n true s =
    (updSeg n (fun e => { e with state := .damaged }) s).mapAu fun a =>
      { a with current := bankAdd a.current .segmentsDamaged 1, damageFound := true } := if_pos ⟨rfl, h⟩

/-- The engine's state and a damage mark do not meet. -/
theorem damagedAt_engineIdle (n : Nat) (failed : Bool) (s : State) : damagedAt n failed (engineIdle s) = engineIdle (damagedAt n failed s) := by
  have h : (engineIdle s).segActive n = s.segActive n := rfl
  unfold damagedAt
  rw [h]
  split <;> rfl

theorem damagedAt_shape (n : Nat) (failed : Bool) (s : State) :
    damagedAt n failed s = { s with au := (damagedAt n failed s).au, cs := (damagedAt n failed s).cs } := by
  unfold damagedAt
  split <;> rfl

/-- The state after a read of a segment that has failed, the engine IDLE (R160, R163). -/
def State.readFailed (n : Nat) (s : State) : State := { s with
  au := (damagedAt n true s).au
  cs := (damagedAt n true s).cs
  wa := { s.wa with engine := none } }

/-- A failed decode marks an ACTIVE segment DAMAGED and goes to its owner (R106, R160). -/
theorem exec_decodeFailed {g : Grant} {read : ReadResult} (he : s.wa.engine = some g) (hq : g.quantum = .decode)
    (hd : s.decoded g.seg read = none) :
    exec (.decodeCompletion read) s = .next (settleCompletion (decodeOwner g none (s.readFailed g.seg))) := by
  refine congrArg (fun x => Host.Outcome.next (settleCompletion x)) ?_
  rw [decodeCompleted, ← hq, runningQuantum_eq he]
  dsimp only
  rw [hd, markDamaged_eq, damagedAt_engineIdle, damagedAt_shape]
  rfl

/-- The state that a check leaves to its owner. -/
theorem checked_eq (n : Nat) (passed : Bool) (s : State) : (if passed then engineIdle s else markDamaged n (engineIdle s)) =
    engineIdle (damagedAt n (!passed) s) := by
  cases passed with
  | true =>
    show engineIdle s = engineIdle (damagedAt n false s)
    rw [damagedAt, if_neg fun h => Bool.false_ne_true h.1]
  | false => rw [markDamaged_eq, damagedAt_engineIdle]; rfl

/-! ## The end of a request in a context -/

theorem finishContext_answered {c : Nat} {q : QueryContext} (he : q.epoch = s.lp.epoch) (status : Nat) (payload : Bytes) :
    finishContext c q status payload s = (answered q.tag status payload s).mapQa fun u =>
      { u with contexts := Tab.del u.contexts c, inFlight := Tab.del u.inFlight c } := by
  rw [finishContext, respond_current _ _ _ _ _ he]
  rfl

theorem finishContext_queryCtx (c : Nat) (q : QueryContext) (status : Nat) (payload : Bytes) (s : State) :
    (finishContext c q status payload s).queryCtx c = none := Tab.get_del_self _ _

/-! ## An activity on a day whose pin is released -/

theorem upd_comm {α : Type} (tab : Tab α) (k : Nat) {f g : α → α} (h : ∀ v, f (g v) = g (f v)) :
    Tab.upd (Tab.upd tab k g) k f = Tab.upd (Tab.upd tab k f) k g := by
  simp only [Tab.upd_eq_mapAll, Tab.mapAll_mapAll]
  refine congrArg (Tab.mapAll tab) (funext fun i => funext fun v => ?_)
  split
  · exact h v
  · rfl

/-- A pin and an activity do not meet (R46, R48, R50). -/
theorem afterActivity_releasePin (counted store : Bool) (day : Nat) (s : State) :
    afterActivity counted store day (releasePin day s) = releasePin day (afterActivity counted store day s) := by
  have hreturns : ((releasePin day s).part day).any (fun p => decide (p.state = .quiet) && (counted || store) && !s.wa.pressure) =
      (s.part day).any fun p => decide (p.state = .quiet) && (counted || store) && !s.wa.pressure := by
    rw [releasePin_part, if_pos rfl, Option.any_map]
  have hparts : Tab.upd (releasePin day s).pc.parts day (partAfterActivity counted store s.wa.pressure) =
      Tab.upd (Tab.upd s.pc.parts day (partAfterActivity counted store s.wa.pressure)) day fun p => { p with pins := p.pins - 1 } := by
    refine upd_comm s.pc.parts day (f := partAfterActivity counted store s.wa.pressure)
      (g := fun p => { p with pins := p.pins - 1 }) fun p => ?_
    unfold partAfterActivity
    split_ifs <;> rfl
  unfold afterActivity
  simp only [show (releasePin day s).wa = s.wa from rfl, hreturns, hparts]
  rfl

/-- A request in a context is answered as its pin is released. -/
theorem finishContext_released {c : Nat} {q : QueryContext} (he : q.epoch = s.lp.epoch) (status : Nat) (payload : Bytes) :
    finishContext c q status payload (releasePin q.day s) = { s with
      lp := (answered q.tag status payload s).lp
      qa := { s.qa with contexts := Tab.del s.qa.contexts c, inFlight := Tab.del s.qa.inFlight c }
      pc := (releasePin q.day s).pc } := finishContext_answered (s := releasePin q.day s) he _ _

theorem fetchRead_eq {c : Nat} {q : QueryContext} {x : CallRecord} (he : q.epoch = s.lp.epoch) (hk : Tab.rising s.pc.parts = true) :
    let active := afterActivity (s.cl.settings.activityMask.testBit 2) false q.day s
    fetchRead c q x s = { s with
      lp := (answered q.tag Status.ok (renderRecord x (s.held x.key (x.start / 86400) x.cls)) s).lp
      qa := { s.qa with contexts := Tab.del s.qa.contexts c, inFlight := Tab.del s.qa.inFlight c }
      pc := (releasePin q.day active).pc
      au := { s.au with current := bankAdd s.au.current .queriesServed 1 }
      wa := active.wa
      ce := active.ce } := by
  have hk' : Tab.rising (releasePin q.day s).pc.parts = true := Tab.rising_upd _ (fun p : Partition => { p with pins := p.pins - 1 }) hk
  rw [fetchRead, activity_after _ _ _ hk', show (releasePin q.day s).cl = s.cl from rfl, afterActivity_releasePin]
  exact finishContext_answered (s := countUp .queriesServed 1 (releasePin q.day (afterActivity _ _ q.day s))) he _ _

/-! ## The slots of scans and verifications -/

/-- A scan or verification with another segment to read asks for a quantum (R155, R159). -/
theorem scanGoOn_cons (n m : Nat) (q : ScanSlot) (work : ScanWork) (rest : List Nat) (s : State) : scanGoOn n q work (m :: rest) s =
    placeRequest work.kind (.slot n) (updSlot n (fun q => { q with stage := .grantWait, toRead := m :: rest, work := work }) s) := rfl

theorem verifyChecked_counts {i a b : Nat} {q : ScanSlot} {v : VerifyResult} {outcome : CheckOutcome} (hi : s.scanSlot i = some q)
    (hw : q.work = .verify a b v) (hc : q.cancelling = false) :
    verifyChecked i outcome s = scanGoOn i q (.verify a b (v.add outcome)) q.toRead.tail s := by
  unfold verifyChecked
  rw [hi]
  dsimp only
  rw [hw]
  dsimp only
  rw [hc]
  rfl

/-! ## The obligation's clauses -/

theorem queryDecoded_fetch {c ref : Nat} {q : QueryContext} {rs : Option (List CallRecord)} (hq : s.queryCtx c = some q) (hw : q.work = .fetch ref) :
    queryDecoded c rs s = match rs.bind fun l => l[q.ord]? with
      | none => finishContext c q Status.unreadable [] (releasePin q.day s)
      | some x => fetchRead c q x s := by
  unfold queryDecoded
  rw [hq]
  dsimp only
  generalize q.work = w at hw
  subst hw
  rfl

/-- A FETCH's good decode is answered with the record at its ordinal (R86). -/
theorem fetch_decoded {read : ReadResult} {n c ref : Nat} {k : JobKind} {q : QueryContext} {rs : List CallRecord} {x : CallRecord}
    (he : s.wa.engine = some { kind := k, who := .query c, quantum := .decode, seg := n }) (hq : s.queryCtx c = some q)
    (hw : q.work = .fetch ref) (hd : s.decoded n read = some rs) (hx : rs[q.ord]? = some x) :
    exec (.decodeCompletion read) s = .next (settleCompletion (fetchRead c q x (engineIdle s))) := by
  rw [exec_decoded he rfl hd]
  show Host.Outcome.next (settleCompletion (queryDecoded c (some rs) (engineIdle s))) = _
  rw [queryDecoded_fetch (s := engineIdle s) (ref := ref) hq hw, Option.bind_some, hx]

theorem fetch_unreadable {read : ReadResult} {n c ref : Nat} {k : JobKind} {q : QueryContext}
    (he : s.wa.engine = some { kind := k, who := .query c, quantum := .decode, seg := n }) (hq : s.queryCtx c = some q)
    (hw : q.work = .fetch ref) (hep : q.epoch = s.lp.epoch) (hd : s.decoded n read = none) : exec (.decodeCompletion read) s =
      .next (settleCompletion { s with
        lp := (answered q.tag Status.unreadable [] s).lp
        qa := { s.qa with contexts := Tab.del s.qa.contexts c, inFlight := Tab.del s.qa.inFlight c }
        pc := (releasePin q.day s).pc
        au := (damagedAt n true s).au
        cs := (damagedAt n true s).cs
        wa := { s.wa with engine := none } }) := by
  rw [exec_decodeFailed he rfl hd]
  refine congrArg (fun x => Host.Outcome.next (settleCompletion x)) ?_
  exact (queryDecoded_fetch (s := s.readFailed n) (ref := ref) hq hw).trans (finishContext_released (s := s.readFailed n) hep _ _)

theorem partAfterActivity_pins (counted store pressure : Bool) (p : Partition) : (partAfterActivity counted store pressure p).pins = p.pins := by
  unfold partAfterActivity
  split_ifs <;> rfl

theorem afterActivity_part (counted store : Bool) (day d : Nat) (s : State) : (afterActivity counted store day s).part d =
    if d = day then (s.part d).map (partAfterActivity counted store s.wa.pressure) else s.part d := Tab.get_upd _ _ _ _

theorem released_part {p : Partition} {d : Nat} (hp : s.part d = some p) : (releasePin d s).part d = some { p with pins := p.pins - 1 } := by
  rw [releasePin_part, if_pos rfl, hp, Option.map_some]

/-- A verification's check is counted and the next one asked for (R159). -/
theorem verify_checked {read : ReadResult} {n i a b next : Nat} {k : JobKind} {q : ScanSlot} {v : VerifyResult} {rest : List Nat}
    (he : s.wa.engine = some { kind := k, who := .slot i, quantum := .check, seg := n }) (hi : s.scanSlot i = some q)
    (hw : q.work = .verify a b v) (hc : q.cancelling = false) (hr : q.toRead = n :: next :: rest) :
    let passed := s.checkPasses n read
    let x := damagedAt n (!passed) s
    let counted := v.add (if passed then .passed else .failed)
    exec (.readCompletion read) s = .next (settleCompletion { s with
      au := { x.au with slots := Tab.upd s.au.slots i fun q => { q with stage := .grantWait, toRead := next :: rest, work := .verify a b counted } }
      cs := x.cs
      wa := { s.wa with engine := none, requests := s.wa.requests.set .verify (s.wa.requests.get .verify ++ [.slot i]) } }) := by
  intro passed x counted
  have hslots : x.au.slots = s.au.slots := by
    show (damagedAt n (!passed) s).au.slots = s.au.slots
    unfold damagedAt
    split <;> rfl
  have hx : (engineIdle x).scanSlot i = some q := by
    rw [← hi]
    exact congrArg (Tab.get · i) hslots
  rw [exec_checked he rfl, checked_eq]
  show Host.Outcome.next (settleCompletion (verifyChecked i _ (engineIdle x))) = _
  rw [verifyChecked_counts hx hw hc, hr, List.tail_cons, scanGoOn_cons]
  refine congrArg (fun x => Host.Outcome.next (settleCompletion x)) ?_
  rw [← hslots, show x = { s with au := x.au, cs := x.cs } from damagedAt_shape n _ s]
  rfl

/-- A patrol's check ends the step (R162). -/
theorem patrol_checked {read : ReadResult} {n : Nat} {k : JobKind} {w : PatrolStep}
    (he : s.wa.engine = some { kind := k, who := .patrol, quantum := .check, seg := n }) (hw : s.au.patrol = some w) :
    let x := damagedAt n (!s.checkPasses n read) s
    exec (.readCompletion read) s = .next (settleCompletion { s with
      au := { x.au with patrol := none, patrolElapsed := 0, cursorDay := w.day, cursorPlace := w.place + 1 }
      cs := x.cs
      pc := (releasePin w.day s).pc
      wa := { s.wa with engine := none } }) := by
  intro x
  have hx : (engineIdle x).au.patrol = some w := by
    rw [← hw]
    show (damagedAt n _ s).au.patrol = s.au.patrol
    unfold damagedAt
    split <;> rfl
  rw [exec_checked he rfl, checked_eq]
  show Host.Outcome.next (settleCompletion (patrolChecked (engineIdle x))) = _
  unfold patrolChecked
  rw [hx]
  refine congrArg (fun x => Host.Outcome.next (settleCompletion x)) ?_
  rw [show x = { s with au := x.au, cs := x.cs } from damagedAt_shape n _ s]
  rfl

/-- Settles O53. -/
theorem decodeAndCheckCompletions : Obligations.DecodeAndCheckCompletions := by
  refine ⟨fun read n k s => ⟨fun c q ref p he hq hw hep hp => ⟨fun rs x hd hx hk => ?_, fun hd ha => ?_⟩,
    fun i q a b v next rest he hi hw hc hr ha => ?_, fun w p he hw hp => ?_⟩, fun read s he hs => ?_⟩
  · obtain ⟨-, hparts, -⟩ := hk
    have hx := fetch_decoded he hq hw hd hx
    rw [fetchRead_eq (s := engineIdle s) hep hparts] at hx
    refine ⟨_, hx, rfl, Tab.get_del_self _ _, rfl, ?_, fun d hd => ?_, rfl, rfl, rfl, rfl, rfl, rfl, rfl, rfl, rfl⟩
    · refine (releasePin_part q.day _ q.day).trans ?_
      rw [if_pos rfl, afterActivity_part, afterActivity_part, if_pos rfl, if_pos rfl, show (engineIdle s).part q.day = s.part q.day from rfl, hp]
      simp only [Option.map_some, partAfterActivity_pins]
      rfl
    · refine (releasePin_part q.day _ d).trans ?_
      rw [if_neg hd, afterActivity_part, if_neg hd]
      rfl
  · have hx := fetch_unreadable he hq hw hep hd
    rw [damagedAt_active ha] at hx
    exact ⟨_, hx, rfl, Tab.get_del_self _ _, rfl, released_part hp, rfl,
      (updSeg_seg n (fun e => { e with state := .damaged }) s n).trans (if_pos rfl),
      fun m hm => (updSeg_seg n (fun e => { e with state := .damaged }) s m).trans (if_neg hm), rfl, rfl, rfl, rfl, rfl, rfl, rfl⟩
  · refine ⟨_, verify_checked he hi hw hc hr, ?_⟩
    have hslot (r : VerifyResult) :
        Tab.get (Tab.upd s.au.slots i fun q => { q with stage := .grantWait, toRead := next :: rest, work := .verify a b r }) i =
          some { q with stage := .grantWait, toRead := next :: rest, work := .verify a b r } := by
      rw [Tab.get_upd, if_pos rfl, show Tab.get s.au.slots i = some q from hi, Option.map_some]
    cases hpass : s.checkPasses n read with
    | true =>
      rw [damagedAt, if_neg (by simp)]
      exact ⟨hslot _, rfl, rfl, (Bool.or_false _).symm, rfl, rfl, rfl, rfl, rfl, rfl, rfl, rfl, rfl, rfl, rfl⟩
    | false =>
      rw [Bool.not_false, damagedAt_active ha]
      exact ⟨hslot _, rfl, rfl, (Bool.or_true _).symm, (updSeg_seg n (fun e => { e with state := .damaged }) s n).trans (if_pos rfl),
        rfl, rfl, rfl, rfl, rfl, rfl, rfl, rfl, rfl, rfl⟩
  · exact ⟨_, patrol_checked he hw, rfl, rfl, released_part hp, rfl, rfl, rfl, rfl, rfl, rfl, rfl, rfl, rfl, rfl⟩
  · obtain ⟨h1, h2⟩ := completions_idle read he
    rw [exec, execDecodeCompletion, exec, execReadCompletion, h1, h2, settleCompletion_of_settled hs]
    exact ⟨rfl, rfl⟩

end Sys2Proof.Machine
end

section
/-! A record whose reference is live: the comparison at once, after a pin, and after a decode (O41). -/

namespace Sys2Proof.Machine

open Wire

variable {e : BatchEntry} {dr : Drain} {f : OpenFile} {size : Nat} {s : State}

/-! ## A duplicate counted -/

/-- What a duplicate leaves: the open file, the drain, the counters and the account (R67, R71, R145). -/
def duplicateCounted (e : BatchEntry) (f : OpenFile) (dr : Drain) (charge size source day : Nat) (conflict : Bool) (s : State) : State :=
  (inDrain e { f with received := count64 (f.received + 1), duplicates := count64 (f.duplicates + 1), chargeSum := sum64 (f.chargeSum + charge) }
    { dr with
      offset := dr.offset + size, position := dr.position + 1, received := dr.received + 1, duplicates := dr.duplicates + 1,
      conflicts := if conflict then dr.conflicts + 1 else dr.conflicts, dup := none } s).mapAu fun a =>
    { a with
      current := (let b := bankAdd (bankAdd a.current .recordsReceived 1) .duplicates 1
        if conflict then bankAdd b .duplicateConflicts 1 else b),
      accounts := Tab.upd a.accounts (accountKey source day) fun c => { c with duplicates := count64 (c.duplicates + 1) } }

theorem discardDuplicate_inDrain (charge source day : Nat) (conflict : Bool) :
    discardDuplicate e charge size source day conflict (inDrain e f dr s) = duplicateCounted e f dr charge size source day conflict s := by
  unfold discardDuplicate
  dsimp only
  rw [tallyReceived_inDrain, updFile_inDrain, updDrain_inDrain, countUp_inDrain]
  cases conflict <;> rfl

theorem discardDuplicate_eq (hd : s.ie.drain = some dr) (ho : s.openFile e.ctx e.gen = some f) (charge source day : Nat) (conflict : Bool) :
    discardDuplicate e charge size source day conflict s = duplicateCounted e f dr charge size source day conflict s := by
  rw [← discardDuplicate_inDrain, inDrain_self hd ho]

theorem Settled.duplicateCounted (h : Settled s) {charge source day : Nat} {conflict : Bool} (hq : s.ie.queue.head? = some e)
    (ho : dr.offset + size < e.payload.length) : Settled (duplicateCounted e f dr charge size source day conflict s) :=
  (h.drainMoved (dr := { dr with
    offset := dr.offset + size, position := dr.position + 1, received := dr.received + 1, duplicates := dr.duplicates + 1,
    conflicts := if conflict then dr.conflicts + 1 else dr.conflicts, dup := none }) hq ho).congr
    rfl rfl rfl rfl rfl rfl rfl rfl rfl rfl rfl rfl

/-! ## The pending comparison -/

section
variable {d : PendingDuplicate} {m : MapEntry}

/-- The drain waits for the comparison of a pending duplicate (R68). -/
structure Comparing (e : BatchEntry) (dr : Drain) (f : OpenFile) (d : PendingDuplicate) (s : State) : Prop where
  drain : s.ie.drain = some dr
  pending : dr.dup = some d
  head : s.ie.queue.head? = some e
  opened : s.openFile e.ctx e.gen = some f

theorem Comparing.congr {t : State} (h : Comparing e dr f d s) (ht : t.ie = s.ie) : Comparing e dr f d t := by
  obtain ⟨hd, hp, hq, ho⟩ := h
  refine ⟨ht ▸ hd, hp, ht ▸ hq, ?_⟩
  rw [State.openFile, ht]
  exact ho

theorem Comparing.queue (h : Comparing e dr f d s) : ∃ rest, s.ie.queue = e :: rest := List.head?_eq_some_iff.1 h.head

/-- The drain without its pending comparison. -/
theorem Comparing.resumed (h : Comparing e dr f d s) :
    updDrain (fun x => { x with dup := none }) s = { s with ie := { s.ie with drain := some { dr with dup := none } } } := by
  rw [updDrain, State.mapIe, h.drain]
  rfl

theorem Comparing.done (h : Comparing e dr f d s) (conflict : Bool) :
    compareDone e d conflict s = duplicateCounted e f dr d.delivered d.size d.record.source d.day conflict (releasePin d.day s) :=
  discardDuplicate_eq (s := releasePin d.day s) h.drain h.opened _ _ _ _

theorem compareByEntry_live (h : Comparing e dr f d s) (hm : s.lookup d.record.ref = some m) : compareByEntry e d s =
    duplicateCounted e f dr d.delivered d.size d.record.source d.day (conflictsWithEntry d.record m) (releasePin d.day s) := by
  rw [compareByEntry, hm]
  exact h.done _

theorem ingestReleased_eq (h : Comparing e dr f d s) :
    ingestReleased s = decideFromDay e d.size d.record { s with ie := { s.ie with drain := some { dr with dup := none } } } := by
  obtain ⟨rest, hq⟩ := h.queue
  refine Eq.trans ?_ (congrArg (decideFromDay e d.size d.record) h.resumed)
  simp only [ingestReleased, h.drain, hq, h.pending]

theorem ingestPinned_gone (h : Comparing e dr f d s) (hm : s.lookup d.record.ref = none) : ingestPinned s =
    decideFromDay e d.size d.record (releasePin d.day { s with ie := { s.ie with drain := some { dr with dup := none } } }) := by
  obtain ⟨rest, hq⟩ := h.queue
  refine Eq.trans ?_ (congrArg (fun t => decideFromDay e d.size d.record (releasePin d.day t)) h.resumed)
  simp only [ingestPinned, h.drain, hq, h.pending, hm]

theorem ingestPinned_hot {n : Nat} {y : CallRecord} (h : Comparing e dr f d s) (hm : s.lookup d.record.ref = some m) (hl : m.loc = .hot n)
    (hy : Tab.get s.hs.slots n = some y) : ingestPinned s =
      duplicateCounted e f dr d.delivered d.size d.record.source d.day (conflictsWith d.record y) (releasePin d.day s) := by
  obtain ⟨rest, hq⟩ := h.queue
  simp only [ingestPinned, h.drain, hq, h.pending, hm, hl, hy]
  exact h.done _

theorem ingestPinned_damaged {n o : Nat} (h : Comparing e dr f d s) (hm : s.lookup d.record.ref = some m) (hl : m.loc = .segment n o)
    (ha : s.segActive n = false) : ingestPinned s =
      duplicateCounted e f dr d.delivered d.size d.record.source d.day (conflictsWithEntry d.record m) (releasePin d.day s) := by
  obtain ⟨rest, hq⟩ := h.queue
  simp only [ingestPinned, h.drain, hq, h.pending, hm, hl, ha, Bool.false_eq_true, if_false]
  exact compareByEntry_live h hm

theorem ingestPinned_active {n o : Nat} (h : Comparing e dr f d s) (hm : s.lookup d.record.ref = some m) (hl : m.loc = .segment n o)
    (ha : s.segActive n = true) : ingestPinned s =
      (s.mapIe fun q => { q with drain := some { dr with dup := some { d with seg := n, ord := o, stage := .grantWait } } }).mapWa fun w =>
        { w with requests := w.requests.set .query (w.requests.get .query ++ [.ingest]) } := by
  obtain ⟨rest, hq⟩ := h.queue
  have hwaits : updDrain (fun x => { x with dup := some { d with seg := n, ord := o, stage := .grantWait } }) s =
      s.mapIe fun q => { q with drain := some { dr with dup := some { d with seg := n, ord := o, stage := .grantWait } } } := by
    rw [updDrain, State.mapIe, h.drain]
    rfl
  refine Eq.trans ?_ (congrArg (placeRequest .query .ingest) hwaits)
  simp only [ingestPinned, h.drain, hq, h.pending, hm, hl, ha, if_true]

theorem ingestDecoded_good {rs : List CallRecord} {y : CallRecord} (h : Comparing e dr f d s) (hy : rs[d.ord]? = some y) :
    ingestDecoded (some rs) s =
      duplicateCounted e f dr d.delivered d.size d.record.source d.day (conflictsWith d.record y) (releasePin d.day s) := by
  obtain ⟨rest, hq⟩ := h.queue
  simp only [ingestDecoded, h.drain, hq, h.pending, Option.bind_some, hy]
  exact h.done _

theorem ingestDecoded_failed (h : Comparing e dr f d s) (hm : s.lookup d.record.ref = some m) : ingestDecoded none s =
    duplicateCounted e f dr d.delivered d.size d.record.source d.day (conflictsWithEntry d.record m) (releasePin d.day s) := by
  obtain ⟨rest, hq⟩ := h.queue
  simp only [ingestDecoded, h.drain, hq, h.pending, Option.bind_none]
  exact compareByEntry_live h hm

end

/-- A failed read in the terms of the statements. -/
theorem readFailed_eq (n : Nat) (s : State) : s.readFailed n = { damagedAt n true s with wa := { s.wa with engine := none } } := by
  rw [damagedAt_shape]
  rfl

/-! ## The record at hand -/

/-- A record that passes the first steps of the checks goes on with the fifth (R64 to R66). -/
theorem decideNext_fromDay (h : RecordAtHand e dr f size s) {d : Delivered} (hd : d = readDelivered (e.payload.drop dr.offset))
    (hz : d.mustBeZero = true) (h1 : 1 ≤ d.source) (h2 : d.source ≤ 4095) (hs : d.source = f.source) (hc : d.charge ≤ 2147483647) :
    decideNext s = decideFromDay e size d.clampedRecord s := by
  rw [decideNext_atHand h, ← hd, decideRecord, if_neg, if_neg (by simp [hs]), if_neg (show ¬ Config.maxCharge < d.charge from Nat.not_lt.2 hc)]
  rintro (h | h | h)
  · rw [hz] at h
    cases h
  · omega
  · exact absurd h2 (Nat.not_le.2 h)

/-- A record that passes every check and whose reference is live is a duplicate (R67). -/
theorem decideNext_duplicate (h : RecordAtHand e dr f size s) {d : Delivered} {m : MapEntry} (hd : d = readDelivered (e.payload.drop dr.offset))
    (hr : firstRefusal s f d = none) (hm : s.lookup (refOf d.source d.sequence) = some m) :
    decideNext s = findDuplicate e size d.clampedRecord m s := by
  rw [decideNext_atHand h, ← hd, decideRecord_eq, hr, hm]

theorem findDuplicate_hot {r x : CallRecord} {m : MapEntry} {n : Nat} (hl : m.loc = .hot n) (hx : Tab.get s.hs.slots n = some x) :
    findDuplicate e size r m s = discardDuplicate e r.charge size r.source m.day (conflictsWith r x) s := by
  unfold findDuplicate
  rw [hl]
  dsimp only
  rw [hx]

/-- The drain waits for a pin on the stored record's day (R68). -/
theorem findDuplicate_segment {r : CallRecord} {m : MapEntry} {n o : Nat} (hd : s.ie.drain = some dr) (hl : m.loc = .segment n o) :
    let waits : PendingDuplicate :=
      { record := r, delivered := r.charge, size := size, day := m.day, seg := n, ord := o, stage := .pinWait }
    findDuplicate e size r m s = { s with
      ie := { s.ie with drain := some { dr with dup := some waits } }
      pc := { s.pc with parts := Tab.upd s.pc.parts m.day fun p => p.withQueue (p.waitQueue ++ [.ingest]) } } := by
  unfold findDuplicate
  rw [hl]
  dsimp only
  rw [updDrain, State.mapIe, hd]
  rfl

/-- Settles O41. -/
theorem recordEventDuplicates : Obligations.RecordEventDuplicates := by
  refine ⟨fun e dr f size s hand => ?_, fun e dr f size m s hand => ?_, fun e dr f d s hd hp hq ho => ?_⟩
  · intro d hz h1 h2 hs hc
    exact exec_recordEvent (decideNext_fromDay hand rfl hz h1 h2 hs hc)
  · intro d hr hm
    refine ⟨fun n x hl hx => ?_, fun n o p hl hp => ?_⟩
    · intro duration volume conflict u
      have hconflict : conflictsWith d.clampedRecord x = conflict := by
        rw [clampedRecord_eq]
        rfl
      have hnodup : ({ dr with
          offset := dr.offset + size, position := dr.position + 1, received := dr.received + 1, duplicates := dr.duplicates + 1,
          conflicts := if conflict then dr.conflicts + 1 else dr.conflicts, dup := none } : Drain) =
        { dr with
          offset := dr.offset + size, position := dr.position + 1, received := dr.received + 1, duplicates := dr.duplicates + 1,
          conflicts := if conflict then dr.conflicts + 1 else dr.conflicts } := by rw [hand.deciding]
      have hu : duplicateCounted e f dr d.charge size d.source m.day conflict s = u := by
        rw [duplicateCounted, hnodup]
        rfl
      have hexec : exec .recordEvent s = .next (settle u) := by
        refine exec_recordEvent ?_
        rw [decideNext_duplicate hand rfl hr hm, findDuplicate_hot hl hx, discardDuplicate_eq hand.drain hand.opened, hconflict]
        exact hu
      refine ⟨hexec, fun hlen hs => ?_⟩
      rw [hexec, settle_of_settled (hu ▸ hs.duplicateCounted hand.head hlen)]
    · intro waits
      refine ⟨_, exec_recordEvent ((decideNext_duplicate hand rfl hr hm).trans (findDuplicate_segment hand.drain hl)), rfl, ?_,
        rfl, rfl, rfl, rfl, rfl, rfl, rfl, rfl, rfl, rfl, rfl⟩
      refine ⟨p.withQueue (p.waitQueue ++ [.ingest]), ?_, rfl, rfl, rfl⟩
      refine (joinQueue_part m.day .ingest s m.day).trans ((if_pos rfl).trans ?_)
      rw [hp, Option.map_some]
  · intro x unpinned decides counted differs entryDiffers
    have h : Comparing e dr f d s := ⟨hd, hp, hq, ho⟩
    refine ⟨ingestReleased_eq h, fun hm => ingestPinned_gone h hm, fun m hm => ⟨fun n y hl hy => ingestPinned_hot h hm hl hy,
      fun n o hl ha => ingestPinned_damaged h hm hl ha, fun n o hl ha => ingestPinned_active h hm hl ha⟩, fun k n read he => ?_⟩
    intro idle
    refine ⟨fun rs y hdec hy => ?_, fun m hdec hm => ?_⟩
    · rw [exec_decoded he rfl hdec]
      exact congrArg (fun x => Host.Outcome.next (settleCompletion x)) (ingestDecoded_good (s := engineIdle s) (h.congr rfl) hy)
    · rw [exec_decodeFailed he rfl hdec]
      refine congrArg (fun x => Host.Outcome.next (settleCompletion x)) ?_
      refine (ingestDecoded_failed (s := s.readFailed n) (h.congr rfl) hm).trans ?_
      rw [readFailed_eq]
      rfl

end Sys2Proof.Machine
end

section
/-! What a record's old location loses, and an activity with the repack test after it, read exactly. -/

namespace Sys2Proof.Machine

open Wire

variable {s t u : State}

/-! ## A segment that loses a record -/

/-- A location lies in a segment. -/
def Location.isIn (n : Nat) : Location → Bool
  | .segment i _ => decide (i = n)
  | .hot _ => false

/-- The segment of a number becomes FREE where a record leaves this location (R104). -/
def State.frees (s : State) (loc : Location) (n : Nat) : Bool := loc.isIn n && (s.seg n).any fun e => decide (e.live ≤ 1)

/-- A segment becomes FREE where a record leaves this location (R104). -/
def State.freesOne (s : State) (loc : Location) : Bool :=
  match loc with
  | .segment n _ => s.frees loc n
  | .hot _ => false

/-- A segment that loses a record, by whether it becomes FREE (R104). -/
theorem segmentLoses_some {n : Nat} {e : SegEntry} (he : s.seg n = some e) : ∃ cs parts,
    segmentLoses n s = { s with
      cs := cs
      pc := { s.pc with parts := parts }
      ce := { s.ce with
        coldFull := s.ce.coldFull && !decide (e.live ≤ 1)
        coldWait := if e.live ≤ 1 then [] else s.ce.coldWait }
      wa := { s.wa with packQueue := if e.live ≤ 1 then joinDays s.ce.coldWait s.wa.packQueue else s.wa.packQueue } } ∧
    (∀ k, Tab.get cs.dir k = if k = n then (if e.live ≤ 1 then none else some { e with live := e.live - 1 }) else s.seg k) ∧
    (Tab.rising s.pc.parts = true → Tab.rising parts = true) ∧
    ∀ d, Tab.get parts d = (s.part d).map fun p =>
      { p with segments := if e.live ≤ 1 ∧ d = e.day then p.segments.filter (· != n) else p.segments } := by
  by_cases hl : e.live ≤ 1
  · refine ⟨{ s.cs with dir := Tab.del s.cs.dir n, bodies := Tab.del s.cs.bodies n },
      Tab.upd s.pc.parts e.day fun p => { p with segments := p.segments.filter (· != n) }, ?_, fun k => ?_, Tab.rising_upd _ _, fun d => ?_⟩
    · rw [segmentLoses, he]
      dsimp only
      rw [if_pos hl, freeSegment_eq, if_pos hl, if_pos hl, decide_eq_true hl, Bool.not_true, Bool.and_false]
    · rw [if_pos hl]
      split_ifs with hk
      · rw [hk]
        exact Tab.get_del_self _ _
      · exact Tab.get_del_ne _ hk
    · rw [Tab.get_upd]
      by_cases hd : d = e.day
      · simp only [hl, hd, and_self, if_true]
        rfl
      · simp only [hd, and_false, if_false]
        exact Option.map_id'.symm
  · refine ⟨{ s.cs with dir := Tab.upd s.cs.dir n fun e => { e with live := e.live - 1 } }, s.pc.parts, ?_, fun k => ?_, id, fun d => ?_⟩
    · rw [segmentLoses, he]
      dsimp only
      rw [if_neg hl, if_neg hl, if_neg hl, decide_eq_false hl, Bool.not_false, Bool.and_true]
      rfl
    · rw [if_neg hl, Tab.get_upd]
      split_ifs with hk
      · rw [hk, show Tab.get s.cs.dir n = some e from he, Option.map_some]
      · rfl
    · simp only [hl, false_and, if_false]
      exact Option.map_id'.symm

/-! ## An activity, read at the day's partition -/

/-- An activity reads and writes the state and the quiet timer alone. -/
theorem partAfterActivity_shape (counted store pressure : Bool) (p : Partition) : partAfterActivity counted store pressure p = { p with
    state := (partAfterActivity counted store pressure p).state
    quietElapsed := (partAfterActivity counted store pressure p).quietElapsed
    quietExpired := (partAfterActivity counted store pressure p).quietExpired } := by
  unfold partAfterActivity
  split_ifs <;> rfl

/-- A partition leaves the pack queue where an activity takes it back to OPEN (R46). -/
theorem activity_returns (counted store pressure : Bool) (p : Partition) :
    (decide (p.state = .quiet) && (counted || store) && !pressure) =
      decide (p.state = .quiet ∧ (partAfterActivity counted store pressure p).state = .opened) := by
  unfold partAfterActivity
  by_cases hq : p.state = .quiet
  · by_cases hc : (counted ∨ store) ∧ pressure = false
    · rw [if_pos (.inr ⟨hq, hc⟩)]
      simpa [hq] using hc
    · rw [if_neg]
      · simpa [hq] using hc
      · rintro (⟨h, -⟩ | ⟨-, h⟩)
        · rw [hq] at h
          cases h
        · exact hc h
  · simp [hq]

/-- An activity on a day with an entry (R46, R48). -/
theorem afterActivity_some {counted store : Bool} {day : Nat} {p : Partition} (hp : s.part day = some p) :
    let active := partAfterActivity counted store s.wa.pressure p
    let leaves (l : List Nat) : List Nat := if p.state = .quiet ∧ active.state = .opened then l.filter (· != day) else l
    afterActivity counted store day s = { s with
      pc := { s.pc with parts := Tab.upd s.pc.parts day (partAfterActivity counted store s.wa.pressure) }
      wa := { s.wa with packQueue := leaves s.wa.packQueue }
      ce := { s.ce with coldWait := leaves s.ce.coldWait } } := by
  intro active leaves
  unfold afterActivity
  simp only [hp, Option.any_some, activity_returns, decide_eq_true_eq]
  rfl

/-! ## The repack test -/

/-- A repack test of a day with an entry (R121). -/
theorem repackTest_some {day : Nat} {p : Partition} (hp : s.part day = some p) (test : Partition → Bool) : repackTest test day s = { s with
    wa := { s.wa with repackQueue :=
      if p.state = .packed ∧ day ∉ s.wa.repackQueue ∧ test p = true then s.wa.repackQueue ++ [day] else s.wa.repackQueue } } := by
  unfold repackTest
  rw [hp]
  dsimp only
  by_cases hm : day ∈ s.wa.repackQueue
  · by_cases ht : p.state = .packed ∧ test p = true <;> simp [ht, hm, joinRepack, State.mapWa]
  · by_cases ht : p.state = .packed ∧ test p = true
    · simp [ht, hm, joinRepack, State.mapWa]
    · rw [if_neg ht, if_neg (fun h => ht ⟨h.1, h.2.2⟩)]

/-- The second repack test, over the ACTIVE segments' entries (R121). -/
theorem sparseTest_eq (p : Partition) :
    let listed := p.segments.filterMap fun n => (s.seg n).filter fun e => decide (e.state = .active)
    s.sparseTest p = decide (100 * (listed.map (·.live)).sum < s.cl.settings.repackPercent * (listed.map (·.records)).sum) := by
  intro listed
  have h : (s.activeSegs p).filterMap s.seg = listed := by
    rw [State.activeSegs, List.filterMap_filter]
    refine List.filterMap_congr fun n _ => ?_
    unfold State.segActive
    cases s.seg n with
    | none => rfl
    | some e => by_cases h : e.state = .active <;> simp [h, Option.filter]
  rw [State.sparseTest, h]

end Sys2Proof.Machine
end

section
/-! A moving amendment at its events: pin grant, decode, admission and move (O46). -/

namespace Sys2Proof.Machine

open Wire

variable {s t u : State}

/-! ## The old location of a moved record -/

/-- The day's job has the record of this location in its snapshot (R98, R101). -/
def State.jobKeeps (s : State) (day : Nat) (loc : Location) : Bool :=
  s.ce.job.any fun j => decide (j.day = day) && j.members.any fun b => decide (b.loc = loc)

/-- The hot count once a record of this location has moved to a new slot (R98). -/
def Location.hotAfter (kept : Bool) (count : Nat) : Location → Nat
  | .hot _ => if kept then count + 1 else count
  | .segment _ _ => count + 1

theorem inSnapshot_eq (day n : Nat) (s : State) : s.inSnapshot day n = s.jobKeeps day (.hot n) := by
  unfold State.inSnapshot State.jobKeeps
  cases s.ce.job <;> rfl

/-- What the move of a record leaves of its old location (R98 step 3, R104). -/
theorem leaveOldLocation_reads {day : Nat} {old : Location} {t : Partition} (ht : s.part day = some t)
    (hseg : ∀ n o, old = .segment n o → ∃ e, s.seg n = some e ∧ e.day = day) :
    let kept := s.jobKeeps day old
    let gone := s.freesOne old
    ∃ hs cs parts, leaveOldLocation day old s = { s with
        hs := hs
        cs := cs
        pc := { s.pc with parts := parts }
        ce := { s.ce with coldFull := s.ce.coldFull && !gone, coldWait := if gone then [] else s.ce.coldWait }
        wa := { s.wa with packQueue := if gone then joinDays s.ce.coldWait s.wa.packQueue else s.wa.packQueue } } ∧
      (∀ i, Tab.get hs.slots i = if old = .hot i ∧ kept = false then none else Tab.get s.hs.slots i) ∧
      (∀ n, Tab.get cs.dir n = if s.frees old n then none else if old.isIn n then (s.seg n).map (fun e => { e with live := e.live - 1 }) else s.seg n) ∧
      (Tab.rising s.pc.parts = true → Tab.rising parts = true) ∧
      ∀ d, Tab.get parts d = if d = day then
        some { t with hotCount := old.hotAfter kept t.hotCount, segments := t.segments.filter fun n => !s.frees old n } else s.part d := by
  intro kept gone
  have hsame (x : State) (d : Nat) (hx : ∀ d, x.part d = s.part d) (f : Partition → Partition) :
      Tab.get (Tab.upd x.pc.parts day f) d = if d = day then some (f t) else s.part d := by
    rw [Tab.get_upd]
    split_ifs with hd
    · rw [hd, show Tab.get x.pc.parts day = some t from (hx day).trans ht, Option.map_some]
    · exact hx d
  cases old with
  | hot n =>
    have hsegs : (t.segments.filter fun k => !s.frees (.hot n) k) = t.segments := List.filter_eq_self.2 fun _ _ => rfl
    have hfull : (s.ce.coldFull && !gone) = s.ce.coldFull := Bool.and_true _
    have hleave : leaveOldLocation day (.hot n) s = if kept then updPart day (fun t => { t with hotCount := t.hotCount + 1 }) s else releaseSlot n s := by
      rw [show kept = s.inSnapshot day n from (inSnapshot_eq day n s).symm]
      rfl
    rw [hleave]
    cases hk : kept with
    | true =>
      refine ⟨s.hs, s.cs, Tab.upd s.pc.parts day fun t => { t with hotCount := t.hotCount + 1 }, ?_, fun i => ?_, fun k => rfl,
        Tab.rising_upd _ _, fun d => ?_⟩
      · rw [hfull]
        rfl
      · rw [if_neg (by simp)]
      · rw [hsegs]
        exact hsame s d (fun _ => rfl) _
    | false =>
      refine ⟨{ s.hs with slots := Tab.del s.hs.slots n }, s.cs, s.pc.parts, ?_, fun i => ?_, fun k => rfl, id, fun d => ?_⟩
      · rw [hfull]
        rfl
      · by_cases hi : i = n
        · rw [if_pos ⟨by rw [hi], rfl⟩, hi]
          exact Tab.get_del_self _ _
        · rw [if_neg (fun h => hi (Location.hot.inj h.1).symm)]
          exact Tab.get_del_ne _ hi
      · rw [hsegs]
        split_ifs with hd
        · rw [hd]
          exact ht
        · rfl
  | segment n o =>
    obtain ⟨e, he, hday⟩ := hseg n o rfl
    have hfrees (k : Nat) : s.frees (.segment n o) k = decide (n = k ∧ e.live ≤ 1) := by
      unfold State.frees
      by_cases hk : n = k
      · subst hk
        simp [Location.isIn, he]
      · simp [Location.isIn, hk]
    have hgone : gone = decide (e.live ≤ 1) := (hfrees n).trans (by simp)
    obtain ⟨cs, parts, hl, hdir, hr, hparts⟩ := segmentLoses_some he
    refine ⟨s.hs, cs, Tab.upd parts day fun t => { t with hotCount := t.hotCount + 1 }, ?_, fun i => ?_, fun k => ?_,
      fun h => Tab.rising_upd _ _ (hr h), fun d => ?_⟩
    · show updPart day _ (segmentLoses n s) = _
      rw [hl, hgone]
      simp only [decide_eq_true_eq]
      rfl
    · rw [if_neg (by simp)]
    · rw [hdir, hfrees]
      by_cases hk : k = n
      · subst hk
        simp [Location.isIn, he]
      · simp [hk, Ne.symm hk, Location.isIn]
    · rw [Tab.get_upd, hparts]
      have hfilter : (if e.live ≤ 1 then t.segments.filter (· != n) else t.segments) = t.segments.filter fun k => !s.frees (.segment n o) k := by
        simp only [hfrees]
        by_cases hlive : e.live ≤ 1
        · rw [if_pos hlive]
          refine List.filter_congr fun k _ => ?_
          simp [hlive, bne, eq_comm, beq_eq_decide]
        · rw [if_neg hlive]
          exact (List.filter_eq_self.2 fun k _ => by simp [hlive]).symm
      by_cases hd : d = day
      · rw [if_pos hd, if_pos hd, hd, ht, ← hfilter]
        simp only [Option.map_some, hday, and_true]
        rfl
      · rw [if_neg hd, if_neg hd]
        simp only [hday, hd, and_false, if_false]
        exact Option.map_id'

/-! ## The move -/

theorem amendedVersion_day (p : AmendParams) (x : CallRecord) : (amendedVersion p x).day = x.day := rfl

/-- The account and the counter of an applied amendment (R94, R98, R145). -/
def amendTallied (p : AmendParams) (x : CallRecord) (a : AuditUnit) : AuditUnit :=
  { a with
    current := bankAdd a.current .amendsApplied 1
    accounts := Tab.upd a.accounts (accountKey x.source x.day) fun b =>
      { b with amends := count64 (b.amends + 1), amendDelta := sum64 (b.amendDelta + ((p.charge : Int) - x.charge)) } }

/-- No activity makes or unmakes a PACKED partition (R46). -/
theorem partAfterActivity_packed (counted store pressure : Bool) (p : Partition) :
    (partAfterActivity counted store pressure p).state = .packed ↔ p.state = .packed := by
  unfold partAfterActivity
  split_ifs with h
  · refine ⟨fun h => (by cases h), fun hp => ?_⟩
    rcases h with ⟨h, -⟩ | ⟨h, -⟩ <;> rw [hp] at h <;> cases h
  · rfl

/-- The move of an amendment: the new slot, the map entry, the old location, the account, the activity and the repack test (R98, R99). -/
theorem amendMove_reads {p : AmendParams} {old : Location} {x : CallRecord} {t active : Partition} (hslots : Tab.rising s.hs.slots = true)
    (hparts : Tab.rising s.pc.parts = true) (ht : s.part x.day = some t)
    (hhot : ∀ n, old = .hot n → (Tab.get s.hs.slots n).isSome = true)
    (hseg : ∀ n o, old = .segment n o → ∃ e, s.seg n = some e ∧ e.day = x.day)
    (hactive : partAfterActivity (s.cl.settings.activityMask.testBit 1) false s.wa.pressure t = active) :
    let kept := s.jobKeeps x.day old
    let gone := s.freesOne old
    let leaves (l : List Nat) : List Nat := if t.state = .quiet ∧ active.state = .opened then l.filter (· != x.day) else l
    let y : Partition := { active with hotCount := old.hotAfter kept t.hotCount, segments := t.segments.filter fun n => !s.frees old n }
    Tab.get s.hs.slots s.nextSlot = none ∧ ∃ hs cs parts repack, amendMove p old x s = { s with
        hs := hs
        cs := cs
        pc := { s.pc with parts := parts }
        ix := { s.ix with map := Tab.put s.ix.map p.ref ((amendedVersion p x).entry (.hot s.nextSlot)) }
        au := amendTallied p x s.au
        ce := { s.ce with coldFull := s.ce.coldFull && !gone, coldWait := leaves (if gone then [] else s.ce.coldWait) }
        wa := { s.wa with
          packQueue := leaves (if gone then joinDays s.ce.coldWait s.wa.packQueue else s.wa.packQueue)
          repackQueue := repack } } ∧
      (∀ i, Tab.get hs.slots i =
        if i = s.nextSlot then some (amendedVersion p x) else if old = .hot i ∧ kept = false then none else Tab.get s.hs.slots i) ∧
      (∀ n, Tab.get cs.dir n = if s.frees old n then none else if old.isIn n then (s.seg n).map (fun e => { e with live := e.live - 1 }) else s.seg n) ∧
      (∀ d, Tab.get parts d = if d = x.day then some y else s.part d) ∧
      repack = (let listed := y.segments.filterMap fun n => (Tab.get cs.dir n).filter fun e => decide (e.state = .active)
        if t.state = .packed ∧ x.day ∉ s.wa.repackQueue ∧ (s.cl.settings.repackThreshold ≤ y.hotCount ∨
            100 * (listed.map (·.live)).sum < s.cl.settings.repackPercent * (listed.map (·.records)).sum)
          then s.wa.repackQueue ++ [x.day] else s.wa.repackQueue) := by
  intro kept gone leaves y
  have hfree : Tab.get s.hs.slots s.nextSlot = none := Tab.get_lowestFree hslots 0
  refine ⟨hfree, ?_⟩
  let placed := putEntry p.ref ((amendedVersion p x).entry (.hot s.nextSlot)) (writeSlot s.nextSlot (amendedVersion p x) s)
  obtain ⟨hs, cs, parts, hleft, hget, hdir, hrise, hpart⟩ := leaveOldLocation_reads (s := placed) (day := x.day) (old := old) ht hseg
  let left : State := { placed with
    hs := hs
    cs := cs
    pc := { s.pc with parts := parts }
    ce := { s.ce with coldFull := s.ce.coldFull && !gone, coldWait := if gone then [] else s.ce.coldWait }
    wa := { s.wa with packQueue := if gone then joinDays s.ce.coldWait s.wa.packQueue else s.wa.packQueue }
    au := amendTallied p x s.au }
  let moved : Partition := { t with hotCount := old.hotAfter kept t.hotCount, segments := t.segments.filter fun n => !s.frees old n }
  have hmoved : left.part x.day = some moved := (hpart x.day).trans (if_pos rfl)
  have hy : partAfterActivity (s.cl.settings.activityMask.testBit 1) false s.wa.pressure moved = y := by
    simp only [moved, y, ← hactive]
    unfold partAfterActivity
    split_ifs <;> rfl
  have hstate : (partAfterActivity (s.cl.settings.activityMask.testBit 1) false s.wa.pressure moved).state = active.state := by rw [hy]
  let after : State := { left with
    pc := { s.pc with parts := Tab.upd parts x.day (partAfterActivity (s.cl.settings.activityMask.testBit 1) false s.wa.pressure) }
    ce := { s.ce with coldFull := s.ce.coldFull && !gone, coldWait := leaves (if gone then [] else s.ce.coldWait) }
    wa := { s.wa with packQueue := leaves (if gone then joinDays s.ce.coldWait s.wa.packQueue else s.wa.packQueue) } }
  have hafter : activity .amend x.day left = after := by
    have hreturns := afterActivity_some (counted := s.cl.settings.activityMask.testBit 1) (store := false) hmoved
    refine (activity_after .amend x.day left (hrise hparts)).trans (hreturns.trans ?_)
    rw [show left.wa.pressure = s.wa.pressure from rfl, hstate]
  have hpart' (d : Nat) : after.part d = if d = x.day then some y else s.part d := by
    refine (Tab.get_upd _ _ _ _).trans ?_
    split_ifs with hd
    · rw [hd, show Tab.get parts x.day = some moved from hmoved, Option.map_some, hy]
    · exact (hpart d).trans (if_neg hd)
  have hmove : amendMove p old x s = repackTest (fun t => after.hotTest t || after.sparseTest t) x.day after := by
    have htallied : tallyAmend x.source x.day ((p.charge : Int) - x.charge) (leaveOldLocation x.day old placed) = left := by
      rw [hleft]
      rfl
    rw [← hafter, ← htallied]
    rfl
  rw [hmove, repackTest_some ((hpart' x.day).trans (if_pos rfl))]
  refine ⟨hs, cs, _, _, rfl, fun i => ?_, hdir, hpart', ?_⟩
  · refine (hget i).trans ?_
    by_cases hi : i = s.nextSlot
    · rw [if_pos hi, if_neg]
      · rw [hi]
        exact Tab.get_put_self _ _ _
      · rintro ⟨hold, -⟩
        have h := hhot i hold
        rw [hi, hfree] at h
        cases h
    · rw [if_neg hi]
      exact if_congr Iff.rfl rfl (Tab.get_put_ne _ _ hi)
  · have hpacked : y.state = .packed ↔ t.state = .packed := by
      rw [show y.state = active.state from rfl, ← hactive]
      exact partAfterActivity_packed _ _ _ t
    have hsparse := sparseTest_eq (s := after) y
    refine if_congr (and_congr hpacked (and_congr Iff.rfl ?_)) rfl rfl
    rw [hsparse, Bool.or_eq_true]
    exact or_congr decide_eq_true_iff decide_eq_true_iff

/-! ## The amendment in its context -/

section
variable {c : Nat} {q : QueryContext} {p : AmendParams} {f : AmendFlight}

/-- The state as a request in a context is answered: the context and its Amend-in-Flight entry free (R84, R95). -/
def contextEnded (c : Nat) (q : QueryContext) (status : Nat) (payload : Bytes) (s : State) : State :=
  answered q.tag status payload { s with
    qa := { s.qa with contexts := Tab.del s.qa.contexts c, inFlight := Tab.del s.qa.inFlight c } }

theorem finishContext_ended (he : q.epoch = s.lp.epoch) (status : Nat) (payload : Bytes) :
    finishContext c q status payload s = contextEnded c q status payload s := finishContext_answered he status payload

theorem queryPinned_amend (hq : s.queryCtx c = some q) (hw : q.work = .amend p) : queryPinned c s = amendPinned c q p s := by
  unfold queryPinned
  rw [hq]
  dsimp only
  rw [hw]

theorem queryReleased_amend (hq : s.queryCtx c = some q) (hw : q.work = .amend p) :
    queryReleased c s = finishContext c q Status.notFound [] s := by
  unfold queryReleased
  rw [hq]
  dsimp only
  rw [hw]

theorem moveAdmitted_amend (hq : s.queryCtx c = some q) (hf : Tab.get s.qa.inFlight c = some f) (hw : q.work = .amend p) :
    moveAdmitted c s = amendAdmitted c q p f s := by
  unfold moveAdmitted
  rw [hq, hf]
  dsimp only
  rw [hw]

theorem queryDecoded_amend {rs : Option (List CallRecord)} (hq : s.queryCtx c = some q) (hw : q.work = .amend p) :
    queryDecoded c rs s = match rs.bind fun l => l[q.ord]? with
      | none => finishContext c q Status.unreadable [] (releasePin q.day s)
      | some x => amendAsksMover c q (.segment q.seg q.ord) x s := by
  unfold queryDecoded
  rw [hq]
  dsimp only
  generalize q.work = w at hw
  subst hw
  rfl

/-! ### At the pin grant (R96) -/

variable {m : MapEntry} (hm : s.lookup p.ref = some m)
include hm

theorem amendPinned_conflict (hc : m.amendCount ≠ p.expected) : amendPinned c q p s =
    finishContext c q Status.amendConflict (be 1 m.amendCount) (conflictCounted (releasePin q.day s)) := by
  unfold amendPinned
  rw [hm]
  exact if_pos hc

theorem amendPinned_segment {n o : Nat} (hc : m.amendCount = p.expected) (hl : m.loc = .segment n o) : amendPinned c q p s =
    if s.segActive n then
      askDecode c n (updCtx c (fun q => { q with ord := o }) (updFlight c (fun f => { f with loc := m.loc, phase := .reading }) s))
    else finishContext c q Status.unreadable [] (releasePin q.day s) := by
  unfold amendPinned
  rw [hm]
  refine (if_neg (not_not.2 hc)).trans ?_
  rw [hl]

theorem amendPinned_hot {n : Nat} {x : CallRecord} {t : Partition} (hc : m.amendCount = p.expected) (hl : m.loc = .hot n)
    (hx : Tab.get s.hs.slots n = some x) (ht : s.part q.day = some t) : amendPinned c q p s =
      if t.state.inPlace then
        finishContext c q Status.ok (amendPayload false (amendedVersion p x)) (releasePin q.day (amendInPlace p n x s))
      else amendAsksMover c q m.loc x s := by
  unfold amendPinned
  rw [hm]
  refine (if_neg (not_not.2 hc)).trans ?_
  rw [hl]
  dsimp only
  rw [ht, hx]

omit hm in
/-- The context of an amendment that asks for a decode (R96). -/
theorem askDecode_queryCtx (c n i o : Nat) (g : AmendFlight → AmendFlight) (s : State) :
    (askDecode c n (updCtx c (fun q => { q with ord := o }) (updFlight c g s))).queryCtx i =
      if i = c then (s.queryCtx i).map fun q => { q with stage := .grantWait, seg := n, ord := o } else s.queryCtx i := by
  refine (updCtx_queryCtx c _ _ i).trans ?_
  rw [updCtx_queryCtx]
  split_ifs
  · rw [Option.map_map]
    rfl
  · rfl

/-! ### At the admission as a mover (R97) -/

omit hm in
theorem amendAdmitted_gone (hm : s.lookup p.ref = none) :
    amendAdmitted c q p f s = finishContext c q Status.notFound [] (releaseMover q.day s) := by
  unfold amendAdmitted
  dsimp only
  rw [show (releaseMover q.day s).lookup p.ref = none from hm]

theorem amendAdmitted_conflict (hc : m.amendCount ≠ p.expected ∨ m.loc ≠ f.loc) : amendAdmitted c q p f s =
    finishContext c q Status.amendConflict (be 1 m.amendCount) (conflictCounted (releaseMover q.day s)) := by
  unfold amendAdmitted
  dsimp only
  rw [show (releaseMover q.day s).lookup p.ref = some m from hm]
  exact if_pos hc

theorem amendAdmitted_goesOn {x : CallRecord} (hc : m.amendCount = p.expected) (hl : m.loc = f.loc) (hx : f.copy = some x) :
    amendAdmitted c q p f s = if (releaseMover q.day s).freeSlots = 0 then finishContext c q Status.notReady [] (releaseMover q.day s)
      else finishContext c q Status.ok (amendPayload true (amendedVersion p x)) (amendMove p f.loc x (releaseMover q.day s)) := by
  unfold amendAdmitted
  dsimp only
  rw [show (releaseMover q.day s).lookup p.ref = some m from hm]
  refine (if_neg (fun h => h.elim (· hc) (· hl))).trans ?_
  rw [hx]

end

/-! ## The amendment's copy, and the amendment in place -/

/-- An activity, read at each day (R46, R48). -/
theorem activity_reads (a : Activity) (day : Nat) (s : State) : ∃ parts pack wait,
    activity a day s = { s with pc := { parts := parts }, wa := { s.wa with packQueue := pack }, ce := { s.ce with coldWait := wait } } ∧
    ∀ d, Tab.get parts d = if d = day then
      (s.part d).map (partAfterActivity (s.cl.settings.activityMask.testBit a.bit) (decide (a = .ingest)) s.wa.pressure) else s.part d := by
  have stays (f : Partition → Partition) (hf : ∀ p, s.part day = some p → f p = p) : ∃ parts pack wait,
      s = { s with pc := { parts := parts }, wa := { s.wa with packQueue := pack }, ce := { s.ce with coldWait := wait } } ∧
      ∀ d, Tab.get parts d = if d = day then (s.part d).map f else s.part d := by
    refine ⟨s.pc.parts, s.wa.packQueue, s.ce.coldWait, rfl, fun d => ?_⟩
    split_ifs with hd
    · show s.part d = _
      cases hp : s.part d with
      | none => rfl
      | some p => rw [Option.map_some, hf p (hd ▸ hp)]
    · rfl
  have changes (f g : Partition → Partition) (hf : ∀ p, s.part day = some p → f p = g p) (d : Nat) :
      Tab.get (Tab.upd s.pc.parts day f) d = if d = day then (s.part d).map g else s.part d := by
    rw [Tab.get_upd]
    split_ifs with hd
    · show (s.part d).map f = _
      cases hp : s.part d with
      | none => rfl
      | some p => rw [Option.map_some, Option.map_some, hf p (hd ▸ hp)]
    · rfl
  unfold activity
  cases hp : s.part day with
  | none =>
    dsimp only
    exact stays _ fun p h => by rw [hp] at h; cases h
  | some p =>
    dsimp only
    split
    next ho =>
      split
      next hc =>
        exact ⟨_, s.wa.packQueue, s.ce.coldWait, rfl, changes (fun p => { p with quietElapsed := 0, quietExpired := false }) _ fun q hq => by
          cases hp.symm.trans hq
          simp [partAfterActivity, ho, hc]⟩
      next hc =>
        exact stays _ fun q hq => by
          cases hp.symm.trans hq
          simp [partAfterActivity, ho, hc]
    next ho =>
      split
      next hc =>
        exact ⟨_, _, _, rfl, changes (fun p => { p with state := .opened, quietElapsed := 0, quietExpired := false }) _ fun q hq => by
          cases hp.symm.trans hq
          simp [partAfterActivity, ho, hc]⟩
      next hc =>
        exact stays _ fun q hq => by
          cases hp.symm.trans hq
          unfold partAfterActivity
          rw [if_neg]
          simpa [ho] using hc
    next h1 h2 =>
      exact stays _ fun q hq => by
        cases hp.symm.trans hq
        unfold partAfterActivity
        rw [if_neg]
        rintro (⟨h, -⟩ | ⟨h, -⟩)
        · exact h1 h
        · exact h2 h

/-- An amendment that asks as mover: its copy noted, its pin released, its place at the tail of the wait queue (R96). -/
theorem amendAsksMover_part (c : Nat) (q : QueryContext) (loc : Location) (x : CallRecord) (s : State) (d : Nat) :
    (amendAsksMover c q loc x s).part d = if d = q.day then
      (s.part d).map fun t => { t with pins := t.pins - 1, waitQueue := t.waitQueue ++ [.move c], moverWaiting := true } else s.part d := by
  unfold amendAsksMover
  rw [joinQueue_part, releasePin_part]
  split_ifs
  · rw [Option.map_map]
    refine congrArg (fun g => Option.map g _) (funext fun t => ?_)
    simp [Partition.withQueue, Waiter.isMover]
  · rfl

/-- An amendment in place, read at the day of the pin (R94). -/
theorem amendInPlace_reads (p : AmendParams) (n : Nat) (x : CallRecord) (s : State) : ∃ parts pack wait,
    amendInPlace p n x s = { s with
      hs := { s.hs with slots := Tab.put s.hs.slots n (amendedVersion p x) }
      ix := { s.ix with map := Tab.put s.ix.map p.ref ((amendedVersion p x).entry (.hot n)) }
      au := amendTallied p x s.au
      pc := { parts := parts }
      wa := { s.wa with packQueue := pack }
      ce := { s.ce with coldWait := wait } } ∧
    ∀ d, Tab.get parts d = if d = x.day then
      (s.part d).map (partAfterActivity (s.cl.settings.activityMask.testBit 1) false s.wa.pressure) else s.part d := by
  obtain ⟨parts, pack, wait, h, hp⟩ := activity_reads .amend x.day (tallyAmend x.source x.day ((p.charge : Int) - x.charge)
    (putEntry p.ref ((amendedVersion p x).entry (.hot n)) (writeSlot n (amendedVersion p x) s)))
  exact ⟨parts, pack, wait, h, hp⟩

/-- The partition's holder plays no part in an activity. -/
theorem partAfterActivity_unheld (counted store pressure : Bool) (t : Partition) :
    partAfterActivity counted store pressure { t with moverHolding := false } =
      { partAfterActivity counted store pressure t with moverHolding := false } := by
  unfold partAfterActivity
  split_ifs <;> rfl

theorem partAfterActivity_rest (counted store pressure : Bool) (t : Partition) :
    let a := partAfterActivity counted store pressure t
    a.live = t.live ∧ a.segments = t.segments ∧ a.moverHolding = t.moverHolding := by
  unfold partAfterActivity
  split_ifs <;> exact ⟨rfl, rfl, rfl⟩

/-- Settles O46. -/
theorem movingAmendment : Obligations.MovingAmendment := by
  intro c q p f t s hq hw hep hf ht pins leaves conflict ended version entry tallied active asksMover
  have hended (x : State) (hlp : x.lp = s.lp) (hqa : x.qa = s.qa) (status : Nat) (payload : Bytes) :
      finishContext c q status payload x = ended status payload x := by
    rw [finishContext_ended (by rw [hlp]; exact hep), contextEnded, hqa]
  have hversion (x : CallRecord) : amendedVersion p x = version x := by
    rw [amendedVersion_eq, ← Bool.or_assoc]
  have hpins : (releasePin q.day s).part q.day = some { t with pins := t.pins - 1 } := released_part ht
  have hasks (loc : Location) (x : CallRecord) (w : WorkArbiter) : asksMover loc x (amendAsksMover c q loc x { s with wa := w }) := by
    refine ⟨rfl, ?_, fun d hd => ?_, rfl, rfl, rfl, rfl, rfl, rfl, rfl, rfl⟩
    · rw [amendAsksMover_part, if_pos rfl, show ({ s with wa := w } : State).part q.day = some t from ht, Option.map_some]
    · rw [amendAsksMover_part, if_neg hd]
      rfl
  have hpinned := queryPinned_amend hq hw
  have hadmitted := moveAdmitted_amend hq hf hw
  refine ⟨?_, fun hm => ⟨?_, ?_⟩, fun m hm => ⟨fun hc => ?_, fun hc => ⟨fun n o hl ha => ?_, fun n o hl ha => ?_, fun n x hl hx hst => ?_,
    fun n x hl hx h1 h2 => ?_⟩, fun hc => ?_, fun x hc hl hx => ⟨fun hfull => ?_, fun hroom hk hday hhot hseg => ?_⟩⟩, fun k read he => ?_⟩
  · rw [queryReleased_amend hq hw]
    exact hended s rfl rfl _ _
  · rw [hpinned, amendPinned, hm]
    exact hended (pins s) rfl rfl _ _
  · rw [hadmitted, amendAdmitted_gone hm]
    exact hended (leaves s) rfl rfl _ _
  · rw [hpinned, amendPinned_conflict hm hc]
    exact hended (conflict (pins s)) rfl rfl _ _
  · rw [hpinned, amendPinned_segment hm hc hl, ha]
    exact hended (pins s) rfl rfl _ _
  · rw [hpinned, amendPinned_segment hm hc hl, if_pos ha]
    refine ⟨_, rfl, ?_, fun i hi => ?_, rfl, rfl, rfl, rfl, rfl, rfl, rfl, rfl, rfl, rfl, rfl, rfl, rfl⟩
    · exact (askDecode_queryCtx c n c o _ s).trans ((if_pos rfl).trans (congrArg (Option.map _) hq))
    · exact (askDecode_queryCtx c n i o _ s).trans (if_neg hi)
  · rw [hpinned, amendPinned_hot hm hc hl hx ht, if_neg (fun h => by rw [inPlace_iff] at h; tauto)]
    exact ⟨hasks m.loc x s.wa, rfl, rfl, rfl⟩
  · rw [hpinned, amendPinned_hot hm hc hl hx ht, if_pos ((inPlace_iff _).2 ⟨h1, h2⟩)]
    obtain ⟨parts, pack, wait, hplace, hparts⟩ := amendInPlace_reads p n x s
    rw [hplace, hversion]
    have hday : Tab.get parts q.day = some (if x.start / 86400 = q.day then active t else t) := by
      rw [hparts, ht]
      exact (if_congr eq_comm rfl rfl).trans (apply_ite some (x.start / 86400 = q.day) (active t) t).symm
    have hsame : (if x.start / 86400 = q.day then active t else t).pins = t.pins := by
      split_ifs
      · exact partAfterActivity_pins _ _ _ t
      · rfl
    refine ⟨_, { (if x.start / 86400 = q.day then active t else t) with pins := t.pins - 1 }, hended _ (by rfl) (by rfl) _ _,
      rfl, rfl, rfl, rfl, rfl, ?_, rfl, fun h => ?_, rfl, rfl, rfl, rfl, rfl⟩
    · refine (releasePin_part q.day _ q.day).trans ((if_pos rfl).trans ((congrArg (Option.map _) hday).trans ?_))
      rw [Option.map_some, hsame]
    · rw [if_pos h]
  · rw [hadmitted, amendAdmitted_conflict hm hc]
    exact hended (conflict (leaves s)) rfl rfl _ _
  · rw [hadmitted, amendAdmitted_goesOn hm hc hl hx,
      if_pos (show (releaseMover q.day s).freeSlots = 0 from Nat.sub_eq_zero_of_le hfull)]
    exact hended (leaves s) rfl rfl _ _
  · rw [hadmitted, amendAdmitted_goesOn hm hc hl hx,
      if_neg (show (releaseMover q.day s).freeSlots ≠ 0 from Nat.sub_ne_zero_of_lt hroom)]
    obtain ⟨-, hparts, -, hslots, -⟩ := hk
    have hdir' : x.day = q.day := hday
    obtain ⟨hfree, hs, cs, parts, repack, hmove, hget, hdir, hpart, hrepack⟩ := amendMove_reads (s := releaseMover q.day s) (p := p) (old := f.loc)
      (x := x) (t := { t with moverHolding := false }) hslots (Tab.rising_upd _ (fun p : Partition => { p with moverHolding := false }) hparts)
      (by rw [hdir', releaseMover_part, if_pos rfl, ht, Option.map_some]) hhot (fun n o h => by rw [hdir']; exact hseg n o h)
      (partAfterActivity_unheld _ _ _ t)
    intro kept left freed gone leaves'
    rw [hdir'] at hmove hpart hrepack
    have hkept : (releaseMover q.day s).jobKeeps q.day f.loc = kept := rfl
    have hleft (n : Nat) : f.loc.isIn n = left n := by
      show f.loc.isIn n = match f.loc with | .segment i _ => decide (i = n) | .hot _ => false
      cases f.loc <;> rfl
    have hfreed (n : Nat) : (releaseMover q.day s).frees f.loc n = freed n :=
      congrArg (· && (s.seg n).any fun e : SegEntry => decide (e.live ≤ 1)) (hleft n)
    have hgone : (releaseMover q.day s).freesOne f.loc = gone := by
      have h (loc : Location) : (match loc with | .segment n _ => (releaseMover q.day s).frees f.loc n | .hot _ => false) =
          match loc with | .segment n _ => freed n | .hot _ => false := by
        cases loc with
        | segment n o => exact hfreed n
        | hot n => rfl
      exact h f.loc
    rw [hgone, hversion] at hmove
    rw [hversion]
    refine ⟨_, s.nextSlot, { active t with
        moverHolding := false, hotCount := f.loc.hotAfter kept t.hotCount, segments := t.segments.filter fun n => !freed n },
      (congrArg (finishContext c q _ _) hmove).trans (hended _ (by rfl) (by rfl) _ _), hfree, fun i => ?_, rfl, rfl, fun n => ?_, rfl, fun hq => ?_, rfl,
      fun d hd => ?_, ?_, rfl, ?_, rfl, ?_, rfl, ?_, ?_, rfl, rfl, rfl, fun h1 h2 => ?_, rfl, rfl, rfl, rfl⟩
    · rw [hversion, hdir'] at hget
      exact hget i
    · have h := hdir n
      rw [hfreed, hleft] at h
      exact h
    · refine congrArg leaves' ?_
      rcases hq with h | h
      · rw [h]
        rfl
      · rw [show joinDays (releaseMover q.day s).ce.coldWait (releaseMover q.day s).wa.packQueue = _ from h.waiting_join]
        rfl
    · refine (hpart d).trans ((if_neg hd).trans ?_)
      rw [releaseMover_part, if_neg hd]
    · rfl
    · refine (hpart q.day).trans ((if_pos rfl).trans ?_)
      rw [funext hfreed]
      rfl
    · exact (partAfterActivity_rest _ _ _ t).1
    · cases f.loc <;> rfl
    · rw [funext hfreed] at hrepack
      exact hrepack
    · have hleaves (l : List Nat) : q.day ∉ leaves' l := by
        rw [show leaves' l = l.filter (· != q.day) from if_pos ⟨h1, h2⟩]
        simp
      exact ⟨hleaves _, hleaves _⟩
  · intro idle
    refine ⟨fun rs x hdec hx => ⟨_, exec_decoded he rfl hdec, ?_⟩, fun hdec => ?_⟩
    · rw [show decodeOwner _ (some rs) (engineIdle s) = queryDecoded c (some rs) (engineIdle s) from rfl,
        queryDecoded_amend (s := engineIdle s) hq hw, Option.bind_some, hx]
      exact ⟨hasks _ x { s.wa with engine := none }, rfl, rfl, rfl⟩
    · rw [exec_decodeFailed he rfl hdec]
      refine congrArg (fun x => Host.Outcome.next (settleCompletion x)) ?_
      refine (queryDecoded_amend (s := s.readFailed q.seg) hq hw).trans ?_
      rw [readFailed_eq]
      have hdamaged : (damagedAt q.seg true s).lp = s.lp ∧ (damagedAt q.seg true s).qa = s.qa := by
        rw [damagedAt_shape]
        exact ⟨rfl, rfl⟩
      exact hended (pins (idle (damagedAt q.seg true s))) hdamaged.1 hdamaged.2 _ _

end Sys2Proof.Machine
end

section
/-! QUERY_SUBSCRIBER reads a day and pages its matches (O44). -/

namespace Sys2Proof.Machine

open Wire

variable {s t u : State}

/-! ## Sorting -/

section
variable {α : Type} {le : α → α → Bool}

theorem insertBy_perm (a : α) (l : List α) : (sortBy.insertBy le a l).Perm (a :: l) := by
  induction l with
  | nil => exact .refl _
  | cons b l ih =>
    unfold sortBy.insertBy
    split_ifs
    · exact .refl _
    · exact (ih.cons b).trans (.swap a b l)

theorem sortBy_perm (l : List α) : (sortBy le l).Perm l := by
  induction l with
  | nil => exact .refl _
  | cons a l ih => exact (insertBy_perm a _).trans (ih.cons a)

theorem insertBy_pairwise (htotal : ∀ a b, le a b = false → le b a = true) (htrans : ∀ a b c, le a b = true → le b c = true → le a c = true)
    (a : α) {l : List α} (h : l.Pairwise fun a b => le a b = true) : (sortBy.insertBy le a l).Pairwise fun a b => le a b = true := by
  induction l with
  | nil => exact List.pairwise_singleton _ _
  | cons b l ih =>
    obtain ⟨hb, hl⟩ := List.pairwise_cons.1 h
    unfold sortBy.insertBy
    split_ifs with hab
    · exact List.pairwise_cons.2 ⟨fun c hc => (List.mem_cons.1 hc).elim (fun h => h ▸ hab) fun h => htrans _ _ _ hab (hb c h), h⟩
    · refine List.pairwise_cons.2 ⟨fun c hc => ?_, ih hl⟩
      rcases List.mem_cons.1 ((insertBy_perm a l).mem_iff.1 hc) with rfl | h
      · exact htotal _ _ (by simpa using hab)
      · exact hb c h

theorem sortBy_pairwise (htotal : ∀ a b, le a b = false → le b a = true) (htrans : ∀ a b c, le a b = true → le b c = true → le a c = true)
    (l : List α) : (sortBy le l).Pairwise fun a b => le a b = true := by
  induction l with
  | nil => exact .nil
  | cons a l ih => exact insertBy_pairwise htotal htrans a ih

end

theorem Position.le_iff (a b : Position) : a.le b = true ↔ a.day < b.day ∨ (a.day = b.day ∧ (a.start < b.start ∨ (a.start = b.start ∧ a.ref ≤ b.ref))) := by
  simp [Position.le]

theorem Position.le_total (a b : Position) (h : a.le b = false) : b.le a = true := by
  have h' : ¬ a.le b = true := by simp [h]
  rw [Position.le_iff] at h' ⊢
  omega

theorem Position.le_trans (a b c : Position) (h1 : a.le b = true) (h2 : b.le c = true) : a.le c = true := by
  rw [Position.le_iff] at *
  omega

theorem dayFrom_isSome {first last d : Nat} (h1 : first ≤ d) (h2 : d ≤ last) (hd : (s.part d).isSome = true) :
    (s.dayFrom first last).isSome = true := by
  obtain ⟨p, hp⟩ := Option.isSome_iff_exists.1 hd
  unfold State.dayFrom Tab.first
  rw [Option.isSome_map, List.find?_isSome]
  exact ⟨(d, p), Tab.mem_of_get hp, by simp [h1, h2]⟩

/-! ## A page -/

/-- A page takes the candidates in order, up to the limit and the payload's size (R90). -/
theorem takePage_spec (limit : Nat) (cands list : List (CallRecord × Bool)) (bytes : Nat) : ∃ n ≤ cands.length,
    takePage limit list bytes cands = (list ++ cands.take n, cands.drop n) ∧
    (∀ i, i < n → list.length + i < limit ∧ bytes + listSpace (cands.take (i + 1)) ≤ Config.payloadLimit) ∧
    (n < cands.length → limit ≤ list.length + n ∨ Config.payloadLimit < bytes + listSpace (cands.take (n + 1))) := by
  induction cands generalizing list bytes with
  | nil => exact ⟨0, Nat.le_refl 0, by simp [takePage], fun i hi => absurd hi (Nat.not_lt_zero i), fun h => absurd h (Nat.lt_irrefl 0)⟩
  | cons e rest ih =>
    have hspace (n : Nat) : listSpace ((e :: rest).take (n + 1)) = e.1.space + listSpace (rest.take n) := by
      simp [listSpace]
    by_cases hfull : limit ≤ list.length ∨ Config.payloadLimit < bytes + e.1.space
    · refine ⟨0, Nat.zero_le _, ?_, fun i hi => absurd hi (Nat.not_lt_zero i), fun _ => ?_⟩
      · rw [takePage, if_pos hfull]
        simp
      · simpa [hspace, listSpace] using hfull
    · obtain ⟨n, hn, heq, htaken, hleft⟩ := ih (list ++ [e]) (bytes + e.1.space)
      obtain ⟨hlimit, hbytes⟩ := not_or.1 hfull
      refine ⟨n + 1, Nat.succ_le_succ hn, ?_, fun i hi => ?_, fun h => ?_⟩
      · rw [takePage, if_neg hfull, heq]
        simp
      · rw [hspace]
        cases i with
        | zero => exact ⟨Nat.lt_of_not_le hlimit, by simpa [listSpace] using Nat.le_of_not_lt hbytes⟩
        | succ i =>
          obtain ⟨h1, h2⟩ := htaken i (Nat.lt_of_succ_lt_succ hi)
          rw [List.length_append, List.length_singleton] at h1
          exact ⟨by omega, by omega⟩
      · rw [hspace]
        rcases hleft (Nat.lt_of_succ_lt_succ h) with h | h
        · rw [List.length_append, List.length_singleton] at h
          exact .inl (by omega)
        · exact .inr (by omega)

/-- The space that a record takes in a list (R10). -/
theorem space_eq (r : CallRecord) : r.space = if r.cell.isSome then 40 else 36 := by
  unfold CallRecord.space linkLength paddedSize
  cases r.cell.isSome <;> cases r.partner.isSome <;> rfl

theorem listSpace_append (a b : List (CallRecord × Bool)) : listSpace (a ++ b) = listSpace a + listSpace b := by
  simp [listSpace]

/-! ## A QUERY_SUBSCRIBER in its context -/

section
variable {c : Nat} {q : QueryContext} {p : SubscriberParams} {g : SubscriberProgress}

theorem queryPinned_subscriber (hq : s.queryCtx c = some q) (hw : q.work = .subscriber p g) : queryPinned c s = subscriberPinned c q p g s := by
  unfold queryPinned
  rw [hq]
  dsimp only
  rw [hw]

theorem queryReleased_subscriber (hq : s.queryCtx c = some q) (hw : q.work = .subscriber p g) :
    queryReleased c s = subscriberNext c q p g (q.day + 1) s := by
  unfold queryReleased
  rw [hq]
  dsimp only
  rw [hw]

theorem queryDecoded_subscriber {rs : Option (List CallRecord)} (hq : s.queryCtx c = some q) (hw : q.work = .subscriber p g) :
    queryDecoded c rs s = subscriberDecoded c q p g rs s := by
  unfold queryDecoded
  rw [hq]
  dsimp only
  rw [hw]

theorem subscriberGoOn_cons {n : Nat} {l : List Nat} (h : g.toRead = n :: l) :
    subscriberGoOn c q p g s = askDecode c n (updCtx c (fun q => { q with work := .subscriber p g }) s) := by
  unfold subscriberGoOn
  rw [h]

theorem subscriberGoOn_nil (h : g.toRead = []) : subscriberGoOn c q p g s = subscriberDayEnd c q p g s := by
  unfold subscriberGoOn
  rw [h]

end

/-- The day's map entries with the key and a selected class, in reference order (R82, R89). -/
def State.subscriberHits (s : State) (p : SubscriberParams) (day : Nat) : List MapEntry :=
  (s.ix.map.filter fun e => decide (e.2.day = day) && decide (e.2.key = p.key) && p.classMask.testBit e.2.cls.code).map (·.2)

theorem subscriberEntries_map (s : State) (p : SubscriberParams) (day : Nat) : (s.subscriberEntries p day).map (·.2) = s.subscriberHits p day := by
  unfold State.subscriberEntries State.entriesOf State.subscriberHits Tab.keep
  rw [List.filter_filter]
  refine congrArg (List.map _) (List.filter_congr fun e _ => ?_)
  rw [Bool.and_comm, ← Bool.and_assoc]
  rfl

theorem count_subscriberEntries (s : State) (p : SubscriberParams) (day : Nat) (test : MapEntry → Bool) :
    (Tab.count (s.subscriberEntries p day) fun _ e => test e) = (s.subscriberHits p day).countP test := by
  rw [← subscriberEntries_map, List.countP_map]
  rfl

theorem encloses_eq (key n : Nat) : s.encloses key n = (s.seg n).any fun e => decide (e.firstKey ≤ key) && decide (key ≤ e.lastKey) := by
  unfold State.encloses
  cases s.seg n <;> rfl

/-- What a QUERY_SUBSCRIBER takes at its pin grant (R89). -/
theorem subscriberPinned_eq {c : Nat} {q : QueryContext} {p : SubscriberParams} {g : SubscriberProgress} {day : Partition}
    (hk : Tab.rising s.pc.parts = true) (ht : s.part q.day = some day) :
    let chosen := day.segments.filter fun n => (s.seg n).any fun e => decide (e.firstKey ≤ p.key) && decide (p.key ≤ e.lastKey)
    subscriberPinned c q p g s = subscriberGoOn c q p { g with
        toRead := chosen.filter s.segActive
        candidates := (s.subscriberHits p q.day).filterMap s.hotCandidate
        dayUnreadable := (s.subscriberHits p q.day).countP fun e => (chosen.filter s.segDamaged).any e.inSegment }
      (afterActivity (s.cl.settings.activityMask.testBit 2) false q.day s) := by
  intro chosen
  unfold subscriberPinned
  rw [activity_after .query q.day s hk]
  dsimp only
  have hpart : (afterActivity (s.cl.settings.activityMask.testBit Activity.query.bit) (decide (Activity.query = .ingest)) q.day s).part q.day =
      some (partAfterActivity (s.cl.settings.activityMask.testBit 2) false s.wa.pressure day) := by
    rw [afterActivity_part, if_pos rfl, ht]
    rfl
  rw [hpart]
  dsimp only
  rw [(partAfterActivity_rest _ _ _ day).2.1]
  have hchosen : day.segments.filter (s.encloses p.key) = chosen := List.filter_congr fun n _ => encloses_eq p.key n
  have hcandidates : ((s.subscriberEntries p q.day).filterMap fun e => s.hotCandidate e.2) =
      (s.subscriberHits p q.day).filterMap s.hotCandidate := by
    rw [← subscriberEntries_map, List.filterMap_map]
    rfl
  refine congrArg (fun h => subscriberGoOn c q p h (afterActivity (s.cl.settings.activityMask.testBit 2) false q.day s)) ?_
  rw [← hchosen, ← hcandidates, ← count_subscriberEntries]
  rfl

theorem copyLive_eq (n : Nat) (x : CallRecord) (ord : Nat) (s : State) :
    s.copyLive n x ord = decide ((s.lookup x.ref).map (·.loc) = some (.segment n ord)) := by
  unfold State.copyLive
  cases s.lookup x.ref <;> simp

/-- The live copies of a decode with the key and a selected class (R89). -/
theorem liveCopies_filter (n : Nat) (rs : List CallRecord) (p : SubscriberParams) (s : State) :
    ((s.liveCopies n rs).filter fun r => decide (r.key = p.key) && maskSelects p.classMask r.cls) =
      (rs.zipIdx.filter fun e => decide ((s.lookup e.1.ref).map (·.loc) = some (.segment n e.2)) && decide (e.1.key = p.key) &&
        p.classMask.testBit e.1.cls.code).map (·.1) := by
  unfold State.liveCopies
  rw [List.filter_map, List.filter_filter]
  refine congrArg (List.map _) (List.filter_congr fun e _ => ?_)
  rw [copyLive_eq, Bool.and_comm]
  exact (Bool.and_assoc _ _ _).symm

section
variable {c : Nat} {q : QueryContext} {p : SubscriberParams} {g : SubscriberProgress}

/-- A failed decode: the matching entries of the segment are unreadable (R89, R160). -/
theorem subscriberDecoded_lost (hc : q.cancelling = false) : subscriberDecoded c q p g none s = subscriberGoOn c q p { g with
    toRead := g.toRead.tail
    dayUnreadable := g.dayUnreadable + (s.subscriberHits p q.day).countP fun e => e.inSegment q.seg } s := by
  rw [← count_subscriberEntries]
  exact if_neg (by simp [hc])

/-- A good decode: the live copies with the key and a selected class become candidates (R89). -/
theorem subscriberDecoded_read {rs : List CallRecord} (hc : q.cancelling = false) : subscriberDecoded c q p g (some rs) s =
    subscriberGoOn c q p { g with
      toRead := g.toRead.tail
      candidates := g.candidates ++ ((rs.zipIdx.filter fun e => decide ((s.lookup e.1.ref).map (·.loc) = some (.segment q.seg e.2)) &&
        decide (e.1.key = p.key) && p.classMask.testBit e.1.cls.code).map (·.1)).map fun r => (r, s.held r.key r.day r.cls) } s := by
  rw [← liveCopies_filter]
  exact if_neg (by simp [hc])

end

/-- The OK payload of a QUERY_SUBSCRIBER (R90). -/
theorem subscriberPayload_eq (more : Bool) (g : SubscriberProgress) : subscriberPayload more g =
    flag more ++ (match g.list.getLast? with
      | none => [0]
      | some (r, _) => [1] ++ be 2 (r.start / 86400) ++ be 4 r.start ++ be 8 (r.source * 281474976710656 + r.sequence)) ++
    be 8 (count64 g.unreadable) ++ be 2 g.list.length ++ g.list.flatMap fun e => renderRecord e.1 e.2 := by
  unfold subscriberPayload renderList
  rw [← List.append_assoc]
  refine congrArg (fun l => flag more ++ l ++ be 8 (count64 g.unreadable) ++ be 2 g.list.length ++ _) ?_
  cases g.list.getLast? with
  | none => rfl
  | some e => rfl

theorem subscriberNext_none {c : Nat} {q : QueryContext} {p : SubscriberParams} {g : SubscriberProgress} {first : Nat}
    (h : s.dayFrom first p.lastDay = none) : subscriberNext c q p g first s = subscriberAnswer c q false g s := by
  unfold subscriberNext
  rw [h]

theorem subscriberNext_some {c : Nat} {q : QueryContext} {p : SubscriberParams} {g : SubscriberProgress} {first d : Nat}
    (h : s.dayFrom first p.lastDay = some d) : subscriberNext c q p g first s = joinQueue d (.query c) (updCtx c (fun q =>
      { q with stage := .pinWait, day := d,
               work := .subscriber p { g with toRead := [], candidates := [], dayUnreadable := 0 } }) s) := by
  unfold subscriberNext
  rw [h]

/-- The day's end of a QUERY_SUBSCRIBER, its page taken (R90). -/
theorem subscriberDayEnd_eq {c : Nat} {q : QueryContext} {p : SubscriberParams} {h : SubscriberProgress} {list left : List (CallRecord × Bool)}
    (hpage : takePage p.limit h.list (Config.queryFixedBytes + listSpace h.list) (pageCandidates p h.candidates) = (list, left)) :
    let x := releasePin q.day s
    let repeated := (pageCandidates p h.candidates).isEmpty && p.resume.any fun r => decide (r.day = q.day)
    let g : SubscriberProgress := { h with list := list, unreadable := if repeated then h.unreadable else h.unreadable + h.dayUnreadable }
    subscriberDayEnd c q p h s = if left ≠ [] then subscriberAnswer c q true { h with list := list } x
      else if p.limit ≤ list.length then subscriberAnswer c q (x.dayFrom (q.day + 1) p.lastDay).isSome g x
      else subscriberNext c q p g (q.day + 1) x := by
  intro x repeated g
  have hrepeated : (match p.resume with
      | some r => decide (r.day = q.day) && (pageCandidates p h.candidates).isEmpty
      | none => false) = repeated := by
    cases hr : p.resume with
    | none => simp [repeated, hr]
    | some r => simp [repeated, hr, Bool.and_comm]
  unfold subscriberDayEnd
  dsimp only
  rw [hpage]
  exact congrArg (fun b : Bool =>
    let g : SubscriberProgress := { h with list := list, unreadable := if b then h.unreadable else h.unreadable + h.dayUnreadable }
    if left ≠ [] then subscriberAnswer c q true { h with list := list } x
    else if p.limit ≤ list.length then subscriberAnswer c q (x.dayFrom (q.day + 1) p.lastDay).isSome g x
    else subscriberNext c q p g (q.day + 1) x) hrepeated

/-- Settles O44. -/
theorem subscriberReads : Obligations.SubscriberReads := by
  intro c q p g t s hq hw hep ht hk wanted hits lies read chosen atGrant asks answer rested later goesOn
  obtain ⟨-, hparts, -⟩ := hk
  have hanswer (more : Bool) (h : SubscriberProgress) (parts : Tab Partition) :
      subscriberAnswer c q more h { s with pc := { s.pc with parts := parts } } =
        answer more h.list h.unreadable { s with pc := { s.pc with parts := parts } } := by
    rw [subscriberAnswer, finishContext_ended (s := countUp .queriesServed 1 { s with pc := { s.pc with parts := parts } }) hep,
      subscriberPayload_eq]
    rfl
  have hgoes (h : SubscriberProgress) (parts : Tab Partition) (hr : Tab.rising parts = true) (hsame : ∀ d, d ≠ q.day → Tab.get parts d = s.part d) :
      goesOn h.list h.unreadable { s with pc := { s.pc with parts := parts } }
        (subscriberNext c q p h (q.day + 1) { s with pc := { s.pc with parts := parts } }) := by
    have hlater (d : Nat) (hd : q.day < d) : Tab.get parts d = s.part d := hsame d (Nat.ne_of_gt hd)
    refine ⟨fun hnone => ?_, fun d y hd hleast hy => ?_⟩
    · rw [subscriberNext_none (dayFrom_eq_none (s := { s with pc := { s.pc with parts := parts } })
        (fun i hi h1 h2 => hnone i ⟨h1, h2, (hlater i h1) ▸ hi⟩) hr)]
      exact hanswer false h parts
    · obtain ⟨hd1, hd2, hd3⟩ := hd
      rw [subscriberNext_some (dayFrom_eq_some (s := { s with pc := { s.pc with parts := parts } }) hr hd1 hd2
        (show (Tab.get parts d).isSome = true by rw [hlater d hd1]; exact hd3)
        fun i hi h1 h2 => hleast i ⟨h1, h2, (hlater i h1) ▸ hi⟩)]
      refine ⟨?_, ⟨y.withQueue (y.waitQueue ++ [.query c]), ?_, rfl, rfl⟩, fun i hi => ?_, fun i hi => ?_,
        rfl, rfl, rfl, rfl, rfl, rfl, rfl, rfl, rfl, rfl, rfl⟩
      · exact (updCtx_queryCtx c _ s c).trans ((if_pos rfl).trans (congrArg (Option.map _) hq))
      · refine (joinQueue_part d _ _ d).trans ((if_pos rfl).trans ?_)
        exact congrArg (Option.map _) ((hlater d hd1).trans hy)
      · exact (joinQueue_part d _ _ i).trans (if_neg hi)
      · exact (updCtx_queryCtx c _ s i).trans (if_neg hi)
  have hasks (n : Nat) (h : SubscriberProgress) (pc : PartitionTable) (w : WorkArbiter) (ce : CompactionEngine) (au : AuditUnit) (cs : ColdStore) :
      asks n h { s with pc := pc, wa := { w with requests := s.wa.requests }, ce := ce, au := au, cs := cs }
        (askDecode c n (updCtx c (fun q => { q with work := .subscriber p h })
          { s with pc := pc, wa := { w with requests := s.wa.requests }, ce := ce, au := au, cs := cs })) := by
    have hctx (i : Nat) (x : State) (hx : x.qa.contexts = s.qa.contexts) : (askDecode c n (updCtx c (fun q => { q with work := .subscriber p h }) x)).queryCtx i =
        if i = c then (s.queryCtx i).map fun q => { q with stage := .grantWait, seg := n, work := .subscriber p h } else s.queryCtx i := by
      have hi : x.queryCtx i = s.queryCtx i := congrArg (Tab.get · i) hx
      refine (updCtx_queryCtx c _ _ i).trans ?_
      rw [updCtx_queryCtx, hi]
      split_ifs
      · rw [Option.map_map]
        rfl
      · rfl
    refine ⟨?_, fun i hi => ?_, rfl, rfl, rfl, rfl, rfl, rfl, rfl, rfl, rfl, rfl, rfl, rfl⟩
    · exact (hctx c _ rfl).trans ((if_pos rfl).trans (congrArg (Option.map _) hq))
    · exact (hctx i _ rfl).trans (if_neg hi)
  let active := afterActivity (s.cl.settings.activityMask.testBit 2) false q.day s
  have hpinned : queryPinned c s = subscriberGoOn c q p atGrant (afterActivity (s.cl.settings.activityMask.testBit 2) false q.day s) :=
    (queryPinned_subscriber hq hw).trans (subscriberPinned_eq hparts ht)
  refine ⟨⟨fun n l hl => ?_, fun hl => ?_⟩, fun k r he hcancel => ?_, ?_, fun h => ?_⟩
  · rw [hpinned, subscriberGoOn_cons hl]
    exact hasks n atGrant active.pc active.wa active.ce s.au s.cs
  · rw [hpinned]
    exact subscriberGoOn_nil hl
  · have hreads (h : SubscriberProgress) (au : AuditUnit) (cs : ColdStore) :
        let idle : State := { s with wa := { s.wa with engine := none }, au := au, cs := cs }
        exec (.decodeCompletion r) s = .next (settleCompletion (subscriberGoOn c q p h idle)) →
        ∃ u, exec (.decodeCompletion r) s = .next (settleCompletion u) ∧
          (∀ n l, h.toRead = n :: l → asks n h idle u) ∧ (h.toRead = [] → u = subscriberDayEnd c q p h idle) := by
      intro idle hexec
      refine ⟨_, hexec, fun n l hl => ?_, fun hl => subscriberGoOn_nil hl⟩
      rw [subscriberGoOn_cons hl]
      exact hasks n h s.pc { s.wa with engine := none } s.ce au cs
    generalize hd : s.decoded q.seg r = decoded
    cases decoded with
    | none =>
      have hexec := exec_decodeFailed he rfl hd
      rw [show decodeOwner _ none (s.readFailed q.seg) = queryDecoded c none (s.readFailed q.seg) from rfl,
        queryDecoded_subscriber (s := s.readFailed q.seg) hq hw, subscriberDecoded_lost hcancel] at hexec
      intro rs idle found after
      have hidle : idle = s.readFailed q.seg := (readFailed_eq q.seg s).symm
      have hafter : after = { g with
          toRead := g.toRead.tail
          dayUnreadable := g.dayUnreadable + ((s.readFailed q.seg).subscriberHits p q.day).countP fun e => e.inSegment q.seg } :=
        congrArg (fun l => ({ g with toRead := _, candidates := l, dayUnreadable := _ } : SubscriberProgress)) (List.append_nil _)
      rw [hidle, hafter]
      exact hreads _ _ _ hexec
    | some l =>
      have hexec := exec_decoded he rfl hd
      rw [show decodeOwner _ (some l) (engineIdle s) = queryDecoded c (some l) (engineIdle s) from rfl,
        queryDecoded_subscriber (s := engineIdle s) hq hw, subscriberDecoded_read hcancel] at hexec
      intro rs idle found after
      have hidle : idle = engineIdle s := by
        show ({ damagedAt q.seg false s with wa := { s.wa with engine := none } } : State) = _
        rw [damagedAt, if_neg (fun h => Bool.false_ne_true h.1)]
        rfl
      rw [hidle]
      exact hreads after s.au s.cs hexec
  · rw [queryReleased_subscriber hq hw]
    exact hgoes g s.pc.parts hparts fun _ _ => rfl
  · intro le place bytes x u
    obtain ⟨n, hn, hpage, htaken, hleft⟩ := takePage_spec p.limit (pageCandidates p h.candidates) h.list (Config.queryFixedBytes + listSpace h.list)
    refine ⟨sortBy (fun a b => a.1.position.le b.1.position) h.candidates, n, sortBy_perm _,
      sortBy_pairwise (le := fun a b : CallRecord × Bool => a.1.position.le b.1.position)
        (fun a b => Position.le_total a.1.position b.1.position) (fun a b c => Position.le_trans a.1.position b.1.position c.1.position) _, ?_⟩
    intro fresh list lost
    have hfresh : fresh = pageCandidates p h.candidates := rfl
    have hbytes (l : List (CallRecord × Bool)) : bytes l = Config.queryFixedBytes + listSpace l := by
      simp only [bytes, listSpace, space_eq]
      rfl
    have hrising : Tab.rising (Tab.upd s.pc.parts q.day fun y : Partition => { y with pins := y.pins - 1 }) = true := Tab.rising_upd _ _ hparts
    have hsame (d : Nat) (hd : d ≠ q.day) : Tab.get (Tab.upd s.pc.parts q.day fun y : Partition => { y with pins := y.pins - 1 }) d = s.part d :=
      (releasePin_part q.day s d).trans (if_neg hd)
    have hu := subscriberDayEnd_eq (s := s) (c := c) (q := q) hpage
    have hdrop : (pageCandidates p h.candidates).drop n ≠ [] ↔ n < fresh.length := by
      rw [hfresh, ne_eq, List.drop_eq_nil_iff, Nat.not_le]
    have hlength : list.length = h.list.length + n := by
      rw [show list = h.list ++ fresh.take n from rfl, List.length_append, List.length_take, Nat.min_eq_left (hfresh ▸ hn)]
    have htaken' (i : Nat) (hi : i < n) : h.list.length + i < p.limit ∧ bytes (h.list ++ fresh.take (i + 1)) ≤ 8192 := by
      rw [hbytes, listSpace_append, ← Nat.add_assoc]
      exact htaken i hi
    have hlost : (if ((pageCandidates p h.candidates).isEmpty && p.resume.any fun r => decide (r.day = q.day)) = true then h.unreadable
        else h.unreadable + h.dayUnreadable) = lost := by
      refine if_congr ?_ rfl rfl
      rw [hfresh, Bool.and_eq_true, List.isEmpty_iff]
    have hend (hall : n = fresh.length) := hu.trans (if_neg (fun hleft => absurd (hdrop.1 hleft) (by omega)))
    rw [hlost] at hend
    have hlater (d : Nat) (hd : later d) : (x.part d).isSome = true := by
      rw [show x.part d = s.part d from hsame d (Nat.ne_of_gt hd.1)]
      exact hd.2.2
    refine ⟨hfresh ▸ hn, htaken', fun hlt => ⟨?_, ?_⟩, fun hall hlimit => ⟨fun hmore => ?_, fun hnone => ?_⟩, fun hall hlimit => ?_⟩
    · rw [hbytes, listSpace_append, ← Nat.add_assoc, hlength]
      exact hleft hlt
    · exact hu.trans ((if_pos (hdrop.2 hlt)).trans (hanswer true { h with list := list } _))
    · obtain ⟨d, hd⟩ := hmore
      have hmore : (x.dayFrom (q.day + 1) p.lastDay).isSome = true := dayFrom_isSome hd.1 hd.2.1 (hlater d hd)
      refine (hend hall).trans ((if_pos hlimit).trans ?_)
      rw [show (releasePin q.day s).dayFrom (q.day + 1) p.lastDay = x.dayFrom (q.day + 1) p.lastDay from rfl, hmore]
      exact hanswer true _ _
    · have hmore : x.dayFrom (q.day + 1) p.lastDay = none :=
        dayFrom_eq_none (s := x) (fun i hi h1 h2 => hnone i ⟨h1, h2, (hsame i (Nat.ne_of_gt h1)) ▸ hi⟩) hrising
      refine (hend hall).trans ((if_pos hlimit).trans ?_)
      rw [show (releasePin q.day s).dayFrom (q.day + 1) p.lastDay = x.dayFrom (q.day + 1) p.lastDay from rfl, hmore]
      exact hanswer false _ _
    · have hnext := hgoes { h with list := list, unreadable := lost } _ hrising hsame
      rw [show u = subscriberNext c q p { h with list := list, unreadable := lost } (q.day + 1) x from
        (hend hall).trans (if_neg (Nat.not_le.2 hlimit))]
      exact hnext

end Sys2Proof.Machine
end

section
/-! A decision event of a sweep quantum, and how a sweep starts and is withdrawn (O54). -/

namespace Sys2Proof.Machine

open Wire

variable {s t u : State} {w : Sweep} {qe : SweepEntry} {ref : Nat} {m : MapEntry} {p : Partition}

/-! ## The decision on an entry -/

theorem exec_sweepDecision {g : Grant} (he : s.wa.engine = some g) (hq : g.quantum = .sweep) :
    exec .sweepDecision s = .next (settleCompletion (sweepDecision s)) := by
  refine congrArg (fun x => Host.Outcome.next (settleCompletion x)) ?_
  rw [sweepEvent, ← hq, runningQuantum_eq he]

theorem sweepDecision_entry (hw : s.ru.sweep = some w) (hq : Tab.get s.ru.queue w.day = some qe)
    (hn : s.nextEntry w.day qe.walk = some (ref, m)) :
    sweepDecision s = afterDecision w.day (walkOn w.day ref (decideEntry ref m s)) := by
  have hwalk : s.walkOf w.day = qe.walk := by rw [State.walkOf, hq]
  unfold sweepDecision
  rw [hw]
  dsimp only
  rw [hwalk, hn]

/-- The next entry of a walk is one of the day's map entries. -/
theorem nextEntry_mem {day : Nat} {walk : Option Nat} (hn : s.nextEntry day walk = some (ref, m)) : (ref, m) ∈ s.ix.map ∧ m.day = day := by
  refine ⟨List.mem_of_find?_eq_some hn, ?_⟩
  have h := List.find?_some hn
  simp only [Bool.and_eq_true, decide_eq_true_eq] at h
  exact h.1

/-- The class of an entry is due and its retention outlived (R128, R139). -/
def State.entryDue (s : State) (p : Partition) (m : MapEntry) : Bool :=
  p.expiryDue.get m.cls && (decide ((s.ru.table.get m.cls).active ≠ 0) &&
    decide (m.day + (s.ru.table.get m.cls).active < s.ck.archiveTime / 86400))

theorem decideEntry_cases (hp : s.part m.day = some p) : decideEntry ref m s =
    if s.entryDue p m = false then s
    else if s.held m.key m.day m.cls then
      countUp .heldSkips 1 (updPart m.day (fun p => { p with heldRemainder := p.heldRemainder.set m.cls true }) s)
    else retireRecord ref m s := by
  have hdue : s.classDue m = p.expiryDue.get m.cls := by rw [State.classDue, hp]
  have hentry : s.entryDue p m = (p.expiryDue.get m.cls && s.expired m.day m.cls) := rfl
  unfold decideEntry
  rw [hdue, hentry]
  cases p.expiryDue.get m.cls with
  | false => rfl
  | true => cases s.expired m.day m.cls <;> rfl

/-! ## After the decision -/

theorem walkOn_eq (day : Nat) (hw : s.ru.sweep = some w) : walkOn day ref s = { s with ru := { s.ru with
    queue := Tab.upd s.ru.queue day fun e => { e with walk := some ref }
    sweep := some { w with decided := w.decided + 1 } } } := by
  rw [walkOn, State.mapRu, hw]
  rfl

/-- The walk has another entry of the day behind this one. -/
theorem nextEntry_isSome {day : Nat} (h : ∃ e ∈ s.ix.map, e.2.day = day ∧ ref < e.1) : (s.nextEntry day (some ref)).isSome = true := by
  obtain ⟨e, he, hd, hlt⟩ := h
  unfold State.nextEntry Tab.first
  rw [List.find?_isSome]
  exact ⟨e, he, by simp [hd, hlt]⟩

theorem nextEntry_none {day : Nat} (h : ∀ e ∈ s.ix.map, e.2.day = day → e.1 ≤ ref) : s.nextEntry day (some ref) = none := by
  unfold State.nextEntry Tab.first
  rw [List.find?_eq_none]
  intro e he ht
  simp only [Bool.and_eq_true, decide_eq_true_eq] at ht
  exact absurd ht.2 (Nat.not_lt.2 (h e he ht.1))

theorem walkOn_walkOf (day : Nat) (hq : (Tab.get s.ru.queue day).isSome = true) : (walkOn day ref s).walkOf day = some ref := by
  obtain ⟨e, he⟩ := Option.isSome_iff_exists.1 hq
  unfold State.walkOf walkOn
  rw [show Tab.get (s.mapRu _).ru.queue day = Tab.get (Tab.upd s.ru.queue day fun e => { e with walk := some ref }) day from rfl,
    Tab.get_upd, if_pos rfl, he]
  rfl

/-- A decision with another entry behind it: the quantum goes on, or ends at its 4,096th entry (R138). -/
theorem afterDecision_goesOn {day : Nat} (hw : s.ru.sweep = some w) (hq : (Tab.get s.ru.queue day).isSome = true)
    (h : ∃ e ∈ s.ix.map, e.2.day = day ∧ ref < e.1) : afterDecision day (walkOn day ref s) =
      if w.decided < 4095 then walkOn day ref s else sweepQuantumEnds day (walkOn day ref s) := by
  obtain ⟨e, he⟩ := Option.isSome_iff_exists.1 (nextEntry_isSome h)
  have hnext : (walkOn day ref s).nextEntry day ((walkOn day ref s).walkOf day) = some e := by
    rw [walkOn_walkOf day hq]
    exact he
  have hsweep : (walkOn day ref s).ru.sweep = some { w with decided := w.decided + 1 } := by rw [walkOn_eq day hw]
  unfold afterDecision
  rw [hnext]
  dsimp only
  rw [hsweep]
  show (if Config.sweepEntries ≤ w.decided + 1 then _ else _) = _
  by_cases hd : w.decided < 4095
  · rw [if_pos hd, if_neg (show ¬ Config.sweepEntries ≤ w.decided + 1 by unfold Config.sweepEntries; omega)]
  · rw [if_neg hd, if_pos (show Config.sweepEntries ≤ w.decided + 1 by unfold Config.sweepEntries; omega)]

/-- The state after a decision with another entry behind it: the walk on, or the quantum ended (R138, R139). -/
def State.walkGoesOn (w : Sweep) (ref : Nat) (x : State) : State :=
  let walked : RetentionUnit := { x.ru with
    queue := Tab.upd x.ru.queue w.day fun e => { e with walk := some ref }
    sweep := some { w with decided := w.decided + 1 } }
  if w.decided < 4095 then { x with ru := walked }
  else { x with
    ru := { walked with sweep := none }
    pc := { x.pc with parts := Tab.upd x.pc.parts w.day fun y => { y with moverHolding := false } }
    wa := { x.wa with engine := none } }

theorem walkGoesOn_eq (hw : s.ru.sweep = some w) : s.walkGoesOn w ref =
    if w.decided < 4095 then walkOn w.day ref s else sweepQuantumEnds w.day (walkOn w.day ref s) := by
  rw [walkOn_eq w.day hw]
  rfl

theorem sweepDecision_goesOn {g : Grant} (he : s.wa.engine = some g) (hg : g.quantum = .sweep) (hw : s.ru.sweep = some w)
    (hq : Tab.get s.ru.queue w.day = some qe) (hn : s.nextEntry w.day qe.walk = some (ref, m)) {d : State} (hd : decideEntry ref m s = d)
    (hru : d.ru = s.ru) (hb : ∃ e ∈ d.ix.map, e.2.day = w.day ∧ ref < e.1) :
    exec .sweepDecision s = .next (settleCompletion (d.walkGoesOn w ref)) := by
  have hdw : d.ru.sweep = some w := by rw [hru, hw]
  have hdq : (Tab.get d.ru.queue w.day).isSome = true := by
    rw [hru, hq]
    rfl
  rw [exec_sweepDecision he hg, sweepDecision_entry hw hq hn, hd, afterDecision_goesOn hdw hdq hb, walkGoesOn_eq hdw]

/-- Another reference's entry stays in the map when one is removed. -/
theorem behind_del {day : Nat} (hb : ∃ e ∈ s.ix.map, e.2.day = day ∧ ref < e.1) : ∃ e ∈ Tab.del s.ix.map ref, e.2.day = day ∧ ref < e.1 := by
  obtain ⟨e, he, hd, hlt⟩ := hb
  exact ⟨e, List.mem_filter.2 ⟨he, by simpa using (Nat.ne_of_gt hlt)⟩, hd, hlt⟩

/-! ## RU starts a sweep, and the engine's grant withdraws it -/

theorem sweepEligible_iff {d : Nat} : s.sweepEligible d = true ↔ ∃ p, s.part d = some p ∧ p.state ≠ .packing ∧ p.state ≠ .repacking := by
  unfold State.sweepEligible
  cases s.part d with
  | none => simp
  | some p => simp

theorem startSweep_lowest (hk : Tab.rising s.ru.queue = true) {d : Nat} (hw : s.ru.sweep = none) (hd : (Tab.get s.ru.queue d).isSome = true)
    (he : s.sweepEligible d = true) (hleast : ∀ i, i < d → ¬ ((Tab.get s.ru.queue i).isSome = true ∧ s.sweepEligible i = true)) :
    startSweep s = some (joinQueue d .sweep (setSweep (some { day := d, stage := .waiting, decided := 0 }) s)) := by
  obtain ⟨v, hv⟩ := Option.isSome_iff_exists.1 hd
  have hf : Tab.first s.ru.queue (fun d _ => s.sweepEligible d) = some (d, v) :=
    first_eq_some hk hv he fun i x hi hx => Nat.not_lt.1 fun hlt => hleast i hlt ⟨by rw [hi]; rfl, hx⟩
  unfold startSweep
  rw [hw, hf]

theorem queuedEligible_none (hk : Tab.rising s.ru.queue = true) : Tab.first s.ru.queue (fun d _ => s.sweepEligible d) = none ↔
    ∀ d, ¬ ((Tab.get s.ru.queue d).isSome = true ∧ s.sweepEligible d = true) := by
  unfold Tab.first
  rw [List.find?_eq_none]
  constructor
  · intro h d hd
    obtain ⟨v, hv⟩ := Option.isSome_iff_exists.1 hd.1
    exact h (d, v) (Tab.mem_of_get hv) hd.2
  · intro h e he ht
    exact h e.1 ⟨by rw [Tab.get_of_mem hk he]; rfl, ht⟩

/-- What the withdrawal of a sweep leaves of a partition (R137). -/
def Partition.withoutSweep (stage : SweepStage) (p : Partition) : Partition :=
  match stage with
  | .waiting => p.withQueue (p.waitQueue.filter (· != .sweep))
  | _ => { p with moverHolding := false }

theorem withdrawSweep_reads (hw : s.ru.sweep = some w) (hp : s.part w.day = some p) :
    let u := withdrawSweep w.day s
    u.ru = { s.ru with sweep := none } ∧ u.part w.day = some (p.withoutSweep w.stage) ∧
    u.wa.requests.get .sweep = (if w.stage = .waiting then s.wa.requests.get .sweep else (s.wa.requests.get .sweep).filter (· != .sweep)) := by
  intro u
  have hu : u = match w.stage with
      | .waiting => leaveQueue w.day .sweep (setSweep none s)
      | _ => releaseMover w.day (withdrawRequest .sweep .sweep (setSweep none s)) := by
    show withdrawSweep w.day s = _
    rw [withdrawSweep, hw]
    exact if_pos rfl
  have hpart : (setSweep none s).part w.day = some p := hp
  have hpart' : (withdrawRequest .sweep .sweep (setSweep none s)).part w.day = some p := hp
  rw [hu]
  cases hst : w.stage with
  | waiting => exact ⟨rfl, by rw [leaveQueue_part, if_pos rfl, hpart]; rfl, rfl⟩
  | admitted => exact ⟨rfl, by rw [releaseMover_part, if_pos rfl, hpart']; rfl, rfl⟩
  | running => exact ⟨rfl, by rw [releaseMover_part, if_pos rfl, hpart']; rfl, rfl⟩

/-- A grant that begins the job of a day: the day's partition in a job state, RU and the SWEEP requests as before. -/
def BeginsJob (day : Nat) (p : Partition) (state : PartState) (s t : State) : Prop :=
  t.ru = s.ru ∧ t.part day = some { p with state := state } ∧ t.wa.requests.get .sweep = s.wa.requests.get .sweep

theorem packSnapshot_begins {day : Nat} (hp : s.part day = some p) :
    BeginsJob day p .packing s (engineBusy .pack .job .sort 0 (packSnapshot day s)) := by
  refine ⟨rfl, ?_, rfl⟩
  show (updPart day (fun p : Partition => { p with state := .packing }) (leavePack day s)).part day = _
  rw [updPart_part, if_pos rfl, show (leavePack day s).part day = some p from hp]
  rfl

theorem jobAsks_begins {day : Nat} {state : PartState} (j : Job) (hj : j.repack = true) (h : BeginsJob day p state s t) :
    BeginsJob day p state s (jobAsks j t) := by
  obtain ⟨hru, hpart, hreq⟩ := h
  refine ⟨hru, hpart, ?_⟩
  unfold jobAsks Job.kind
  rw [if_pos hj]
  exact hreq

theorem emptyRepack_begins {day : Nat} {state : PartState} (h : BeginsJob day p state s t) : BeginsJob day p .packed s (emptyRepack day t) := by
  obtain ⟨hru, hpart, hreq⟩ := h
  refine ⟨hru, ?_, hreq⟩
  show (updPart day (fun p : Partition => { p with state := .packed }) t).part day = _
  rw [updPart_part, if_pos rfl, hpart]
  rfl

/-- The first REPACK quantum leaves its day REPACKING, or PACKED again where no member is left (R122). -/
theorem repackSnapshot_begins {day : Nat} (hp : s.part day = some p) :
    ∃ state : PartState, (state = .repacking ∨ state = .packed) ∧ BeginsJob day p state s (repackSnapshot day s) := by
  have hbegun : BeginsJob day p .repacking s (repackBegun day s) := by
    refine ⟨rfl, ?_, rfl⟩
    unfold repackBegun
    rw [updPart_part, if_pos rfl]
    show (s.part day).map _ = _
    rw [hp]
    rfl
  rcases repackSnapshot_cases day s with h | ⟨members, toDecode, h⟩
  · rw [h]
    exact ⟨_, .inr rfl, emptyRepack_begins hbegun⟩
  · rw [h]
    unfold decodingGoesOn
    split
    · unfold decodingDone
      dsimp only
      split
      · exact ⟨_, .inr rfl, emptyRepack_begins hbegun⟩
      · exact ⟨_, .inl rfl, jobAsks_begins _ rfl hbegun⟩
    · exact ⟨_, .inl rfl, jobAsks_begins _ rfl hbegun⟩

/-- The state in which the engine's decision is carried out: the pointer on the kind, its request taken (R165). -/
def State.grantTaken (lvl : Nat) (k : JobKind) (s : State) : State :=
  s.mapWa fun w => { w with pointers := w.pointers.set lvl (some k), requests := w.requests.set k (w.requests.get k).tail }

/-- The grant of a first PACK or REPACK quantum withdraws the sweep of its day, then begins the job (R137). -/
theorem grantEngine_firstQuantum {lvl day : Nat} {k : JobKind} (he : s.wa.engine = none) (hd : s.decision = some (lvl, k))
    (hr : s.wa.requests.get k = []) (hp : (withdrawSweep day (s.grantTaken lvl k)).part day = some p)
    (hk : (k = .pack ∧ s.wa.packQueue.head? = some day) ∨ (k = .repack ∧ s.wa.repackQueue.head? = some day)) :
    ∃ t state, grantEngine s = some t ∧ (k = .pack → state = .packing) ∧ (k = .repack → state = .repacking ∨ state = .packed) ∧
      BeginsJob day p state (withdrawSweep day (s.grantTaken lvl k)) t := by
  have hg : grantEngine s = some (grantKind k none (s.grantTaken lvl k)) := by
    unfold grantEngine
    rw [he, hd]
    dsimp only
    rw [hr]
    rfl
  rcases hk with ⟨rfl, hq⟩ | ⟨rfl, hq⟩
  · obtain ⟨rest, hrest⟩ := List.head?_eq_some_iff.1 hq
    refine ⟨_, .packing, hg, fun _ => rfl, fun h => absurd h (by decide), ?_⟩
    have hfirst : grantKind .pack none (s.grantTaken lvl .pack) =
        engineBusy .pack .job .sort 0 (packSnapshot day (withdrawSweep day (s.grantTaken lvl .pack))) := by
      show grantFirstPack _ = _
      unfold grantFirstPack
      rw [show (s.grantTaken lvl .pack).wa.packQueue = day :: rest from hrest]
    rw [hfirst]
    exact packSnapshot_begins hp
  · obtain ⟨rest, hrest⟩ := List.head?_eq_some_iff.1 hq
    obtain ⟨state, hstate, hbegins⟩ := repackSnapshot_begins hp
    refine ⟨_, state, hg, fun h => absurd h (by decide), fun _ => hstate, ?_⟩
    have hfirst : grantKind .repack none (s.grantTaken lvl .repack) = repackSnapshot day (withdrawSweep day (s.grantTaken lvl .repack)) := by
      show grantFirstRepack _ = _
      unfold grantFirstRepack
      rw [show (s.grantTaken lvl .repack).wa.repackQueue = day :: rest from hrest]
    rw [hfirst]
    exact hbegins

theorem grantTaken_sweepRequests {lvl : Nat} {k : JobKind} (hk : k = .pack ∨ k = .repack) :
    (s.grantTaken lvl k).wa.requests.get .sweep = s.wa.requests.get .sweep := by
  rcases hk with rfl | rfl <;> rfl

/-! ## The statement -/

theorem entryDue_false : s.entryDue p m = false ↔ p.expiryDue.get m.cls = false ∨
    (decide ((s.ru.table.get m.cls).active ≠ 0) && decide (m.day + (s.ru.table.get m.cls).active < s.ck.archiveTime / 86400)) = false := by
  rw [State.entryDue, Bool.and_eq_false_iff]

/-- Settles O54: each decision's effect on the entry, then the walk on or the quantum's end; how a sweep starts and is withdrawn. -/
theorem sweepDecisionDecides : Obligations.SweepDecisionDecides := by
  unfold Obligations.SweepDecisionDecides
  refine ⟨fun g w qe ref m p s he hg hw hq hn hb hp hk => ?_, fun s he hs => ?_, fun s hk => ?_⟩
  · intro retention expired held walked goesOn
    obtain ⟨hmem, hday⟩ := nextEntry_mem hn
    have hpm : s.part m.day = some p := by rw [hday]; exact hp
    have hcases := decideEntry_cases (ref := ref) hpm
    have hexp : s.entryDue p m = (p.expiryDue.get m.cls && expired) := by rw [State.entryDue, hday]
    have hheld : s.held m.key m.day m.cls = held := by rw [hday]; rfl
    rw [hexp, hheld] at hcases
    refine ⟨fun hnot => ?_, fun hdue hex hh => ?_, fun hdue hex hh => ?_⟩
    · rw [if_pos (Bool.and_eq_false_iff.2 hnot)] at hcases
      exact sweepDecision_goesOn he hg hw hq hn hcases rfl hb
    · rw [if_neg (by rw [hdue, hex]; decide), if_pos hh, hday] at hcases
      exact sweepDecision_goesOn he hg hw hq hn hcases rfl hb
    · rw [if_neg (by rw [hdue, hex]; decide), if_neg (by rw [hh]; decide)] at hcases
      intro fewer
      have hr := retireRecord_retiredAt ref m s
      generalize retireRecord ref m s = u at hcases hr
      rw [hday] at hr
      obtain ⟨hix, hhot, hseg, hwa, hau, hru, hlp, hck, hie, hqa, hcl, hpow⟩ := hr
      have hmap (x : Nat) : u.lookup x = Tab.get (Tab.del s.ix.map ref) x := by rw [State.lookup, hix]
      refine ⟨u, sweepDecision_goesOn he hg hw hq hn hcases hru (by rw [hix]; exact behind_del hb), hru, hix,
        (hmap ref).trans (Tab.get_del_self _ _), fun x hx => (hmap x).trans (Tab.get_del_ne _ hx), fun n hloc => ?_, fun n o e hloc hs => ?_,
        hwa, hau, hlp, hck, hie, hqa, hcl, hpow⟩
      · obtain ⟨hslots, hparts, hcs, hce, hwa'⟩ := hhot n hloc
        refine ⟨hslots, fun d => ?_, hcs, hce, hwa'⟩
        rw [hparts d]
        refine congrArg (fun f => (s.part d).map f) (funext fun x => ?_)
        by_cases hd : d = w.day
        · simp [fewer, hd]
        · simp [fewer, hd]
      · exact hseg n o e hloc hs
  · have hidle : exec .sweepDecision s = .next (settleCompletion (sweepEvent s)) := rfl
    rw [hidle, show sweepEvent s = s by unfold sweepEvent State.runningQuantum; rw [he], settleCompletion_of_settled hs]
  · intro eligible
    obtain ⟨-, -, -, -, -, -, -, -, -, hrise, -⟩ := hk
    have hel (d : Nat) : eligible d ↔ (Tab.get s.ru.queue d).isSome = true ∧ s.sweepEligible d = true := and_congr_right fun _ => sweepEligible_iff.symm
    have hnone : (∀ d, ¬ eligible d) ↔ Tab.first s.ru.queue (fun d _ => s.sweepEligible d) = none := by
      rw [queuedEligible_none hrise]
      exact forall_congr' fun d => not_congr (hel d)
    refine ⟨startSweep_none.trans (or_congr Iff.rfl hnone.symm), fun hset hw => ?_, fun d hw hd hleast => ?_, fun w hw => ⟨?_, ?_⟩⟩
    · obtain ⟨-, -, -, hstart, -⟩ := settled_iff.1 hset
      exact hnone.2 ((startSweep_none.1 hstart).resolve_left fun h => h hw)
    · obtain ⟨hqueued, hfit⟩ := (hel d).1 hd
      rw [startSweep_lowest hrise hw hqueued hfit fun i hi h => hleast i hi ((hel i).2 h)]
      simp only [joinQueue, Partition.withQueue, List.any_append, List.any_cons, Waiter.isMover, Bool.true_or, Bool.or_true]
      rfl
    · rw [sweepAdmitted, hw]
      rfl
    · intro lvl k p he hd hr _ hp hfirst
      have hkind : k = .pack ∨ k = .repack := hfirst.imp And.left And.left
      obtain ⟨hru, hpart, hreq⟩ := withdrawSweep_reads (s := s.grantTaken lvl k) hw hp
      obtain ⟨t, state, ht, hpack, hrepack, htru, htpart, htreq⟩ := grantEngine_firstQuantum he hd hr hpart hfirst
      rw [hreq, grantTaken_sweepRequests hkind] at htreq
      refine ⟨t, state, ht, htru.trans hru, hpack, hrepack, fun hst => ⟨?_, ?_⟩, fun hst => ⟨?_, ?_⟩⟩
      · rw [htpart, hst, Partition.withoutSweep, Partition.withQueue, List.any_filter]
        simp only [Bool.and_comm]
      · rw [htreq, if_pos hst]
      · rw [htpart, hst]
        rfl
      · rw [htreq, if_neg (by rw [hst]; decide)]

end Sys2Proof.Machine
end

section
/-! The end of a sweep walk: the day kept, tested for repack, or freed (O55). -/

namespace Sys2Proof.Machine

open Wire

variable {s t u d : State} {w : Sweep} {qe : SweepEntry} {ref : Nat} {m : MapEntry} {p y : Partition}

/-- A table whose keys are tested keeps the entries of the keys that pass. -/
theorem Tab.get_keep_key {α : Type} (tab : Tab α) (test : Nat → Bool) (k : Nat) :
    Tab.get (Tab.keep tab fun k _ => test k) k = if test k then Tab.get tab k else none := by
  induction tab with
  | nil => simp [Tab.keep, Tab.get]
  | cons e tab ih =>
    unfold Tab.keep at ih ⊢
    rw [List.filter_cons]
    by_cases hk : e.1 = k
    · cases ht : test e.1 <;> simp_all [Tab.get]
    · cases ht : test e.1 <;> simp_all [Tab.get, Ne.symm hk]

/-! ## What a retirement leaves of the day and of the queues -/

/-- A record that leaves its store leaves the class counts and the wait queue of its day as they are (R140). -/
theorem leaveStore_part (hp : s.part m.day = some p) : ∃ q, (leaveStore m.day m.loc (dropEntry ref s)).part m.day = some q ∧
    q.live = p.live ∧ q.waitQueue = p.waitQueue := by
  unfold leaveStore
  cases m.loc with
  | hot n =>
    refine ⟨{ p with hotCount := p.hotCount - 1 }, ?_, rfl, rfl⟩
    dsimp only
    rw [updPart_part, if_pos rfl, show (releaseSlot n (dropEntry ref s)).part m.day = some p from hp]
    rfl
  | segment n o =>
    obtain ⟨cs, parts, full, wait, q, h, -, hparts⟩ := segmentLoses_eq n (dropEntry ref s)
    obtain ⟨f, hf⟩ := hparts m.day
    rw [show (dropEntry ref s).part m.day = some p from hp] at hf
    refine ⟨{ p with segments := f p }, ?_, rfl, rfl⟩
    dsimp only
    rw [h]
    exact hf

theorem retireRecord_parts (ref : Nat) (m : MapEntry) (s : State) (d : Nat) : (retireRecord ref m s).part d =
    if d = m.day then ((leaveStore m.day m.loc (dropEntry ref s)).part d).map fun p =>
      { p with live := p.live.set m.cls (p.live.get m.cls - 1) }
    else (leaveStore m.day m.loc (dropEntry ref s)).part d := by
  rw [retireRecord_after]
  exact Tab.get_upd (leaveStore m.day m.loc (dropEntry ref s)).pc.parts m.day d fun p : Partition =>
    { p with live := p.live.set m.cls (p.live.get m.cls - 1) }

theorem retireRecord_part (hp : s.part m.day = some p) : ∃ y, (retireRecord ref m s).part m.day = some y ∧
    y.live = p.live.set m.cls (p.live.get m.cls - 1) ∧ y.waitQueue = p.waitQueue := by
  obtain ⟨q, hq, hlive, hwait⟩ := leaveStore_part (ref := ref) hp
  refine ⟨{ q with live := q.live.set m.cls (q.live.get m.cls - 1) }, ?_, by rw [hlive], hwait⟩
  rw [retireRecord_parts, if_pos rfl, hq]
  rfl

/-- The segment of a location, if any, becomes FREE where its record leaves it (R104). -/
def State.lastOf (s : State) (loc : Location) : Bool :=
  match loc with
  | .segment n _ => (s.seg n).any fun e => decide (e.live ≤ 1)
  | .hot _ => false

/-- The queues behind a segment that a retirement may free, and the other days (R104). -/
theorem retireRecord_queues (ref : Nat) (m : MapEntry) (s : State) :
    let x := retireRecord ref m s
    let frees := s.lastOf m.loc
    x.ce = { s.ce with coldFull := s.ce.coldFull && !frees, coldWait := if frees then [] else s.ce.coldWait } ∧
    (frees = false ∨ QueuesAgree s → x.wa.packQueue = if frees then s.wa.packQueue ++ s.ce.coldWait else s.wa.packQueue) ∧
    ((∀ n o e, m.loc = .segment n o → s.seg n = some e → e.day = m.day) → ∀ d, d ≠ m.day → x.part d = s.part d) := by
  intro x frees
  have hx : RetiredAt m.day ref m s x := retireRecord_retiredAt ref m s
  cases hloc : m.loc with
  | hot n =>
    have hf : frees = false := by
      show s.lastOf m.loc = false
      rw [hloc]
      rfl
    obtain ⟨-, hparts, -, hce, hwa⟩ := hx.hot n hloc
    refine ⟨?_, fun _ => ?_, fun _ d hd => ?_⟩
    · rw [hce, hf, Bool.not_false, Bool.and_true]
      rfl
    · rw [hwa, hf]
      rfl
    · rw [hparts d]
      simp only [if_neg hd, Option.map_id']
  | segment n o =>
    cases hs : s.seg n with
    | none =>
      have hf : frees = false := by
        show s.lastOf m.loc = _
        rw [hloc, State.lastOf, hs]
        rfl
      have hstay : leaveStore m.day m.loc (dropEntry ref s) = dropEntry ref s := by
        rw [hloc, leaveStore, segmentLoses, show (dropEntry ref s).seg n = none from hs]
      have hxe := retireRecord_after ref m s
      rw [hstay] at hxe
      refine ⟨?_, fun _ => ?_, fun _ d hd => ?_⟩
      · rw [hf, Bool.not_false, Bool.and_true, show x = _ from hxe]
        rfl
      · rw [hf, show x = _ from hxe]
        rfl
      · rw [show x.part d = _ from retireRecord_parts ref m s d, if_neg hd, hstay]
        rfl
    | some e =>
      have hf : frees = decide (e.live ≤ 1) := by
        show s.lastOf m.loc = _
        rw [hloc, State.lastOf, hs]
        rfl
      obtain ⟨-, -, hparts, hce, hwa⟩ := hx.segment n o e hloc hs
      refine ⟨?_, fun h => ?_, fun h d hd => ?_⟩
      · rw [hce, hf]
        by_cases hl : e.live ≤ 1 <;> simp [hl]
      · rw [hf]
        rw [hf] at h
        rw [hwa (h.imp (fun h => by simpa using h) id)]
        by_cases hl : e.live ≤ 1 <;> simp [hl]
      · have hother : ¬ (e.live ≤ 1 ∧ d = e.day) := fun hc => hd (hc.2.trans (h n o e rfl hs))
        rw [hparts d]
        simp only [if_neg hd, if_neg hother, Option.map_id']

/-! ## The walk's end -/

/-- The state in which a walk has ended at its last entry, before its day is tested or freed (R141). -/
theorem walkEnd_eq (hru : d.ru = s.ru) (hw : s.ru.sweep = some w) (hq : Tab.get s.ru.queue w.day = some qe) : ∃ parts queue,
    sweepQuantumEnds w.day (restartOrLeave w.day (walkOn w.day ref d)) = { d with
      ru := { s.ru with queue := queue, sweep := none }
      pc := { d.pc with parts := parts }
      wa := { d.wa with engine := none } } ∧
    Tab.get queue w.day = (if qe.restart then some { walk := none, restart := false } else none) ∧
    (∀ k, k ≠ w.day → Tab.get queue k = Tab.get s.ru.queue k) ∧
    Tab.get parts w.day = (d.part w.day).map (fun y => if qe.restart then { y with moverHolding := false }
      else { y with moverHolding := false, expiryDue := PerClass.all false }) ∧
    ∀ k, k ≠ w.day → Tab.get parts k = d.part k := by
  have hdw : d.ru.sweep = some w := by rw [hru, hw]
  have hwalked : Tab.get (Tab.upd s.ru.queue w.day fun e => { e with walk := some ref }) w.day = some { qe with walk := some ref } := by
    rw [Tab.get_upd, if_pos rfl, hq]
    rfl
  have hother (k : Nat) (hk : k ≠ w.day) : Tab.get (Tab.upd s.ru.queue w.day fun e => { e with walk := some ref }) k = Tab.get s.ru.queue k :=
    (Tab.get_upd _ _ _ _).trans (if_neg hk)
  rw [walkOn_eq w.day hdw, hru]
  unfold restartOrLeave
  dsimp only
  rw [hwalked]
  cases hr : qe.restart with
  | true =>
    exact ⟨Tab.upd d.pc.parts w.day fun p => { p with moverHolding := false }, _, rfl, Tab.get_put_self _ _ _,
      fun k hk => (Tab.get_put_ne _ _ hk).trans (hother k hk), (Tab.get_upd _ _ _ _).trans (if_pos rfl),
      fun k hk => (Tab.get_upd _ _ _ _).trans (if_neg hk)⟩
  | false =>
    refine ⟨Tab.upd (Tab.upd d.pc.parts w.day fun p => { p with expiryDue := PerClass.all false }) w.day fun p => { p with moverHolding := false },
      _, rfl, Tab.get_del_self _ _, fun k hk => (Tab.get_del_ne _ hk).trans (hother k hk), ?_, fun k hk => ?_⟩
    · rw [Tab.get_upd, if_pos rfl, Tab.get_upd, if_pos rfl, part_def, Option.map_map]
      rfl
    · rw [Tab.get_upd, if_neg hk, Tab.get_upd, if_neg hk, part_def]

/-- The state at the end of a walk whose day keeps live records: what is kept of the retired, held or passed entry's state, the Sweep Queue,
the flags and the repack queue (R121, R141). -/
def WalkRemains (w : Sweep) (restart : Bool) (s x : State) (y : Partition) (u : State) : Prop :=
  let kept : Partition := { y with moverHolding := false }
  let old := (y.segments.filter x.segActive).filterMap x.seg
  let sparse := y.state = .packed ∧ 100 * (old.map (·.live)).sum < s.cl.settings.repackPercent * (old.map (·.records)).sum
  u.part w.day = some (if restart then kept else { kept with expiryDue := PerClass.all false }) ∧
  (∀ d, d ≠ w.day → u.part d = x.part d) ∧
  Tab.get u.ru.queue w.day = (if restart then some { walk := none, restart := false } else none) ∧
  (∀ d, d ≠ w.day → Tab.get u.ru.queue d = Tab.get s.ru.queue d) ∧ u.ru = { s.ru with queue := u.ru.queue, sweep := none } ∧
  u.wa = { x.wa with engine := none, repackQueue :=
    if sparse ∧ w.day ∉ x.wa.repackQueue then x.wa.repackQueue ++ [w.day] else x.wa.repackQueue } ∧
  u.au = x.au ∧ u.ix = x.ix ∧ u.hs = x.hs ∧ u.cs = x.cs ∧ u.ce = x.ce ∧ u.lp = s.lp ∧ u.ck = s.ck ∧ u.ie = s.ie ∧ u.qa = s.qa ∧
  u.cl = s.cl ∧ u.power = s.power

/-- A state differs from another neither in RU nor outside the archive's own blocks. -/
def SweepFrame (s d : State) : Prop :=
  d.ru = s.ru ∧ d.lp = s.lp ∧ d.ck = s.ck ∧ d.ie = s.ie ∧ d.qa = s.qa ∧ d.cl = s.cl ∧ d.power = s.power

/-- What the end of a walk leaves of its day's entry. -/
def Partition.walkEnded (restart : Bool) (y : Partition) : Partition :=
  if restart then { y with moverHolding := false } else { y with moverHolding := false, expiryDue := PerClass.all false }

theorem Partition.walkEnded_kept (restart : Bool) (y : Partition) : (y.walkEnded restart).live = y.live ∧
    (y.walkEnded restart).state = y.state ∧ (y.walkEnded restart).segments = y.segments ∧ (y.walkEnded restart).waitQueue = y.waitQueue := by
  cases restart <;> exact ⟨rfl, rfl, rfl, rfl⟩

theorem endWalk_remains (hf : SweepFrame s d) (hw : s.ru.sweep = some w) (hq : Tab.get s.ru.queue w.day = some qe)
    (hy : d.part w.day = some y) (hlive : 0 < y.live.total) : WalkRemains w qe.restart s d y (endWalk w.day (walkOn w.day ref d)) := by
  obtain ⟨hru, hlp, hck, hie, hqa, hcl, hpow⟩ := hf
  obtain ⟨parts, queue, hend, hqueue, hqueues, hpart, hparts⟩ := walkEnd_eq (ref := ref) hru hw hq
  rw [hy] at hpart
  obtain ⟨hzlive, hzstate, hzsegs, -⟩ := y.walkEnded_kept qe.restart
  have hz : Tab.get parts w.day = some (y.walkEnded qe.restart) := hpart
  have hsome : (y.walkEnded qe.restart).liveTotal ≠ 0 := by
    rw [Partition.liveTotal, hzlive]
    exact Nat.pos_iff_ne_zero.1 hlive
  unfold endWalk
  rw [hend]
  generalize hx : ({ d with
      ru := { s.ru with queue := queue, sweep := none }
      pc := { d.pc with parts := parts }
      wa := { d.wa with engine := none } } : State) = x
  have hxpart : x.part w.day = some (y.walkEnded qe.restart) := by rw [← hx]; exact hz
  have hsparse : x.sparseTest (y.walkEnded qe.restart) = decide (100 * ((((y.segments.filter d.segActive).filterMap d.seg)).map (·.live)).sum <
      s.cl.settings.repackPercent * (((y.segments.filter d.segActive).filterMap d.seg).map (·.records)).sum) := by
    unfold State.sparseTest State.activeSegs
    rw [hzsegs, ← hx, ← hcl]
    rfl
  dsimp only
  rw [hxpart]
  dsimp only
  rw [if_neg hsome, repackTest_some hxpart, hsparse, hzstate, ← hx]
  refine ⟨hz, hparts, hqueue, hqueues, rfl, ?_, rfl, rfl, rfl, rfl, rfl, hlp, hck, hie, hqa, hcl, hpow⟩
  simp only [decide_eq_true_eq, and_comm, and_left_comm]

theorem endWalk_frees (hru : d.ru = s.ru) (hw : s.ru.sweep = some w) (hq : Tab.get s.ru.queue w.day = some qe)
    (hy : d.part w.day = some y) (hlive : y.live.total = 0) : ∃ parts queue,
    endWalk w.day (walkOn w.day ref d) = y.waitQueue.foldl waiterReleased (clearDay w.day { d with
      ru := { s.ru with queue := queue, sweep := none }
      pc := { d.pc with parts := parts }
      wa := { d.wa with engine := none } }) ∧
    (∀ k, k ≠ w.day → Tab.get queue k = Tab.get s.ru.queue k) ∧ ∀ k, k ≠ w.day → Tab.get parts k = d.part k := by
  obtain ⟨parts, queue, hend, -, hqueues, hpart, hparts⟩ := walkEnd_eq (ref := ref) hru hw hq
  rw [hy] at hpart
  obtain ⟨hzlive, -, -, hzwait⟩ := y.walkEnded_kept qe.restart
  refine ⟨parts, queue, ?_, hqueues, hparts⟩
  have hnone : (y.walkEnded qe.restart).liveTotal = 0 := by
    rw [Partition.liveTotal, hzlive]
    exact hlive
  have hz (x : State) (hx : x.part w.day = some (y.walkEnded qe.restart)) :
      (match x.part w.day with
        | none => x
        | some p => if p.liveTotal = 0 then freePartition w.day x else repackTest x.sparseTest w.day x) =
      y.waitQueue.foldl waiterReleased (clearDay w.day x) := by
    rw [hx]
    dsimp only
    rw [if_pos hnone, freePartition_eq, State.waiters, hx, Option.elim_some, hzwait]
  unfold endWalk
  rw [hend]
  exact hz _ hpart

theorem sweepDecision_ends {g : Grant} (he : s.wa.engine = some g) (hg : g.quantum = .sweep) (hw : s.ru.sweep = some w)
    (hq : Tab.get s.ru.queue w.day = some qe) (hn : s.nextEntry w.day qe.walk = some (ref, m)) (hd : decideEntry ref m s = d)
    (hru : d.ru = s.ru) (hlast : ∀ e ∈ d.ix.map, e.2.day = w.day → e.1 ≤ ref) :
    exec .sweepDecision s = .next (settleCompletion (endWalk w.day (walkOn w.day ref d))) := by
  have hdw : d.ru.sweep = some w := by rw [hru, hw]
  have hdq : (Tab.get d.ru.queue w.day).isSome = true := by
    rw [hru, hq]
    rfl
  have hnext : (walkOn w.day ref d).nextEntry w.day ((walkOn w.day ref d).walkOf w.day) = none := by
    rw [walkOn_walkOf w.day hdq]
    exact nextEntry_none hlast
  rw [exec_sweepDecision he hg, sweepDecision_entry hw hq hn, hd]
  unfold afterDecision
  rw [hnext]

/-! ## The statement -/

theorem total_retired (x : PerClass Nat) (c : CallClass) (h : 0 < x.get c) : (x.set c (x.get c - 1)).total + 1 = x.total := by
  cases c <;> simp only [PerClass.get, PerClass.set, PerClass.total] at * <;> omega

/-- Settles O55: the last entry decided, the walk's end keeps and tests its day or, with no live record left, frees it. -/
theorem walkEnds : Obligations.WalkEnds := by
  unfold Obligations.WalkEnds
  intro g w qe ref m p s he hg hw hq hk hlt hn hlast hp retention due held remains
  obtain ⟨hmem, hday⟩ := nextEntry_mem hn
  have hpm : s.part m.day = some p := by rw [hday]; exact hp
  have hcases := decideEntry_cases (ref := ref) hpm
  have hdue : s.entryDue p m = true ↔ due := by
    rw [State.entryDue, hday, Bool.and_eq_true, Bool.and_eq_true, decide_eq_true_eq, decide_eq_true_eq]
  have hheld : s.held m.key m.day m.cls = held := by rw [hday]; rfl
  rw [hheld] at hcases
  have hretired (hd : due) (hh : held = false) : decideEntry ref m s = retireRecord ref m s := by
    rw [hcases, if_neg (by rw [hdue.2 hd]; decide), if_neg (by rw [hh]; decide)]
  have hr := retireRecord_retiredAt ref m s
  rw [hday] at hr
  obtain ⟨y, hy, hylive, hywait⟩ := retireRecord_part (ref := ref) hpm
  rw [hday] at hy
  have hdel : ∀ e ∈ (retireRecord ref m s).ix.map, e.2.day = w.day → e.1 ≤ ref := by
    rw [hr.entry]
    exact fun e he => hlast e (List.mem_filter.1 he).1
  refine ⟨fun hnot hpos => ?_, fun hd hh hpos => ?_, fun hd hh hcls htotal => ?_, fun hd hh honly hcls htotal => ?_⟩
  · rw [if_pos (by rw [← Bool.not_eq_true, hdue]; exact hnot)] at hcases
    exact ⟨_, sweepDecision_ends he hg hw hq hn hcases rfl hlast, endWalk_remains ⟨rfl, rfl, rfl, rfl, rfl, rfl, rfl⟩ hw hq hp hpos⟩
  · rw [if_neg (by rw [hdue.2 hd]; decide), if_pos hh, hday] at hcases
    have hmarked : (countUp .heldSkips 1 (updPart w.day (fun p => { p with heldRemainder := p.heldRemainder.set m.cls true }) s)).part w.day =
        some { p with heldRemainder := p.heldRemainder.set m.cls true } := by
      show (updPart w.day _ s).part w.day = _
      rw [updPart_part, if_pos rfl, hp]
      rfl
    have h := endWalk_remains (d := countUp .heldSkips 1 (updPart w.day _ s)) (ref := ref) ⟨rfl, rfl, rfl, rfl, rfl, rfl, rfl⟩ hw hq hmarked hpos
    obtain ⟨hhere, hothers, hrest⟩ := h
    exact ⟨_, sweepDecision_ends he hg hw hq hn hcases rfl hlast, hhere,
      fun k hk => (hothers k hk).trans ((updPart_part _ _ _ _).trans (if_neg hk)), hrest⟩
  · have hpos : 0 < y.live.total := by
      have h := total_retired p.live m.cls hcls
      rw [hylive]
      omega
    exact ⟨_, y, _, hr, hy, sweepDecision_ends he hg hw hq hn (hretired hd hh) hr.kept.1 hdel, endWalk_remains hr.kept hw hq hy hpos⟩
  · intro frees
    have hfrees : s.lastOf m.loc = frees := by
      show s.lastOf m.loc = match m.loc with | .segment n _ => (s.seg n).any fun e => decide (e.live ≤ 1) | .hot _ => false
      unfold State.lastOf
      cases m.loc <;> rfl
    obtain ⟨hce, hpack, hothers⟩ := retireRecord_queues ref m s
    rw [hfrees] at hce hpack
    rw [hday] at hothers
    have hdecide := hretired hd hh
    generalize retireRecord ref m s = x at hr hy hdel hce hpack hothers hdecide
    obtain ⟨hix, hhot, hseg, hwa, hau, hru, hlp, hck, hie, hqa, hcl, hpow⟩ := hr
    have hzero : y.live.total = 0 := by
      have h := total_retired p.live m.cls (by omega)
      rw [hylive]
      omega
    obtain ⟨parts, queue, hend, hqueues, hparts⟩ := endWalk_frees (ref := ref) hru hw hq hy hzero
    rw [hywait] at hend
    have hmap (k : Nat) : x.lookup k = Tab.get (Tab.del s.ix.map ref) k := by rw [State.lookup, hix]
    refine ⟨clearDay w.day { x with
        ru := { s.ru with queue := queue, sweep := none }
        pc := { x.pc with parts := parts }
        wa := { x.wa with engine := none } }, ?_, ?_⟩
    · rw [sweepDecision_ends he hg hw hq hn hdecide hru hdel, hend]
    · refine ⟨Tab.get_del_self _ _, (hmap ref).trans (Tab.get_del_self _ _), fun k hk => (hmap k).trans (Tab.get_del_ne _ hk),
        fun n hloc => ?_, fun n o e hloc hs => ?_, fun source => ?_, fun source day hlt' hne => ?_, ?_, ?_, ?_, ?_, ?_, ?_, fun h => ?_,
        Tab.get_del_self _ _, fun k hk => (Tab.get_del_ne _ hk).trans (hqueues k hk), rfl, hlp,
        fun h k hk => (Tab.get_del_ne _ hk).trans ((hparts k hk).trans (hothers h k hk)), rfl, rfl, hck, hie, hqa, hcl, hpow⟩
      · obtain ⟨hslots, -, hcs, -, -⟩ := hhot n hloc
        exact ⟨hcs, hslots⟩
      · obtain ⟨hhs, hsegs, -, -, -⟩ := hseg n o e hloc hs
        exact ⟨hhs, (hsegs n).trans (if_pos rfl), fun k hk => (hsegs k).trans (if_neg hk)⟩
      · show Tab.get (Tab.keep x.au.accounts fun k _ => decide (k % 65536 ≠ w.day)) _ = none
        rw [Tab.get_keep_key _ (fun k => decide (k % 65536 ≠ w.day)), if_neg]
        simpa using (show (source * 65536 + w.day) % 65536 = w.day by omega)
      · show Tab.get (Tab.keep x.au.accounts fun k _ => decide (k % 65536 ≠ w.day)) _ = _
        have hkey : source * 65536 + day ≠ accountKey (ref / 281474976710656) w.day := by
          unfold accountKey
          omega
        rw [Tab.get_keep_key _ (fun k => decide (k % 65536 ≠ w.day)), if_pos (by simpa using (by omega)), hau]
        dsimp only
        rw [Tab.get_upd, if_neg hkey]
      · show x.au.current = _
        rw [hau]
      · show w.day ∉ x.wa.packQueue.filter (· != w.day)
        simp
      · show w.day ∉ x.wa.repackQueue.filter (· != w.day)
        simp
      · show w.day ∉ x.ce.coldWait.filter (· != w.day)
        simp
      · show { x.ce with coldWait := x.ce.coldWait.filter (· != w.day) } = _
        rw [hce]
        cases frees <;> rfl
      · have hrepack : x.wa.repackQueue = s.wa.repackQueue := by rw [hwa]
        have harb (q r : List Nat) : ({ x.wa with engine := none, packQueue := q, repackQueue := r } : WorkArbiter) =
            { s.wa with engine := none, packQueue := q, repackQueue := r } := by rw [hwa]
        exact (harb _ _).trans (by rw [hrepack]; rfl)
      · show x.wa.packQueue.filter (· != w.day) = _
        rw [hpack h]

end Sys2Proof.Machine
end

section
/-! The switch-over of a pack or repack job (O51): the entries and slots it moves, the segments it closes and what the old ones lose. -/

namespace Sys2Proof.Machine

open Wire

variable {s t u : State} {j : Job} {p : Partition} {key : Nat → Nat} {old news l : List Nat} {gone : Nat → Bool} {n : Nat}

/-! ## A day's segment list -/

theorem placeSegment_congr {key' : Nat → Nat} (hn : key' n = key n) (hl : ∀ m ∈ l, key' m = key m) :
    placeSegment key' n l = placeSegment key n l := by
  induction l with
  | nil => rfl
  | cons m l ih =>
    rw [placeSegment, placeSegment, hn, hl m List.mem_cons_self, ih fun i hi => hl i (List.mem_cons_of_mem m hi)]

theorem mem_placeSegment {m : Nat} : m ∈ placeSegment key n l ↔ m ∈ l ∨ m = n := by
  induction l with
  | nil => simp [placeSegment]
  | cons a l ih =>
    unfold placeSegment
    split
    · simp only [List.mem_cons]
      tauto
    · simp only [List.mem_cons, ih]
      tauto

theorem placeSegment_pairwise (h : l.Pairwise fun a b => key a ≤ key b) : (placeSegment key n l).Pairwise fun a b => key a ≤ key b := by
  induction l with
  | nil => exact List.pairwise_singleton _ _
  | cons a l ih =>
    obtain ⟨ha, hl⟩ := List.pairwise_cons.1 h
    unfold placeSegment
    split
    · rename_i hlt
      refine List.pairwise_cons.2 ⟨fun b hb => ?_, h⟩
      rcases List.mem_cons.1 hb with rfl | hb
      · exact Nat.le_of_lt hlt
      · exact Nat.le_trans (Nat.le_of_lt hlt) (ha b hb)
    · rename_i hge
      refine List.pairwise_cons.2 ⟨fun b hb => ?_, ih hl⟩
      rcases mem_placeSegment.1 hb with hb | rfl
      · exact ha b hb
      · exact Nat.not_lt.1 hge

/-- A segment stands behind those of its first key (R41). -/
theorem placeSegment_filter (h : l.Pairwise fun a b => key a ≤ key b) (k : Nat) :
    (placeSegment key n l).filter (fun m => key m = k) = (l ++ [n]).filter fun m => key m = k := by
  induction l with
  | nil => rfl
  | cons a l ih =>
    obtain ⟨ha, hl⟩ := List.pairwise_cons.1 h
    unfold placeSegment
    split
    · rename_i hlt
      by_cases hk : key n = k
      · have hnone : (a :: l).filter (fun m => decide (key m = k)) = [] := by
          refine List.filter_eq_nil_iff.2 fun m hm => ?_
          rcases List.mem_cons.1 hm with rfl | hm
          · simpa using (by omega)
          · have := ha m hm
            simpa using (by omega)
        rw [List.filter_append, List.filter_cons, hnone]
        simp [hk]
      · rw [List.filter_append, List.filter_cons]
        simp [hk]
    · rw [List.cons_append, List.filter_cons, List.filter_cons, ih hl]

/-- A segment list: of the old one what is not gone, and the new ones, in first-key order where the old one is and holds no new one. -/
structure ListsSegments (key : Nat → Nat) (fit : Prop) (old : List Nat) (gone : Nat → Bool) (news l : List Nat) : Prop where
  mem : ∀ n, n ∈ l ↔ (n ∈ old ∧ gone n = false) ∨ n ∈ news
  order : fit → l.Pairwise (fun a b => key a ≤ key b) ∧
    ∀ k, l.filter (fun n => key n = k) = (old.filter (fun n => !gone n) ++ news).filter fun n => key n = k

theorem ListsSegments.start {fit : Prop} (h : fit → old.Pairwise fun a b => key a ≤ key b) :
    ListsSegments key fit old (fun _ => false) [] old where
  mem n := by simp
  order hf := ⟨h hf, fun k => by simp⟩

/-- A segment that is no new one leaves the list. -/
theorem ListsSegments.drop {fit : Prop} (h : ListsSegments key fit old gone news l) (hn : n ∉ news) :
    ListsSegments key fit old (fun m => gone m || decide (m = n)) news (l.filter (· != n)) where
  mem m := by
    rw [List.mem_filter, h.mem]
    by_cases hm : m = n
    · subst hm
      simp [hn]
    · simp [hm]
  order hf := by
    obtain ⟨hsorted, hfilter⟩ := h.order hf
    refine ⟨hsorted.filter _, fun k => ?_⟩
    have hnews : news.filter (· != n) = news := List.filter_eq_self.2 fun m hm => by
      simpa using fun he : m = n => hn (he ▸ hm)
    have hold : old.filter (fun m => !(gone m || decide (m = n))) = (old.filter fun m => !gone m).filter (· != n) := by
      rw [List.filter_filter]
      refine List.filter_congr fun m _ => ?_
      by_cases hm : m = n <;> simp [hm]
    calc (l.filter (· != n)).filter (fun m => key m = k)
        = (l.filter fun m => key m = k).filter (· != n) := List.filter_comm _ _ _
      _ = ((old.filter (fun m => !gone m) ++ news).filter fun m => key m = k).filter (· != n) := by rw [hfilter k]
      _ = ((old.filter (fun m => !gone m) ++ news).filter (· != n)).filter (fun m => key m = k) := List.filter_comm _ _ _
      _ = _ := by rw [List.filter_append, hnews, hold]

/-- A new segment is placed by keys that agree with the list's. -/
theorem ListsSegments.place {fit : Prop} {key' : Nat → Nat} (h : ListsSegments key fit old gone news l)
    (hkey : fit → key' n = key n ∧ ∀ m ∈ l, key' m = key m) : ListsSegments key fit old gone (news ++ [n]) (placeSegment key' n l) where
  mem m := by
    rw [mem_placeSegment, h.mem, List.mem_append, List.mem_singleton, or_assoc]
  order hf := by
    obtain ⟨hsorted, hfilter⟩ := h.order hf
    obtain ⟨hn, hl⟩ := hkey hf
    rw [placeSegment_congr hn hl]
    refine ⟨placeSegment_pairwise hsorted, fun k => ?_⟩
    rw [placeSegment_filter hsorted, List.filter_append, hfilter, ← List.append_assoc, List.filter_append (_ ++ news)]

/-! ## The map entries and the snapshot slots -/

/-- What has become of the map and of the hot slots once some members, each with its new location, have been switched over (R120). -/
structure CopiesSwitched (s : State) (done : List (Location × Member)) (u : State) : Prop where
  others : ∀ ref, (∀ d ∈ done, d.2.ref ≠ ref) → u.lookup ref = s.lookup ref
  placed : ∀ d ∈ done, u.lookup d.2.ref =
    if d.2.stays s then (s.lookup d.2.ref).map fun x => { x with loc := d.1 } else s.lookup d.2.ref
  slots : ∀ k, Tab.get u.hs.slots k = if (∃ d ∈ done, d.2.loc = .hot k) then none else Tab.get s.hs.slots k

/-- The entry of a member after its switch-over, where its snapshot location still stands (R120). -/
def switchEntry (dest : Location) (m : Member) (s : State) : State :=
  match s.lookup m.ref with
  | some e => if e.loc = m.loc then putEntry m.ref { e with loc := dest } s else s
  | none => s

/-- What a member's snapshot location loses at its switch-over (R104, R123). -/
def leaveSnapshot (moves : Bool) (m : Member) (s : State) : State :=
  match m.loc with
  | .hot k => releaseSlot k s
  | .segment k _ => if moves then segmentLoses k s else s

theorem stays_eq (m : Member) (s : State) : m.stays s = s.memberStays m := by
  unfold Member.stays State.memberStays
  cases s.lookup m.ref with
  | none => rfl
  | some e => simp

theorem memberStays_cases (m : Member) (s : State) : s.memberStays m = (s.lookup m.ref).elim false fun e => decide (e.loc = m.loc) := by
  unfold State.memberStays
  cases s.lookup m.ref <;> rfl

theorem switchMember_eq (n c : Nat) (m : Member × Nat) (u : State) : switchMember n (u, c) m =
    (leaveSnapshot (m.1.stays u) m.1 (switchEntry (.segment n m.2) m.1 u), if m.1.stays u then c + 1 else c) := by
  have hst := memberStays_cases m.1 u
  rw [stays_eq]
  cases he : u.lookup m.1.ref with
  | none =>
    rw [he] at hst
    rw [show u.memberStays m.1 = false from hst]
    unfold switchMember leaveSnapshot switchEntry
    dsimp only
    rw [he]
    cases m.1.loc <;> rfl
  | some e =>
    rw [he] at hst
    by_cases h : e.loc = m.1.loc
    · rw [show u.memberStays m.1 = true from hst.trans (decide_eq_true h)]
      unfold switchMember leaveSnapshot switchEntry
      dsimp only
      rw [he]
      dsimp only
      rw [if_pos h, if_pos h]
      cases m.1.loc <;> rfl
    · rw [show u.memberStays m.1 = false from hst.trans (decide_eq_false h)]
      unfold switchMember leaveSnapshot switchEntry
      dsimp only
      rw [he]
      dsimp only
      rw [if_neg h, if_neg h]
      cases m.1.loc <;> rfl

theorem switchEntry_lookup (dest : Location) (m : Member) (u : State) (ref : Nat) : (switchEntry dest m u).lookup ref =
    if ref = m.ref ∧ m.stays u then (u.lookup ref).map fun x => { x with loc := dest } else u.lookup ref := by
  have hst := memberStays_cases m u
  rw [stays_eq]
  unfold switchEntry
  cases he : u.lookup m.ref with
  | none =>
    rw [he] at hst
    exact (if_neg fun hc => by rw [show u.memberStays m = false from hst] at hc; cases hc.2).symm
  | some e =>
    rw [he] at hst
    dsimp only
    by_cases h : e.loc = m.loc
    · rw [if_pos h, show u.memberStays m = true from hst.trans (decide_eq_true h)]
      by_cases hr : ref = m.ref
      · subst hr
        rw [if_pos ⟨rfl, rfl⟩, he]
        exact Tab.get_put_self _ _ _
      · rw [if_neg (fun hc => hr hc.1)]
        exact Tab.get_put_ne _ _ hr
    · rw [if_neg h, show u.memberStays m = false from hst.trans (decide_eq_false h), if_neg (fun hc => by cases hc.2)]

theorem switchEntry_hs (dest : Location) (m : Member) (u : State) : (switchEntry dest m u).hs = u.hs := by
  unfold switchEntry
  repeat' split
  all_goals rfl

theorem leaveSnapshot_ix (moves : Bool) (m : Member) (u : State) : (leaveSnapshot moves m u).ix = u.ix := by
  unfold leaveSnapshot
  cases m.loc with
  | hot k => rfl
  | segment k o =>
    cases moves with
    | false => rfl
    | true =>
      obtain ⟨_, _, _, _, _, h, -⟩ := segmentLoses_eq k u
      show (segmentLoses k u).ix = u.ix
      rw [h]

theorem leaveSnapshot_slots (moves : Bool) (m : Member) (u : State) (k : Nat) :
    Tab.get (leaveSnapshot moves m u).hs.slots k = if m.loc = .hot k then none else Tab.get u.hs.slots k := by
  unfold leaveSnapshot
  cases m.loc with
  | hot i =>
    by_cases hk : k = i
    · subst hk
      exact (Tab.get_del_self _ _).trans (if_pos rfl).symm
    · exact (Tab.get_del_ne _ hk).trans (if_neg (fun h => hk (by cases h; rfl))).symm
  | segment i o =>
    rw [if_neg (fun h => by cases h)]
    cases moves with
    | false => rfl
    | true =>
      obtain ⟨_, _, _, _, _, h, -⟩ := segmentLoses_eq i u
      show Tab.get (segmentLoses i u).hs.slots k = _
      rw [h]

/-- A member with a new reference is switched over (R120). -/
theorem CopiesSwitched.member {done : List (Location × Member)} (h : CopiesSwitched s done u) (dest : Location) (m : Member)
    (hnew : ∀ d ∈ done, d.2.ref ≠ m.ref) : m.stays u = m.stays s ∧
    CopiesSwitched s (done ++ [(dest, m)]) (leaveSnapshot (m.stays u) m (switchEntry dest m u)) := by
  have hsame := h.others m.ref hnew
  have hstays : m.stays u = m.stays s := by rw [stays_eq, stays_eq, State.memberStays, State.memberStays, hsame]
  have hlookup (ref : Nat) : (leaveSnapshot (m.stays u) m (switchEntry dest m u)).lookup ref =
      if ref = m.ref ∧ m.stays s then (u.lookup ref).map fun x => { x with loc := dest } else u.lookup ref := by
    rw [State.lookup, leaveSnapshot_ix, ← hstays]
    exact switchEntry_lookup dest m u ref
  refine ⟨hstays, fun ref hr => ?_, fun d hd => ?_, fun k => ?_⟩
  · have hne : ref ≠ m.ref := fun he => hr (dest, m) (List.mem_append_right _ List.mem_cons_self) he.symm
    rw [hlookup, if_neg (fun hc => hne hc.1)]
    exact h.others ref fun d hd => hr d (List.mem_append_left _ hd)
  · rcases List.mem_append.1 hd with hd | hd
    · rw [hlookup, if_neg (fun hc => hnew d hd hc.1)]
      exact h.placed d hd
    · obtain rfl := List.mem_singleton.1 hd
      rw [hlookup, hsame]
      by_cases hs : m.stays s
      · rw [if_pos ⟨rfl, hs⟩, if_pos hs]
      · rw [if_neg (fun hc => hs hc.2), if_neg hs]
  · rw [leaveSnapshot_slots, switchEntry_hs, h.slots]
    by_cases hm : m.loc = .hot k
    · rw [if_pos hm, if_pos ⟨(dest, m), List.mem_append_right _ List.mem_cons_self, hm⟩]
    · rw [if_neg hm]
      refine if_congr ⟨fun ⟨d, hd, he⟩ => ⟨d, List.mem_append_left _ hd, he⟩, fun ⟨d, hd, he⟩ => ⟨d, ?_, he⟩⟩ rfl rfl
      rcases List.mem_append.1 hd with hd | hd
      · exact hd
      · obtain rfl := List.mem_singleton.1 hd
        exact absurd he hm

/-! ## The segments, and what waits for a free one -/

/-- The members of a written segment that move to it (R120). -/
def State.movers (s : State) (ms : List Member) : Nat := ms.countP fun m => m.stays s

/-- The entry of a written segment once it is closed: ACTIVE with its moved members, or FREE (R120). -/
def State.closedEntry (s : State) (w : Nat × List Member) : Option SegEntry :=
  if s.movers w.2 = 0 then none else (s.seg w.1).map fun e => { e with state := .active, live := s.movers w.2 }

/-- The written segments that stay, in the order of their writing. -/
def State.arrivals (s : State) (ws : List (Nat × List Member)) : List (Nat × List Member) := ws.filter fun w => s.movers w.2 ≠ 0

/-- A directory entry once a number of its records have left (R104). -/
def SegEntry.after (e : SegEntry) (losses : Nat) : Option SegEntry :=
  if 0 < losses ∧ e.live ≤ losses then none else some { e with live := e.live - losses }

/-- A segment has become FREE by the records that have left it (R104). -/
def State.freedBy (s : State) (lost : Nat → Nat) (k : Nat) : Bool := (s.seg k).any fun e => decide (0 < lost k ∧ e.live ≤ lost k)

/-- The first key of a segment in the directory (R41). -/
def State.firstKeyOf (s : State) (n : Nat) : Nat := match s.seg n with | some e => e.firstKey | none => 0

/-- The day's segment list is in first-key order and holds no written segment. -/
def Job.FitsList (j : Job) (p : Partition) (s : State) : Prop :=
  p.segments.Pairwise (fun a b => s.firstKeyOf a ≤ s.firstKeyOf b) ∧ ∀ w ∈ j.written, w.1 ∉ p.segments

/-- What a switch-over has made of the directory, the partitions, the queues and the counters once some written segments are closed and a number
of records has left each old one (R104, R120). -/
structure SegmentsSwitched (j : Job) (p : Partition) (s : State) (closed : List (Nat × List Member)) (lost : Nat → Nat) (u : State) : Prop where
  old : ∀ k, k ∉ j.written.map (·.1) → u.seg k = (s.seg k).bind (·.after (lost k))
  new : ∀ w ∈ j.written, u.seg w.1 = if w.1 ∈ closed.map (·.1) then s.closedEntry w else s.seg w.1
  day : ∃ l, u.part j.day = some { p with segments := l } ∧
    ListsSegments s.firstKeyOf (j.FitsList p s) p.segments (s.freedBy lost) ((s.arrivals closed).map (·.1)) l
  days : ∀ d, d ≠ j.day → u.part d = s.part d
  queues : ((∃ k, s.freedBy lost k = true) ∧ u.ce = { s.ce with coldFull := false, coldWait := [] } ∧
      (QueuesAgree s → u.wa.packQueue = s.wa.packQueue ++ s.ce.coldWait)) ∨
    ((∀ k, s.freedBy lost k = false) ∧ u.ce = s.ce ∧ u.wa = s.wa)
  arbiter : u.wa = { s.wa with packQueue := u.wa.packQueue }
  audit : u.au = { s.au with current := (s.arrivals closed).foldl (fun b _ => bankAdd b .segmentsWritten 1) s.au.current }
  frame : u.lp = s.lp ∧ u.ck = s.ck ∧ u.ru = s.ru ∧ u.ie = s.ie ∧ u.qa = s.qa ∧ u.cl = s.cl ∧ u.power = s.power

theorem freedBy_zero (s : State) (k : Nat) : s.freedBy (fun _ => 0) k = false := by
  unfold State.freedBy
  cases s.seg k <;> simp

theorem SegmentsSwitched.start (hp : s.part j.day = some p) : SegmentsSwitched j p s [] (fun _ => 0) s where
  old k _ := by
    cases hs : s.seg k with
    | none => rfl
    | some e => simp [SegEntry.after]
  new _ _ := rfl
  day := by
    refine ⟨p.segments, hp, ?_⟩
    rw [funext (freedBy_zero s)]
    exact .start fun h => h.1
  days _ _ := rfl
  queues := .inr ⟨freedBy_zero s, rfl, rfl⟩
  arbiter := rfl
  audit := rfl
  frame := ⟨rfl, rfl, rfl, rfl, rfl, rfl, rfl⟩

variable {closed : List (Nat × List Member)} {lost : Nat → Nat}

/-- The map and the slots play no part. -/
theorem SegmentsSwitched.copies (h : SegmentsSwitched j p s closed lost u) (ix : IndexController) (hs : HotStore) :
    SegmentsSwitched j p s closed lost { u with ix := ix, hs := hs } :=
  ⟨h.old, h.new, h.day, h.days, h.queues, h.arbiter, h.audit, h.frame⟩

theorem SegmentsSwitched.switchEntry (h : SegmentsSwitched j p s closed lost u) (dest : Location) (m : Member) :
    SegmentsSwitched j p s closed lost (Machine.switchEntry dest m u) := by
  unfold Machine.switchEntry
  split
  · split
    · exact h.copies _ u.hs
    · exact h
  · exact h

/-- One more record has left a segment. -/
def oneLost (lost : Nat → Nat) (k : Nat) : Nat → Nat := fun n => if n = k then lost n + 1 else lost n

theorem freedBy_oneLost (k n : Nat) : s.freedBy (oneLost lost k) n =
    (s.freedBy lost n || (decide (n = k) && (s.seg k).any fun e => decide (e.live ≤ lost k + 1))) := by
  unfold State.freedBy oneLost
  by_cases hn : n = k
  · subst hn
    cases s.seg n with
    | none => simp
    | some e =>
      rw [Bool.eq_iff_iff]
      simp
      omega
  · simp [hn]

/-- A segment that is not in the directory after some losses was not there, or these have freed it. -/
theorem after_none {k : Nat} (h : (s.seg k).bind (·.after (lost k)) = none) : s.seg k = none ∨ s.freedBy lost k = true := by
  cases hs : s.seg k with
  | none => exact .inl rfl
  | some e =>
    rw [hs, Option.bind_some, SegEntry.after] at h
    split at h
    · rename_i hc
      exact .inr (by rw [State.freedBy, hs]; simpa using hc)
    · cases h

theorem after_some {k : Nat} {f : SegEntry} (h : (s.seg k).bind (·.after (lost k)) = some f) :
    ∃ e, s.seg k = some e ∧ ¬ (0 < lost k ∧ e.live ≤ lost k) ∧ f = { e with live := e.live - lost k } := by
  cases hs : s.seg k with
  | none =>
    rw [hs] at h
    cases h
  | some e =>
    rw [hs, Option.bind_some, SegEntry.after] at h
    split at h
    · cases h
    · rename_i hc
      exact ⟨e, rfl, hc, (Option.some.inj h).symm⟩

/-- Where a segment is FREE already one loss more frees nothing. -/
theorem freedBy_oneLost_same {k : Nat} (h : s.seg k = none ∨ s.freedBy lost k = true) (n : Nat) :
    s.freedBy (oneLost lost k) n = s.freedBy lost n := by
  rw [freedBy_oneLost]
  by_cases hn : n = k
  · subst hn
    rcases h with h | h
    · simp [State.freedBy, h]
    · rw [h, Bool.true_or]
  · simp [hn]

/-- A segment that is already FREE, or was never written, loses nothing more. -/
theorem SegmentsSwitched.losesNone (h : SegmentsSwitched j p s closed lost u) {k : Nat} (hk : k ∉ j.written.map (·.1)) (hu : u.seg k = none) :
    SegmentsSwitched j p s closed (oneLost lost k) (segmentLoses k u) := by
  have hnone := after_none ((h.old k hk).symm.trans hu)
  have hfreed := freedBy_oneLost_same hnone
  rw [show segmentLoses k u = u by rw [segmentLoses, hu]]
  refine { h with old := fun n hn => ?_, day := ?_, queues := ?_ }
  · rw [h.old n hn]
    by_cases he : n = k
    · subst he
      cases hs : s.seg n with
      | none => rfl
      | some e =>
        have hc : 0 < lost n ∧ e.live ≤ lost n := by
          rcases hnone with hc | hc
          · rw [hs] at hc
            cases hc
          · rw [State.freedBy, hs] at hc
            simpa using hc
        rw [Option.bind_some, Option.bind_some, SegEntry.after, SegEntry.after, if_pos hc, oneLost, if_pos rfl, if_pos ⟨by omega, by omega⟩]
    · rw [oneLost, if_neg he]
  · rw [funext hfreed]
    exact h.day
  · simp only [hfreed]
    exact h.queues

/-- A segment in the directory loses a record and, with its last, becomes FREE (R104). -/
theorem SegmentsSwitched.losesOne (h : SegmentsSwitched j p s closed lost u) {k : Nat} {f : SegEntry} (hk : k ∉ j.written.map (·.1))
    (hclosed : ∀ w ∈ closed, w ∈ j.written) (hday : ∀ e, s.seg k = some e → e.day = j.day) (hu : u.seg k = some f) :
    SegmentsSwitched j p s closed (oneLost lost k) (segmentLoses k u) := by
  obtain ⟨e, hs, hlive, rfl⟩ := after_some ((h.old k hk).symm.trans hu)
  obtain ⟨cs, parts, heq, hsegs, -, hparts⟩ := segmentLoses_some hu
  have hfday : e.day = j.day := hday e hs
  have hlast : e.live - lost k ≤ 1 ↔ e.live ≤ lost k + 1 := by omega
  have hfreed (n : Nat) : s.freedBy (oneLost lost k) n = (s.freedBy lost n || (decide (n = k) && decide (e.live ≤ lost k + 1))) := by
    rw [freedBy_oneLost, hs]
    rfl
  have hnew : k ∉ (s.arrivals closed).map (·.1) := fun hm => by
    obtain ⟨w, hw, rfl⟩ := List.mem_map.1 hm
    exact hk (List.mem_map_of_mem (hclosed w (List.mem_filter.1 hw).1))
  obtain ⟨l, hl, hlist⟩ := h.day
  rw [heq]
  refine ⟨fun n hn => ?_, fun w hw => ?_, ?_, fun d hd => ?_, ?_, ?_, h.audit, h.frame⟩
  · refine (hsegs n).trans ?_
    by_cases hnk : n = k
    · subst hnk
      rw [if_pos rfl, hs, Option.bind_some, SegEntry.after, oneLost, if_pos rfl]
      refine if_congr (hlast.trans ⟨fun h => ⟨by omega, h⟩, And.right⟩) rfl ?_
      rw [Nat.sub_sub]
    · rw [if_neg hnk, h.old n hn, oneLost, if_neg hnk]
  · refine (hsegs w.1).trans ((if_neg fun he => ?_).trans (h.new w hw))
    exact hk (he ▸ List.mem_map_of_mem hw)
  · have hpart := hparts j.day
    rw [hl] at hpart
    by_cases hone : e.live ≤ lost k + 1
    · refine ⟨l.filter (· != k), hpart.trans ?_, ?_⟩
      · simp [hlast.2 hone, hfday]
      · rw [show s.freedBy (oneLost lost k) = fun n => s.freedBy lost n || decide (n = k) from
          funext fun n => by rw [hfreed, decide_eq_true hone, Bool.and_true]]
        exact hlist.drop hnew
    · refine ⟨l, hpart.trans ?_, ?_⟩
      · simp [hlast, hone]
      · rw [show s.freedBy (oneLost lost k) = s.freedBy lost from
          funext fun n => by rw [hfreed, decide_eq_false hone, Bool.and_false, Bool.or_false]]
        exact hlist
  · have hother : ¬ (e.live - lost k ≤ 1 ∧ d = e.day) := fun hc => hd (hc.2.trans hfday)
    refine (hparts d).trans ?_
    simp only [if_neg hother, Option.map_id']
    exact h.days d hd
  · by_cases hone : e.live ≤ lost k + 1
    · refine .inl ⟨⟨k, by simp [hfreed, hone]⟩, ?_⟩
      have hl1 : e.live - lost k ≤ 1 := hlast.2 hone
      rcases h.queues with ⟨-, hce, hq⟩ | ⟨-, hce, hwa⟩
      · refine ⟨by simp [hl1, hce], fun ha => ?_⟩
        simp only [hl1, if_true, hce]
        exact hq ha
      · refine ⟨by simp [hl1, hce], fun ha => ?_⟩
        simp only [hl1, if_true, hce, hwa]
        exact ha.waiting_join
    · have hsame (n : Nat) : s.freedBy (oneLost lost k) n = s.freedBy lost n := by
        rw [hfreed, decide_eq_false hone, Bool.and_false, Bool.or_false]
      have hl1 : ¬ e.live - lost k ≤ 1 := fun hc => hone (hlast.1 hc)
      simp only [hsame, hl1, if_false, decide_false, Bool.not_false, Bool.and_true]
      exact h.queues
  · have harb (q : List Nat) : ({ u.wa with packQueue := q } : WorkArbiter) = { s.wa with packQueue := q } := by rw [h.arbiter]
    exact harb _

theorem SegmentsSwitched.loses (h : SegmentsSwitched j p s closed lost u) {k : Nat} (hk : k ∉ j.written.map (·.1))
    (hclosed : ∀ w ∈ closed, w ∈ j.written) (hday : ∀ e, s.seg k = some e → e.day = j.day) :
    SegmentsSwitched j p s closed (oneLost lost k) (segmentLoses k u) := by
  cases hu : u.seg k with
  | none => exact h.losesNone hk hu
  | some f => exact h.losesOne hk hclosed hday hu

/-- The segment that a member leaves, where it moves (R104). -/
def lostWith (s : State) (m : Member) (lost : Nat → Nat) : Nat → Nat := fun k => lost k + if m.stays s && m.inSegment k then 1 else 0

theorem SegmentsSwitched.leaveSnapshot (h : SegmentsSwitched j p s closed lost u) (hclosed : ∀ w ∈ closed, w ∈ j.written) (m : Member)
    (hm : ∀ k, m.stays s = true → m.inSegment k = true → k ∉ j.written.map (·.1) ∧ ∀ e, s.seg k = some e → e.day = j.day) :
    SegmentsSwitched j p s closed (lostWith s m lost) (Machine.leaveSnapshot (m.stays s) m u) := by
  unfold Machine.leaveSnapshot
  cases hloc : m.loc with
  | hot i =>
    have hsame : lostWith s m lost = lost := funext fun k => by simp [lostWith, Member.inSegment, hloc]
    rw [hsame]
    exact h.copies u.ix _
  | segment i o =>
    cases hst : m.stays s with
    | false =>
      have hsame : lostWith s m lost = lost := funext fun k => by simp [lostWith, hst]
      rw [hsame]
      exact h
    | true =>
      have hone : lostWith s m lost = oneLost lost i := by
        funext k
        unfold lostWith oneLost Member.inSegment
        rw [hloc, hst]
        by_cases hk : k = i
        · simp [hk]
        · simp [hk, Ne.symm hk]
      obtain ⟨hi, hday⟩ := hm i hst (by simp [Member.inSegment, hloc])
      rw [hone]
      exact h.loses hi hclosed hday

/-! ## A written segment closed -/

/-- A written segment, its members switched over: FREE where none moved, else ACTIVE in the day's list (R120). -/
def closeSegment (day n moved : Nat) (s : State) : State :=
  if moved = 0 then s.mapCs fun c => { c with dir := Tab.del c.dir n, bodies := Tab.del c.bodies n }
  else
    let s := updSeg n (fun e => { e with state := .active, live := moved }) s
    countUp .segmentsWritten 1 (updPart day (fun p => { p with segments := placeSegment s.firstKeyOf n p.segments }) s)

theorem switchSegment_eq (day : Nat) (s : State) (w : Nat × List Member) : switchSegment day s w =
    closeSegment day w.1 (w.2.zipIdx.foldl (switchMember w.1) (s, 0)).2 (w.2.zipIdx.foldl (switchMember w.1) (s, 0)).1 := rfl

theorem closeSegment_copies (day n moved : Nat) (s : State) : (closeSegment day n moved s).ix = s.ix ∧ (closeSegment day n moved s).hs = s.hs := by
  unfold closeSegment
  split <;> exact ⟨rfl, rfl⟩

/-- The keys by which a segment is placed are those of the directory before the switch-over (R41). -/
theorem SegmentsSwitched.firstKeyOf (h : SegmentsSwitched j p s closed lost u) (hclosed : ∀ w ∈ closed, w ∈ j.written)
    (hl : ListsSegments s.firstKeyOf (j.FitsList p s) p.segments (s.freedBy lost) ((s.arrivals closed).map (·.1)) l)
    (hfit : j.FitsList p s) {m : Nat} (hm : m ∈ l) : u.firstKeyOf m = s.firstKeyOf m := by
  unfold State.firstKeyOf
  rcases (hl.mem m).1 hm with ⟨hold, hfree⟩ | hnew
  · have hw : m ∉ j.written.map (·.1) := fun hc => by
      obtain ⟨w, hw, rfl⟩ := List.mem_map.1 hc
      exact hfit.2 w hw hold
    rw [h.old m hw]
    cases hs : s.seg m with
    | none => rfl
    | some e =>
      rw [State.freedBy, hs, Option.any_some, decide_eq_false_iff_not] at hfree
      rw [Option.bind_some, SegEntry.after, if_neg hfree]
  · obtain ⟨w, hw, rfl⟩ := List.mem_map.1 hnew
    obtain ⟨hc, hmoved⟩ := List.mem_filter.1 hw
    rw [h.new w (hclosed w hc), if_pos (List.mem_map_of_mem hc), State.closedEntry, if_neg (by simpa using hmoved)]
    cases s.seg w.1 <;> rfl

theorem updSeg_firstKeyOf (n moved m : Nat) (u : State) :
    (updSeg n (fun e => { e with state := .active, live := moved }) u).firstKeyOf m = u.firstKeyOf m := by
  unfold State.firstKeyOf
  rw [updSeg_seg]
  by_cases hm : m = n
  · rw [if_pos hm]
    cases u.seg m <;> rfl
  · rw [if_neg hm]

theorem SegmentsSwitched.close (h : SegmentsSwitched j p s closed lost u) (hclosed : ∀ w ∈ closed, w ∈ j.written)
    (hnumbers : (j.written.map (·.1)).Nodup) {w : Nat × List Member} (hw : w ∈ j.written) (hfresh : w.1 ∉ closed.map (·.1)) :
    SegmentsSwitched j p s (closed ++ [w]) lost (closeSegment j.day w.1 (s.movers w.2) u) := by
  obtain ⟨l, hl, hlist⟩ := h.day
  have hsame {v : Nat × List Member} (hv : v ∈ j.written) (he : v.1 = w.1) : v = w := List.inj_on_of_nodup_map hnumbers hv hw he
  have hnew {dir : Tab SegEntry} (hdir : ∀ k, Tab.get dir k = if k = w.1 then s.closedEntry w else u.seg k) (v : Nat × List Member)
      (hv : v ∈ j.written) : Tab.get dir v.1 = if v.1 ∈ (closed ++ [w]).map (·.1) then s.closedEntry v else s.seg v.1 := by
    rw [hdir]
    by_cases he : v.1 = w.1
    · obtain rfl := hsame hv he
      simp
    · rw [if_neg he, h.new v hv]
      refine if_congr ?_ rfl rfl
      simp [he]
  have hold {dir : Tab SegEntry} (hdir : ∀ k, Tab.get dir k = if k = w.1 then s.closedEntry w else u.seg k) (k : Nat)
      (hk : k ∉ j.written.map (·.1)) : Tab.get dir k = (s.seg k).bind (·.after (lost k)) := by
    rw [hdir, if_neg (fun he => hk (List.mem_map.2 ⟨w, hw, he.symm⟩)), h.old k hk]
  unfold closeSegment
  by_cases hmoved : s.movers w.2 = 0
  · have harr : s.arrivals (closed ++ [w]) = s.arrivals closed := by simp [State.arrivals, hmoved]
    have hdir (k : Nat) : Tab.get (Tab.del u.cs.dir w.1) k = if k = w.1 then s.closedEntry w else u.seg k := by
      split
      · rename_i hk
        rw [hk, State.closedEntry, if_pos hmoved, Tab.get_del_self]
      · rename_i hk
        exact Tab.get_del_ne _ hk
    rw [if_pos hmoved]
    refine ⟨hold hdir, hnew hdir, ⟨l, hl, ?_⟩, h.days, h.queues, h.arbiter, ?_, h.frame⟩
    · rw [harr]
      exact hlist
    · rw [harr]
      exact h.audit
  · have harr : s.arrivals (closed ++ [w]) = s.arrivals closed ++ [w] := by simp [State.arrivals, hmoved]
    have hhere : u.seg w.1 = s.seg w.1 := (h.new w hw).trans (if_neg hfresh)
    have hdir (k : Nat) : Tab.get (Tab.upd u.cs.dir w.1 fun e => { e with state := .active, live := s.movers w.2 }) k =
        if k = w.1 then s.closedEntry w else u.seg k := by
      rw [Tab.get_upd]
      split
      · rename_i hk
        rw [hk, State.closedEntry, if_neg hmoved, ← hhere]
        rfl
      · rfl
    rw [if_neg hmoved]
    refine ⟨hold hdir, hnew hdir, ?_, fun d hd => ?_, h.queues, h.arbiter, ?_, h.frame⟩
    · refine ⟨placeSegment (updSeg w.1 (fun e => { e with state := .active, live := s.movers w.2 }) u).firstKeyOf w.1 l, ?_, ?_⟩
      · show (updPart j.day _ (updSeg w.1 _ u)).part j.day = _
        rw [updPart_part, if_pos rfl]
        show (u.part j.day).map _ = _
        rw [hl]
        rfl
      · rw [harr, List.map_append]
        refine hlist.place fun hfit => ⟨?_, fun m hm => ?_⟩
        · rw [updSeg_firstKeyOf, State.firstKeyOf, hhere]
          rfl
        · rw [updSeg_firstKeyOf]
          exact h.firstKeyOf hclosed hlist hfit hm
    · show (updPart j.day _ (updSeg w.1 _ u)).part d = _
      rw [updPart_part, if_neg hd]
      exact h.days d hd
    · rw [harr, List.foldl_append]
      generalize hbank : (s.arrivals closed).foldl (fun b _ => bankAdd b Counter.segmentsWritten 1) s.au.current = bank
      have hcounted : (countUp .segmentsWritten 1 u).au = { s.au with current := bankAdd bank .segmentsWritten 1 } := by
        unfold countUp State.mapAu
        rw [h.audit, hbank]
      exact hcounted

end Sys2Proof.Machine
end

section
/-! The switch-over over all members of all written segments, and its statement (O51). -/

namespace Sys2Proof.Machine

open Wire

variable {s t u : State} {j : Job} {p : Partition} {closed : List (Nat × List Member)} {lost : Nat → Nat} {done : List (Location × Member)}

/-! ## The members of one written segment -/

/-- Where the members of a written segment go, from an ordinal on (R113, R120). -/
def placements (n first : Nat) (ms : List Member) : List (Location × Member) := (ms.zipIdx first).map fun m => (.segment n m.2, m.1)

/-- The records that have left each segment with some members. -/
def lostWithAll (s : State) (ms : List Member) (lost : Nat → Nat) : Nat → Nat :=
  fun k => lost k + ms.countP fun m => m.stays s && m.inSegment k

/-- The segments that members leave are not among the written ones and are of the job's day. -/
def LeavesOldSegments (j : Job) (s : State) (ms : List Member) : Prop :=
  ∀ m ∈ ms, ∀ k, m.stays s = true → m.inSegment k = true → k ∉ j.written.map (·.1) ∧ ∀ e, s.seg k = some e → e.day = j.day

theorem placements_refs (n first : Nat) (ms : List Member) : (placements n first ms).map (·.2.ref) = ms.map (·.ref) := by
  unfold placements
  rw [List.map_map]
  show (ms.zipIdx first).map ((·.ref) ∘ Prod.fst) = _
  rw [← List.map_map, List.zipIdx_map_fst]

/-- The members of a written segment, switched over one after another (R120). -/
theorem switchMembers_switched (n : Nat) (ms : List Member) (hclosed : ∀ w ∈ closed, w ∈ j.written) (hold : LeavesOldSegments j s ms)
    (first c : Nat) (hcopies : CopiesSwitched s done u) (hsegs : SegmentsSwitched j p s closed lost u)
    (hrefs : (done.map (·.2.ref) ++ ms.map (·.ref)).Nodup) :
    let r := (ms.zipIdx first).foldl (switchMember n) (u, c)
    CopiesSwitched s (done ++ placements n first ms) r.1 ∧ SegmentsSwitched j p s closed (lostWithAll s ms lost) r.1 ∧ r.2 = c + s.movers ms := by
  induction ms generalizing first c done lost u with
  | nil =>
    refine ⟨?_, hsegs, rfl⟩
    show CopiesSwitched s (done ++ []) u
    rw [List.append_nil]
    exact hcopies
  | cons m ms ih =>
    have hnew : ∀ d ∈ done, d.2.ref ≠ m.ref := fun d hd he =>
      (List.nodup_append.1 hrefs).2.2 _ (List.mem_map_of_mem (f := fun d : Location × Member => d.2.ref) hd) _ List.mem_cons_self he
    obtain ⟨hstays, hnext⟩ := hcopies.member (.segment n first) m hnew
    have hleft := (hsegs.switchEntry (.segment n first) m).leaveSnapshot hclosed m (hold m List.mem_cons_self)
    rw [hstays] at hnext
    have hrefs' : ((done ++ [((Location.segment n first), m)]).map (·.2.ref) ++ ms.map (·.ref)).Nodup := by
      simpa using hrefs
    obtain ⟨hc, hs, hr⟩ := ih (fun x hx => hold x (List.mem_cons_of_mem m hx)) (first + 1) (if m.stays s then c + 1 else c) hnext hleft hrefs'
    have hstep : ((m :: ms).zipIdx first).foldl (switchMember n) (u, c) = (ms.zipIdx (first + 1)).foldl (switchMember n)
        (leaveSnapshot (m.stays s) m (switchEntry (.segment n first) m u), if m.stays s then c + 1 else c) := by
      rw [List.zipIdx_cons, List.foldl_cons, switchMember_eq, hstays]
    have hlost : lostWithAll s (m :: ms) lost = lostWithAll s ms (lostWith s m lost) := by
      funext k
      unfold lostWithAll lostWith
      rw [List.countP_cons, Nat.add_assoc, Nat.add_comm (List.countP _ ms)]
    intro r
    rw [show r = _ from hstep]
    refine ⟨?_, ?_, ?_⟩
    · rw [List.append_assoc] at hc
      exact hc
    · rw [hlost]
      exact hs
    · rw [hr, State.movers, State.movers, List.countP_cons]
      split <;> omega

theorem CopiesSwitched.congr (h : CopiesSwitched s done u) (hix : t.ix = u.ix) (hhs : t.hs = u.hs) : CopiesSwitched s done t where
  others ref hr := by
    rw [State.lookup, hix]
    exact h.others ref hr
  placed d hd := by
    rw [State.lookup, hix]
    exact h.placed d hd
  slots k := by
    rw [hhs]
    exact h.slots k

/-! ## The written segments -/

/-- The written segments, each with its members, one after another (R120). -/
theorem switchSegments_switched (ws : List (Nat × List Member)) (hw : j.written = closed ++ ws) (hnumbers : (j.written.map (·.1)).Nodup)
    (hold : LeavesOldSegments j s (ws.flatMap (·.2))) (hcopies : CopiesSwitched s done u) (hsegs : SegmentsSwitched j p s closed lost u)
    (hrefs : (done.map (·.2.ref) ++ (ws.flatMap (·.2)).map (·.ref)).Nodup) :
    let r := ws.foldl (switchSegment j.day) u
    CopiesSwitched s (done ++ ws.flatMap fun w => placements w.1 0 w.2) r ∧
    SegmentsSwitched j p s j.written (lostWithAll s (ws.flatMap (·.2)) lost) r := by
  induction ws generalizing closed done lost u with
  | nil =>
    rw [List.append_nil] at hw
    refine ⟨?_, ?_⟩
    · show CopiesSwitched s (done ++ []) u
      rw [List.append_nil]
      exact hcopies
    · rw [hw]
      exact hsegs
  | cons w ws ih =>
    have hclosed : ∀ v ∈ closed, v ∈ j.written := fun v hv => by
      rw [hw]
      exact List.mem_append_left _ hv
    have hmem : w ∈ j.written := by
      rw [hw]
      exact List.mem_append_right _ List.mem_cons_self
    have hfresh : w.1 ∉ closed.map (·.1) := fun hc => by
      rw [hw, List.map_append] at hnumbers
      exact (List.nodup_append.1 hnumbers).2.2 _ hc _ List.mem_cons_self rfl
    rw [List.flatMap_cons] at hold hrefs
    rw [List.map_append, ← List.append_assoc] at hrefs
    obtain ⟨hc, hs, hr⟩ := switchMembers_switched w.1 w.2 hclosed (fun m hm => hold m (List.mem_append_left _ hm)) 0 0 hcopies hsegs
      (List.nodup_append.1 hrefs).1
    rw [Nat.zero_add] at hr
    have hclose := hs.close hclosed hnumbers hmem hfresh
    rw [← hr, ← switchSegment_eq] at hclose
    have hkeep := closeSegment_copies j.day w.1 (w.2.zipIdx.foldl (switchMember w.1) (u, 0)).2 (w.2.zipIdx.foldl (switchMember w.1) (u, 0)).1
    have hnext := hc.congr (t := switchSegment j.day u w) hkeep.1 hkeep.2
    have hrefs' : ((done ++ placements w.1 0 w.2).map (·.2.ref) ++ (ws.flatMap (·.2)).map (·.ref)).Nodup := by
      rw [List.map_append, placements_refs]
      exact hrefs
    obtain ⟨hcs, hss⟩ := ih (closed := closed ++ [w]) (by rw [hw, List.append_assoc]; rfl)
      (fun m hm => hold m (List.mem_append_right _ hm)) hnext hclose hrefs'
    have hlost : lostWithAll s (w.2 ++ ws.flatMap (·.2)) lost = lostWithAll s (ws.flatMap (·.2)) (lostWithAll s w.2 lost) := by
      funext k
      unfold lostWithAll
      rw [List.countP_append, Nat.add_assoc]
    refine ⟨?_, ?_⟩
    · rw [List.flatMap_cons, ← List.append_assoc]
      exact hcs
    · rw [List.flatMap_cons, hlost]
      exact hss

/-! ## The statement -/

theorem mem_placements {n i : Nat} {ms : List Member} {m : Member} (h : ms[i]? = some m) : (Location.segment n i, m) ∈ placements n 0 ms :=
  List.mem_map.2 ⟨(m, i), List.mem_zipIdx_iff_getElem?.2 h, rfl⟩

theorem placements_members (ws : List (Nat × List Member)) (m : Member) :
    (∃ d ∈ ws.flatMap fun w => placements w.1 0 w.2, d.2 = m) ↔ m ∈ ws.flatMap (·.2) := by
  simp only [List.mem_flatMap]
  constructor
  · rintro ⟨d, ⟨w, hw, hd⟩, rfl⟩
    obtain ⟨e, he, rfl⟩ := List.mem_map.1 hd
    exact ⟨w, hw, (List.mem_zipIdx_iff_getElem?.1 he) |> List.mem_of_getElem?⟩
  · rintro ⟨w, hw, hm⟩
    obtain ⟨i, hi⟩ := List.getElem?_of_mem hm
    exact ⟨_, ⟨w, hw, mem_placements hi⟩, rfl⟩

/-- An old segment is listed on where it is in the directory, or was not. -/
theorem stillListed (n : Nat) : (((s.seg n).bind (·.after (lost n))).isSome || (s.seg n).isNone) = !s.freedBy lost n := by
  unfold State.freedBy
  cases s.seg n with
  | none => rfl
  | some e =>
    rw [Option.bind_some, SegEntry.after, Option.any_some]
    by_cases hc : 0 < lost n ∧ e.live ≤ lost n
    · rw [if_pos hc, decide_eq_true hc]
      rfl
    · rw [if_neg hc, decide_eq_false hc]
      rfl

/-- The day's hot records, counted over the map (R120). -/
theorem hotRecords_eq (day : Nat) (s : State) : s.hotRecords day =
    s.ix.map.countP fun e => decide (e.2.day = day) && match e.2.loc with | .hot _ => true | .segment _ _ => false := by
  unfold State.hotRecords Tab.count State.entriesOf Tab.keep
  rw [List.countP_filter]
  refine List.countP_congr fun e _ => ?_
  exact iff_of_eq (congrArg (· = true) (Bool.and_comm _ _))

theorem switchOver_eq (hj : s.ce.job = some j) : switchOver s =
    let r := j.written.foldl (switchSegment j.day) s
    setJob none (releaseMover j.day (updPart j.day (fun p => { p with state := .packed, hotCount := r.hotRecords j.day }) r)) := by
  rw [switchOver, hj]

/-- Settles O51: the members' entries and slots by one invariant, the segments and what waits for them by another, both over the job's
written segments. -/
theorem switchOverMoves : Obligations.SwitchOverMoves := by
  unfold Obligations.SwitchOverMoves
  intro j p s hj hp hnumbers hdir hrefs members gone freed hold moved t
  have hleaves : LeavesOldSegments j s (j.written.flatMap (·.2)) := fun m hm k hst hin =>
    hold k (List.countP_pos_iff.2 ⟨m, hm, by rw [hst, hin]; rfl⟩)
  have hstart : CopiesSwitched s [] s := ⟨fun _ _ => rfl, fun d hd => absurd hd List.not_mem_nil, fun k => by simp⟩
  obtain ⟨hcopies, hsegs⟩ := switchSegments_switched (closed := []) j.written rfl hnumbers hleaves hstart (.start hp)
    (by rw [List.map_nil, List.nil_append]; exact hrefs)
  have hlost : lostWithAll s (j.written.flatMap (·.2)) (fun _ => 0) = gone := funext fun k => Nat.zero_add _
  rw [List.nil_append] at hcopies
  rw [hlost] at hsegs
  have hfreed (k : Nat) : freed k ↔ s.freedBy gone k = true := by
    rw [State.freedBy, Option.any_eq_true]
    exact exists_congr fun e => and_congr_right fun _ => decide_eq_true_iff.symm
  have hnever : (¬ ∃ k, freed k) ↔ ∀ k, s.freedBy gone k = false := by
    simp only [not_exists, hfreed, Bool.not_eq_true]
  have ht := switchOver_eq hj
  generalize hr : j.written.foldl (switchSegment j.day) s = r at hcopies hsegs ht
  obtain ⟨hlookup, hplaced, hslots⟩ := hcopies
  obtain ⟨hold', hnew, ⟨l, hl, hlist⟩, hdays, hqueues, hwa, hau, hlp, hck, hru, hie, hqa, hcl, hpow⟩ := hsegs
  have hmember (m : Member) := placements_members j.written m
  rw [show t = _ from ht]
  refine ⟨fun w hw i m hm => ?_, fun ref hr => ?_, fun k => ?_, fun w hw => ?_, fun k hk => ?_, hau, ?_, fun d hd => ?_, fun h => ?_, fun h => ?_,
    hwa, hlp, hck, hru, hie, hqa, hcl, hpow⟩
  · exact hplaced _ (List.mem_flatMap.2 ⟨w, hw, mem_placements hm⟩)
  · exact hlookup ref fun d hd => hr d.2 ((hmember d.2).1 ⟨d, hd, rfl⟩)
  · refine (hslots k).trans (if_congr ⟨fun ⟨d, hd, he⟩ => ⟨d.2, (hmember d.2).1 ⟨d, hd, rfl⟩, he⟩, fun ⟨m, hm, he⟩ => ?_⟩ rfl rfl)
    obtain ⟨d, hd, rfl⟩ := (hmember m).2 hm
    exact ⟨d, hd, he⟩
  · exact (hnew w hw).trans (if_pos (List.mem_map_of_mem hw))
  · exact hold' k hk
  · have hpart : (setJob none (releaseMover j.day
        (updPart j.day (fun p => { p with state := .packed, hotCount := r.hotRecords j.day }) r))).part j.day =
        some { p with segments := l, state := .packed, hotCount := r.hotRecords j.day, moverHolding := false } := by
      show (releaseMover j.day _).part j.day = _
      rw [releaseMover_part, if_pos rfl, updPart_part, if_pos rfl, hl]
      rfl
    refine ⟨_, hpart, rfl, ?_, fun n => ?_, ?_⟩
    · exact hotRecords_eq j.day r
    · rw [hlist.mem n, hfreed, Bool.not_eq_true]
      refine or_congr Iff.rfl (List.mem_map.trans ⟨fun ⟨w, hw, he⟩ => ?_, fun ⟨w, hw, he, hm⟩ => ⟨w, List.mem_filter.2 ⟨hw, decide_eq_true hm⟩, he⟩⟩)
      obtain ⟨hw, hm⟩ := List.mem_filter.1 hw
      exact ⟨w, hw, he, of_decide_eq_true hm⟩
    · intro key arrived hsorted hfit
      obtain ⟨hpair, hfilter⟩ := hlist.order ⟨hsorted, hfit⟩
      have harrived : arrived = p.segments.filter (fun n => !s.freedBy gone n) ++ (s.arrivals j.written).map (·.1) := by
        refine congrArg (· ++ (s.arrivals j.written).map (·.1)) (List.filter_congr fun n hn => ?_)
        have hw : n ∉ j.written.map (·.1) := fun hc => by
          obtain ⟨w, hw, rfl⟩ := List.mem_map.1 hc
          exact hfit w hw hn
        show ((r.seg n).isSome || (s.seg n).isNone) = _
        rw [hold' n hw]
        exact stillListed n
      refine ⟨hpair, fun k => ?_⟩
      rw [harrived]
      exact hfilter k
  · show (releaseMover j.day _).part d = _
    rw [releaseMover_part, if_neg hd, updPart_part, if_neg hd]
    exact hdays d hd
  · rcases hqueues with ⟨-, hce, hpack⟩ | ⟨hnone, -, -⟩
    · refine ⟨?_, hpack⟩
      show { r.ce with job := none } = _
      rw [hce]
    · exact absurd h (hnever.2 hnone)
  · rcases hqueues with ⟨hsome, -, -⟩ | ⟨-, hce, hwa'⟩
    · exact absurd (hsome.imp fun k hk => (hfreed k).2 hk) h
    · refine ⟨?_, hwa'⟩
      show { r.ce with job := none } = _
      rw [hce]

end Sys2Proof.Machine
end
